-- ==== Sys2Proof/Word.lean ====
section
/-! DEFINITION. The word types of the 80386: bytes, words and double words as bit vectors (00_scope.md R12, 20_memory.md R100). -/

namespace Sys2Proof

/-- A byte, 8 bits. -/
abbrev Byte := BitVec 8

/-- A word, 16 bits. -/
abbrev Word16 := BitVec 16

/-- A double word, 32 bits. -/
abbrev Word32 := BitVec 32

end Sys2Proof
end

