-- ==== Sys2Proof/Config.lean ====
section
/-! DEFINITION. What an implementation or its platform fixes, and the free values of the model. The opaque constants have no body: a claim about the model holds for every value of them. -/

namespace Sys2Proof

/-- One access the processor made to a port or to a memory-mapped device (20_memory.md R116, R118). -/
inductive IoEvent where
  /-- `n` bytes read from the port -/
  | portRead (port : Word16) (n : Nat)
  /-- `n` bytes written to the port -/
  | portWrite (port : Word16) (n : Nat) (value : Word32)
  /-- `n` bytes read from a device at a physical address, in one bus event -/
  | deviceRead (address : Nat) (n : Nat)
  /-- `n` bytes written to a device at a physical address, in one bus event -/
  | deviceWrite (address : Nat) (n : Nat) (value : Word32)
  deriving DecidableEq, Repr

/-- The coprocessors of parameter COPROC (00_scope.md R10). -/
inductive Coprocessor where
  | absent | i80287 | i80387
  deriving DecidableEq, Repr

namespace Config

/-- The free values, numbered in the order they are drawn: what the spec calls UNDEFINED or leaves unstated
(assumption log 4). -/
opaque draw : Nat → Word32

/-- What a port returns, given the accesses made so far (92_eei_decisions.md D7, assumption log 7). -/
opaque portInput : List IoEvent → Word16 → Nat → Word32

/-- What a memory-mapped device returns for a read of `n` bytes, given the accesses made so far
(92_eei_decisions.md D7, assumption log 7). -/
opaque deviceInput : List IoEvent → Nat → Nat → Word32

/-- Parameter HIGH_1M of 92_eei_decisions.md D5: true for `fault`, false for `pass` (assumption log 8). -/
opaque high1MFaults : Bool

/-- Parameter COPROC of 00_scope.md R10. DESIGN CHOICE: no coprocessor (assumption log 9). -/
def coprocessor : Coprocessor := .absent

end Config

end Sys2Proof
end

