-- ==== Sys2Proof/Syntax.lean ====
section
/-! DEFINITION. The instructions of the 80386 as terms: one constructor of `Instr` for each row of spec/opcode_table.json (the rows with operands in the table's order, then those without), and the operand forms they take (30_encoding.md R260 to R291). -/

namespace Sys2Proof

/-- The general registers by their encoding numbers 0 to 7 (10_state.md R31). -/
inductive Reg where
  | eax | ecx | edx | ebx | esp | ebp | esi | edi
  deriving DecidableEq, Repr

/-- The 8-bit views by their encoding numbers 0 to 7 (10_state.md R31). -/
inductive Reg8 where
  | al | cl | dl | bl | ah | ch | dh | bh
  deriving DecidableEq, Repr

/-- The segment registers by their encoding numbers 0 to 5 (30_encoding.md R288). -/
inductive SegReg where
  | es | cs | ss | ds | fs | gs
  deriving DecidableEq, Repr

/-- The conditions by their field `tttn`, 0 to 15 (45_control_transfer.md R492). -/
inductive Cond where
  | o | no | b | nb | z | nz | be | nbe | s | ns | p | np | l | nl | le | nle
  deriving DecidableEq, Repr

/-- The base and index combinations of 16-bit addressing, by `rm` (30_encoding.md R279). -/
inductive Base16 where
  | bxSi | bxDi | bpSi | bpDi | si | di | bp | bx
  deriving DecidableEq, Repr

/-- The displacement of a 16-bit memory form. -/
inductive Disp16 where
  | none
  | d8 (d : Byte)
  | d16 (d : Word16)
  deriving DecidableEq, Repr

/-- The displacement of a 32-bit memory form. -/
inductive Disp32 where
  | none
  | d8 (d : Byte)
  | d32 (d : Word32)
  deriving DecidableEq, Repr

/-- A memory operand as ModRM, SIB and displacement give it (30_encoding.md R279, R280). -/
inductive Mem where
  /-- 16-bit direct offset -/
  | direct16 (off : Word16)
  /-- 16-bit base and index with a displacement -/
  | based16 (base : Base16) (disp : Disp16)
  /-- 32-bit direct offset -/
  | direct32 (off : Word32)
  /-- 32-bit base register with a displacement, no SIB byte -/
  | based32 (base : Reg) (disp : Disp32)
  /-- SIB byte: base, index (the code of esp means no index) and scale `2^ss` -/
  | sib (ss : BitVec 2) (index : Reg) (base : Reg) (disp : Disp32)
  /-- SIB byte with no base and a 32-bit displacement -/
  | sibNoBase (ss : BitVec 2) (index : Reg) (disp : Word32)
  deriving DecidableEq, Repr

/-- The ModRM `rm` operand: a register or a memory operand (40_data_transfer.md R320). -/
inductive Rm (α : Type) where
  | reg (r : α)
  | mem (m : Mem)
  deriving DecidableEq, Repr

/-- The operand size and the address size an instruction is decoded with (30_encoding.md R270, R271):
true for 32 bits, false for 16. -/
structure Ctx where
  os32 : Bool
  as32 : Bool
  deriving DecidableEq, Repr

/-- The instructions, one constructor for each row of the opcode table. A full-size immediate, relative
displacement or direct offset is held in 32 bits, zero-extended when its size is 16. A row of an unassigned
encoding stands for all ModRM bytes with its `reg` field: none of them has a meaning (30_encoding.md R295). -/
inductive Instr where
  /-- R372, ADD Eb,Gb -/
  | addEbGb (e : Rm Reg8) (g : Reg8)
  /-- R372, ADD Ev,Gv -/
  | addEvGv (e : Rm Reg) (g : Reg)
  /-- R372, ADD Gb,Eb -/
  | addGbEb (g : Reg8) (e : Rm Reg8)
  /-- R372, ADD Gv,Ev -/
  | addGvEv (g : Reg) (e : Rm Reg)
  /-- R372, ADD AL,Ib -/
  | addAlIb (imm : Byte)
  /-- R372, ADD eAX,Iv -/
  | addEaxIv (imm : Word32)
  /-- R372, ADD Eb,Ib -/
  | addEbIb (e : Rm Reg8) (imm : Byte)
  /-- R372, ADD Ev,Iv -/
  | addEvIv (e : Rm Reg) (imm : Word32)
  /-- R372, ADD Ev,Ib (sign-extended) -/
  | addEvIbs (e : Rm Reg) (imm : Byte)
  /-- R385, OR Eb,Gb -/
  | orEbGb (e : Rm Reg8) (g : Reg8)
  /-- R385, OR Ev,Gv -/
  | orEvGv (e : Rm Reg) (g : Reg)
  /-- R385, OR Gb,Eb -/
  | orGbEb (g : Reg8) (e : Rm Reg8)
  /-- R385, OR Gv,Ev -/
  | orGvEv (g : Reg) (e : Rm Reg)
  /-- R385, OR AL,Ib -/
  | orAlIb (imm : Byte)
  /-- R385, OR eAX,Iv -/
  | orEaxIv (imm : Word32)
  /-- R385, OR Eb,Ib -/
  | orEbIb (e : Rm Reg8) (imm : Byte)
  /-- R385, OR Ev,Iv -/
  | orEvIv (e : Rm Reg) (imm : Word32)
  /-- R385, OR Ev,Ib (sign-extended) -/
  | orEvIbs (e : Rm Reg) (imm : Byte)
  /-- R373, ADC Eb,Gb -/
  | adcEbGb (e : Rm Reg8) (g : Reg8)
  /-- R373, ADC Ev,Gv -/
  | adcEvGv (e : Rm Reg) (g : Reg)
  /-- R373, ADC Gb,Eb -/
  | adcGbEb (g : Reg8) (e : Rm Reg8)
  /-- R373, ADC Gv,Ev -/
  | adcGvEv (g : Reg) (e : Rm Reg)
  /-- R373, ADC AL,Ib -/
  | adcAlIb (imm : Byte)
  /-- R373, ADC eAX,Iv -/
  | adcEaxIv (imm : Word32)
  /-- R373, ADC Eb,Ib -/
  | adcEbIb (e : Rm Reg8) (imm : Byte)
  /-- R373, ADC Ev,Iv -/
  | adcEvIv (e : Rm Reg) (imm : Word32)
  /-- R373, ADC Ev,Ib (sign-extended) -/
  | adcEvIbs (e : Rm Reg) (imm : Byte)
  /-- R375, SBB Eb,Gb -/
  | sbbEbGb (e : Rm Reg8) (g : Reg8)
  /-- R375, SBB Ev,Gv -/
  | sbbEvGv (e : Rm Reg) (g : Reg)
  /-- R375, SBB Gb,Eb -/
  | sbbGbEb (g : Reg8) (e : Rm Reg8)
  /-- R375, SBB Gv,Ev -/
  | sbbGvEv (g : Reg) (e : Rm Reg)
  /-- R375, SBB AL,Ib -/
  | sbbAlIb (imm : Byte)
  /-- R375, SBB eAX,Iv -/
  | sbbEaxIv (imm : Word32)
  /-- R375, SBB Eb,Ib -/
  | sbbEbIb (e : Rm Reg8) (imm : Byte)
  /-- R375, SBB Ev,Iv -/
  | sbbEvIv (e : Rm Reg) (imm : Word32)
  /-- R375, SBB Ev,Ib (sign-extended) -/
  | sbbEvIbs (e : Rm Reg) (imm : Byte)
  /-- R384, AND Eb,Gb -/
  | andEbGb (e : Rm Reg8) (g : Reg8)
  /-- R384, AND Ev,Gv -/
  | andEvGv (e : Rm Reg) (g : Reg)
  /-- R384, AND Gb,Eb -/
  | andGbEb (g : Reg8) (e : Rm Reg8)
  /-- R384, AND Gv,Ev -/
  | andGvEv (g : Reg) (e : Rm Reg)
  /-- R384, AND AL,Ib -/
  | andAlIb (imm : Byte)
  /-- R384, AND eAX,Iv -/
  | andEaxIv (imm : Word32)
  /-- R384, AND Eb,Ib -/
  | andEbIb (e : Rm Reg8) (imm : Byte)
  /-- R384, AND Ev,Iv -/
  | andEvIv (e : Rm Reg) (imm : Word32)
  /-- R384, AND Ev,Ib (sign-extended) -/
  | andEvIbs (e : Rm Reg) (imm : Byte)
  /-- R374, SUB Eb,Gb -/
  | subEbGb (e : Rm Reg8) (g : Reg8)
  /-- R374, SUB Ev,Gv -/
  | subEvGv (e : Rm Reg) (g : Reg)
  /-- R374, SUB Gb,Eb -/
  | subGbEb (g : Reg8) (e : Rm Reg8)
  /-- R374, SUB Gv,Ev -/
  | subGvEv (g : Reg) (e : Rm Reg)
  /-- R374, SUB AL,Ib -/
  | subAlIb (imm : Byte)
  /-- R374, SUB eAX,Iv -/
  | subEaxIv (imm : Word32)
  /-- R374, SUB Eb,Ib -/
  | subEbIb (e : Rm Reg8) (imm : Byte)
  /-- R374, SUB Ev,Iv -/
  | subEvIv (e : Rm Reg) (imm : Word32)
  /-- R374, SUB Ev,Ib (sign-extended) -/
  | subEvIbs (e : Rm Reg) (imm : Byte)
  /-- R386, XOR Eb,Gb -/
  | xorEbGb (e : Rm Reg8) (g : Reg8)
  /-- R386, XOR Ev,Gv -/
  | xorEvGv (e : Rm Reg) (g : Reg)
  /-- R386, XOR Gb,Eb -/
  | xorGbEb (g : Reg8) (e : Rm Reg8)
  /-- R386, XOR Gv,Ev -/
  | xorGvEv (g : Reg) (e : Rm Reg)
  /-- R386, XOR AL,Ib -/
  | xorAlIb (imm : Byte)
  /-- R386, XOR eAX,Iv -/
  | xorEaxIv (imm : Word32)
  /-- R386, XOR Eb,Ib -/
  | xorEbIb (e : Rm Reg8) (imm : Byte)
  /-- R386, XOR Ev,Iv -/
  | xorEvIv (e : Rm Reg) (imm : Word32)
  /-- R386, XOR Ev,Ib (sign-extended) -/
  | xorEvIbs (e : Rm Reg) (imm : Byte)
  /-- R376, CMP Eb,Gb -/
  | cmpEbGb (e : Rm Reg8) (g : Reg8)
  /-- R376, CMP Ev,Gv -/
  | cmpEvGv (e : Rm Reg) (g : Reg)
  /-- R376, CMP Gb,Eb -/
  | cmpGbEb (g : Reg8) (e : Rm Reg8)
  /-- R376, CMP Gv,Ev -/
  | cmpGvEv (g : Reg) (e : Rm Reg)
  /-- R376, CMP AL,Ib -/
  | cmpAlIb (imm : Byte)
  /-- R376, CMP eAX,Iv -/
  | cmpEaxIv (imm : Word32)
  /-- R376, CMP Eb,Ib -/
  | cmpEbIb (e : Rm Reg8) (imm : Byte)
  /-- R376, CMP Ev,Iv -/
  | cmpEvIv (e : Rm Reg) (imm : Word32)
  /-- R376, CMP Ev,Ib (sign-extended) -/
  | cmpEvIbs (e : Rm Reg) (imm : Byte)
  /-- R393, AAM Ib -/
  | aamIb (imm : Byte)
  /-- R394, AAD Ib -/
  | aadIb (imm : Byte)
  /-- R377, INC r16/r32 -/
  | incR (r : Reg)
  /-- R378, DEC r16/r32 -/
  | decR (r : Reg)
  /-- R331, PUSH r16/r32 -/
  | pushR (r : Reg)
  /-- R333, POP r16/r32 -/
  | popR (r : Reg)
  /-- R532, BOUND Gv,Ma -/
  | boundGvMa (g : Reg) (m : Mem)
  /-- R560, ARPL Ew,Gw -/
  | arplEwGw (e : Rm Reg) (g : Reg)
  /-- R331, PUSH Iv -/
  | pushIv (imm : Word32)
  /-- R331, PUSH Ib (sign-extended) -/
  | pushIbs (imm : Byte)
  /-- R381, IMUL Gv,Ev,Iv -/
  | imulGvEvIv (g : Reg) (e : Rm Reg) (imm : Word32)
  /-- R381, IMUL Gv,Ev,Ib -/
  | imulGvEvIb (g : Reg) (e : Rm Reg) (imm : Byte)
  /-- R497, Jcc rel8 -/
  | jccRel8 (cc : Cond) (rel : Byte)
  /-- R388, TEST Eb,Gb -/
  | testEbGb (e : Rm Reg8) (g : Reg8)
  /-- R388, TEST Ev,Gv -/
  | testEvGv (e : Rm Reg) (g : Reg)
  /-- R330, XCHG Eb,Gb -/
  | xchgEbGb (e : Rm Reg8) (g : Reg8)
  /-- R330, XCHG Ev,Gv -/
  | xchgEvGv (e : Rm Reg) (g : Reg)
  /-- R323, MOV Eb,Gb -/
  | movEbGb (e : Rm Reg8) (g : Reg8)
  /-- R323, MOV Ev,Gv -/
  | movEvGv (e : Rm Reg) (g : Reg)
  /-- R323, MOV Gb,Eb -/
  | movGbEb (g : Reg8) (e : Rm Reg8)
  /-- R323, MOV Gv,Ev -/
  | movGvEv (g : Reg) (e : Rm Reg)
  /-- R326, MOV Ew,Sreg -/
  | movEwSreg (e : Rm Reg) (sr : SegReg)
  /-- R339, LEA Gv,M -/
  | leaGvM (g : Reg) (m : Mem)
  /-- R327, MOV Sreg,Ew -/
  | movSregEw (sr : SegReg) (e : Rm Reg)
  /-- R333, POP Ev -/
  | popEv (e : Rm Reg)
  /-- R330, XCHG eAX,r16/r32 -/
  | xchgEaxR (r : Reg)
  /-- R489, CALL far ptr16:16 / ptr16:32 -/
  | callFar (off : Word32) (sel : Word16)
  /-- R325, MOV AL,Ob -/
  | movAlOb (off : Word32)
  /-- R325, MOV eAX,Ov -/
  | movEaxOv (off : Word32)
  /-- R325, MOV Ob,AL -/
  | movObAl (off : Word32)
  /-- R325, MOV Ov,eAX -/
  | movOvEax (off : Word32)
  /-- R388, TEST AL,Ib -/
  | testAlIb (imm : Byte)
  /-- R388, TEST eAX,Iv -/
  | testEaxIv (imm : Word32)
  /-- R324, MOV r8,Ib -/
  | movR8Ib (r : Reg8) (imm : Byte)
  /-- R324, MOV r16/r32,Iv -/
  | movRIv (r : Reg) (imm : Word32)
  /-- R422, ROL Eb,Ib -/
  | rolEbIb (e : Rm Reg8) (imm : Byte)
  /-- R422, ROL Ev,Ib -/
  | rolEvIb (e : Rm Reg) (imm : Byte)
  /-- R422, ROL Eb,1 -/
  | rolEb1 (e : Rm Reg8)
  /-- R422, ROL Ev,1 -/
  | rolEv1 (e : Rm Reg)
  /-- R422, ROL Eb,CL -/
  | rolEbCl (e : Rm Reg8)
  /-- R422, ROL Ev,CL -/
  | rolEvCl (e : Rm Reg)
  /-- R423, ROR Eb,Ib -/
  | rorEbIb (e : Rm Reg8) (imm : Byte)
  /-- R423, ROR Ev,Ib -/
  | rorEvIb (e : Rm Reg) (imm : Byte)
  /-- R423, ROR Eb,1 -/
  | rorEb1 (e : Rm Reg8)
  /-- R423, ROR Ev,1 -/
  | rorEv1 (e : Rm Reg)
  /-- R423, ROR Eb,CL -/
  | rorEbCl (e : Rm Reg8)
  /-- R423, ROR Ev,CL -/
  | rorEvCl (e : Rm Reg)
  /-- R424, RCL Eb,Ib -/
  | rclEbIb (e : Rm Reg8) (imm : Byte)
  /-- R424, RCL Ev,Ib -/
  | rclEvIb (e : Rm Reg) (imm : Byte)
  /-- R424, RCL Eb,1 -/
  | rclEb1 (e : Rm Reg8)
  /-- R424, RCL Ev,1 -/
  | rclEv1 (e : Rm Reg)
  /-- R424, RCL Eb,CL -/
  | rclEbCl (e : Rm Reg8)
  /-- R424, RCL Ev,CL -/
  | rclEvCl (e : Rm Reg)
  /-- R425, RCR Eb,Ib -/
  | rcrEbIb (e : Rm Reg8) (imm : Byte)
  /-- R425, RCR Ev,Ib -/
  | rcrEvIb (e : Rm Reg) (imm : Byte)
  /-- R425, RCR Eb,1 -/
  | rcrEb1 (e : Rm Reg8)
  /-- R425, RCR Ev,1 -/
  | rcrEv1 (e : Rm Reg)
  /-- R425, RCR Eb,CL -/
  | rcrEbCl (e : Rm Reg8)
  /-- R425, RCR Ev,CL -/
  | rcrEvCl (e : Rm Reg)
  /-- R426, SHL/SAL Eb,Ib -/
  | shlEbIb (e : Rm Reg8) (imm : Byte)
  /-- R426, SHL/SAL Ev,Ib -/
  | shlEvIb (e : Rm Reg) (imm : Byte)
  /-- R426, SHL/SAL Eb,1 -/
  | shlEb1 (e : Rm Reg8)
  /-- R426, SHL/SAL Ev,1 -/
  | shlEv1 (e : Rm Reg)
  /-- R426, SHL/SAL Eb,CL -/
  | shlEbCl (e : Rm Reg8)
  /-- R426, SHL/SAL Ev,CL -/
  | shlEvCl (e : Rm Reg)
  /-- R427, SHR Eb,Ib -/
  | shrEbIb (e : Rm Reg8) (imm : Byte)
  /-- R427, SHR Ev,Ib -/
  | shrEvIb (e : Rm Reg) (imm : Byte)
  /-- R427, SHR Eb,1 -/
  | shrEb1 (e : Rm Reg8)
  /-- R427, SHR Ev,1 -/
  | shrEv1 (e : Rm Reg)
  /-- R427, SHR Eb,CL -/
  | shrEbCl (e : Rm Reg8)
  /-- R427, SHR Ev,CL -/
  | shrEvCl (e : Rm Reg)
  /-- R428, SAR Eb,Ib -/
  | sarEbIb (e : Rm Reg8) (imm : Byte)
  /-- R428, SAR Ev,Ib -/
  | sarEvIb (e : Rm Reg) (imm : Byte)
  /-- R428, SAR Eb,1 -/
  | sarEb1 (e : Rm Reg8)
  /-- R428, SAR Ev,1 -/
  | sarEv1 (e : Rm Reg)
  /-- R428, SAR Eb,CL -/
  | sarEbCl (e : Rm Reg8)
  /-- R428, SAR Ev,CL -/
  | sarEvCl (e : Rm Reg)
  /-- R490, RET near Iw -/
  | retNearIw (imm : Word16)
  /-- R341, LES Gv,Mp -/
  | lesGvMp (g : Reg) (m : Mem)
  /-- R341, LDS Gv,Mp -/
  | ldsGvMp (g : Reg) (m : Mem)
  /-- R324, MOV Eb,Ib -/
  | movEbIb (e : Rm Reg8) (imm : Byte)
  /-- R324, MOV Ev,Iv -/
  | movEvIv (e : Rm Reg) (imm : Word32)
  /-- R530, ENTER Iw,Ib -/
  | enterIwIb (size : Word16) (level : Byte)
  /-- R491, RET far Iw -/
  | retFarIw (imm : Word16)
  /-- R493, INT Ib -/
  | intIb (imm : Byte)
  /-- R590, ESC coprocessor opcode, E -/
  | esc (hi : BitVec 3) (op : BitVec 3) (e : Rm Reg)
  /-- R500, LOOPNE/LOOPNZ rel8 -/
  | loopneRel8 (rel : Byte)
  /-- R500, LOOPE/LOOPZ rel8 -/
  | loopeRel8 (rel : Byte)
  /-- R499, LOOP rel8 -/
  | loopRel8 (rel : Byte)
  /-- R501, JCXZ/JECXZ rel8 -/
  | jcxzRel8 (rel : Byte)
  /-- R340, IN AL,Ib -/
  | inAlIb (imm : Byte)
  /-- R340, IN eAX,Ib -/
  | inEaxIb (imm : Byte)
  /-- R340, OUT Ib,AL -/
  | outIbAl (imm : Byte)
  /-- R340, OUT Ib,eAX -/
  | outIbEax (imm : Byte)
  /-- R487, CALL rel16/rel32 -/
  | callRel (rel : Word32)
  /-- R484, JMP rel16/rel32 -/
  | jmpRel (rel : Word32)
  /-- R486, JMP far ptr16:16 / ptr16:32 -/
  | jmpFar (off : Word32) (sel : Word16)
  /-- R484, JMP rel8 -/
  | jmpRel8 (rel : Byte)
  /-- R388, TEST Eb,Ib -/
  | testEbIb (e : Rm Reg8) (imm : Byte)
  /-- R388, TEST Ev,Iv -/
  | testEvIv (e : Rm Reg) (imm : Word32)
  /-- R387, NOT Eb -/
  | notEb (e : Rm Reg8)
  /-- R387, NOT Ev -/
  | notEv (e : Rm Reg)
  /-- R379, NEG Eb -/
  | negEb (e : Rm Reg8)
  /-- R379, NEG Ev -/
  | negEv (e : Rm Reg)
  /-- R380, MUL AL/AX from Eb -/
  | mulEb (e : Rm Reg8)
  /-- R380, MUL eDX:eAX from Ev -/
  | mulEv (e : Rm Reg)
  /-- R381, IMUL AL/AX from Eb -/
  | imulEb (e : Rm Reg8)
  /-- R381, IMUL eDX:eAX from Ev -/
  | imulEv (e : Rm Reg)
  /-- R382, DIV AL/AX from Eb -/
  | divEb (e : Rm Reg8)
  /-- R382, DIV eDX:eAX from Ev -/
  | divEv (e : Rm Reg)
  /-- R383, IDIV AL/AX from Eb -/
  | idivEb (e : Rm Reg8)
  /-- R383, IDIV eDX:eAX from Ev -/
  | idivEv (e : Rm Reg)
  /-- R377, INC Eb -/
  | incEb (e : Rm Reg8)
  /-- R378, DEC Eb -/
  | decEb (e : Rm Reg8)
  /-- R377, INC Ev -/
  | incEv (e : Rm Reg)
  /-- R378, DEC Ev -/
  | decEv (e : Rm Reg)
  /-- R488, CALL near Ev -/
  | callNearEv (e : Rm Reg)
  /-- R489, CALL far Mp -/
  | callFarMp (m : Mem)
  /-- R485, JMP near Ev -/
  | jmpNearEv (e : Rm Reg)
  /-- R486, JMP far Mp -/
  | jmpFarMp (m : Mem)
  /-- R331, PUSH Ev -/
  | pushEv (e : Rm Reg)
  /-- R545, SLDT Ew -/
  | sldtEw (e : Rm Reg)
  /-- R547, STR Ew -/
  | strEw (e : Rm Reg)
  /-- R544, LLDT Ew -/
  | lldtEw (e : Rm Reg)
  /-- R546, LTR Ew -/
  | ltrEw (e : Rm Reg)
  /-- R561, VERR Ew -/
  | verrEw (e : Rm Reg)
  /-- R562, VERW Ew -/
  | verwEw (e : Rm Reg)
  /-- R542, SGDT Ms -/
  | sgdtMs (m : Mem)
  /-- R543, SIDT Ms -/
  | sidtMs (m : Mem)
  /-- R540, LGDT Ms -/
  | lgdtMs (m : Mem)
  /-- R541, LIDT Ms -/
  | lidtMs (m : Mem)
  /-- R551, SMSW Ew -/
  | smswEw (e : Rm Reg)
  /-- R550, LMSW Ew -/
  | lmswEw (e : Rm Reg)
  /-- R564, LAR Gv,Ew -/
  | larGvEw (g : Reg) (e : Rm Reg)
  /-- R563, LSL Gv,Ew -/
  | lslGvEw (g : Reg) (e : Rm Reg)
  /-- R553, MOV r32,CRn -/
  | movRCr (md : BitVec 2) (n : BitVec 3) (r : Reg)
  /-- R552, MOV CRn,r32 -/
  | movCrR (md : BitVec 2) (n : BitVec 3) (r : Reg)
  /-- R554, MOV r32,DRn -/
  | movRDr (md : BitVec 2) (n : BitVec 3) (r : Reg)
  /-- R554, MOV DRn,r32 -/
  | movDrR (md : BitVec 2) (n : BitVec 3) (r : Reg)
  /-- R555, MOV r32,TRn -/
  | movRTr (md : BitVec 2) (n : BitVec 3) (r : Reg)
  /-- R555, MOV TRn,r32 -/
  | movTrR (md : BitVec 2) (n : BitVec 3) (r : Reg)
  /-- R497, Jcc rel16/rel32 -/
  | jccRel (cc : Cond) (rel : Word32)
  /-- R498, SETcc Eb -/
  | setccEb (cc : Cond) (x : BitVec 3) (e : Rm Reg8)
  /-- R461, BT Ev,Gv -/
  | btEvGv (e : Rm Reg) (g : Reg)
  /-- R462, BTS Ev,Gv -/
  | btsEvGv (e : Rm Reg) (g : Reg)
  /-- R463, BTR Ev,Gv -/
  | btrEvGv (e : Rm Reg) (g : Reg)
  /-- R464, BTC Ev,Gv -/
  | btcEvGv (e : Rm Reg) (g : Reg)
  /-- R429, SHLD Ev,Gv,Ib -/
  | shldEvGvIb (e : Rm Reg) (g : Reg) (imm : Byte)
  /-- R429, SHLD Ev,Gv,CL -/
  | shldEvGvCl (e : Rm Reg) (g : Reg)
  /-- R430, SHRD Ev,Gv,Ib -/
  | shrdEvGvIb (e : Rm Reg) (g : Reg) (imm : Byte)
  /-- R430, SHRD Ev,Gv,CL -/
  | shrdEvGvCl (e : Rm Reg) (g : Reg)
  /-- R381, IMUL Gv,Ev -/
  | imulGvEv (g : Reg) (e : Rm Reg)
  /-- R341, LSS Gv,Mp -/
  | lssGvMp (g : Reg) (m : Mem)
  /-- R341, LFS Gv,Mp -/
  | lfsGvMp (g : Reg) (m : Mem)
  /-- R341, LGS Gv,Mp -/
  | lgsGvMp (g : Reg) (m : Mem)
  /-- R328, MOVZX Gv,Eb -/
  | movzxGvEb (g : Reg) (e : Rm Reg8)
  /-- R328, MOVZX Gv,Ew -/
  | movzxGvEw (g : Reg) (e : Rm Reg)
  /-- R461, BT Ev,Ib -/
  | btEvIb (e : Rm Reg) (imm : Byte)
  /-- R462, BTS Ev,Ib -/
  | btsEvIb (e : Rm Reg) (imm : Byte)
  /-- R463, BTR Ev,Ib -/
  | btrEvIb (e : Rm Reg) (imm : Byte)
  /-- R464, BTC Ev,Ib -/
  | btcEvIb (e : Rm Reg) (imm : Byte)
  /-- R465, BSF Gv,Ev -/
  | bsfGvEv (g : Reg) (e : Rm Reg)
  /-- R466, BSR Gv,Ev -/
  | bsrGvEv (g : Reg) (e : Rm Reg)
  /-- R329, MOVSX Gv,Eb -/
  | movsxGvEb (g : Reg) (e : Rm Reg8)
  /-- R329, MOVSX Gv,Ew -/
  | movsxGvEw (g : Reg) (e : Rm Reg)
  /-- R332, PUSH ES -/
  | pushEs
  /-- R332, PUSH CS -/
  | pushCs
  /-- R332, PUSH SS -/
  | pushSs
  /-- R332, PUSH DS -/
  | pushDs
  /-- R334, POP ES -/
  | popEs
  /-- R334, POP SS -/
  | popSs
  /-- R334, POP DS -/
  | popDs
  /-- R332, PUSH FS -/
  | pushFs
  /-- R334, POP FS -/
  | popFs
  /-- R332, PUSH GS -/
  | pushGs
  /-- R334, POP GS -/
  | popGs
  /-- R265, ES: prefix: segment override ES: -/
  | segEs
  /-- R265, CS: prefix: segment override CS: -/
  | segCs
  /-- R265, SS: prefix: segment override SS: -/
  | segSs
  /-- R265, DS: prefix: segment override DS: -/
  | segDs
  /-- R265, FS: prefix: segment override FS: -/
  | segFs
  /-- R265, GS: prefix: segment override GS: -/
  | segGs
  /-- R270, OPSIZE prefix: operand size -/
  | opSize
  /-- R271, ADSIZE prefix: address size -/
  | adSize
  /-- R589, LOCK prefix -/
  | lock
  /-- R441, REPNE prefix (REPNE/REPNZ) -/
  | repne
  /-- R441, REP prefix (REP/REPE/REPZ) -/
  | rep
  /-- R389, DAA  -/
  | daa
  /-- R390, DAS  -/
  | das
  /-- R391, AAA  -/
  | aaa
  /-- R392, AAS  -/
  | aas
  /-- R335, PUSHA/PUSHAD  -/
  | pusha
  /-- R336, POPA/POPAD  -/
  | popa
  /-- R447, INSB  -/
  | insb
  /-- R447, INSW/INSD  -/
  | insw
  /-- R448, OUTSB  -/
  | outsb
  /-- R448, OUTSW/OUTSD  -/
  | outsw
  /-- R588, NOP  -/
  | nop
  /-- R345, CBW/CWDE  -/
  | cbw
  /-- R346, CWD/CDQ  -/
  | cwd
  /-- R591, WAIT  -/
  | wait
  /-- R337, PUSHF/PUSHFD  -/
  | pushf
  /-- R338, POPF/POPFD  -/
  | popf
  /-- R344, SAHF  -/
  | sahf
  /-- R343, LAHF  -/
  | lahf
  /-- R442, MOVSB  -/
  | movsb
  /-- R442, MOVSW/MOVSD  -/
  | movsw
  /-- R443, CMPSB  -/
  | cmpsb
  /-- R443, CMPSW/CMPSD  -/
  | cmpsw
  /-- R446, STOSB  -/
  | stosb
  /-- R446, STOSW/STOSD  -/
  | stosw
  /-- R445, LODSB  -/
  | lodsb
  /-- R445, LODSW/LODSD  -/
  | lodsw
  /-- R444, SCASB  -/
  | scasb
  /-- R444, SCASW/SCASD  -/
  | scasw
  /-- R490, RET near -/
  | retNear
  /-- R531, LEAVE  -/
  | leave
  /-- R491, RET far -/
  | retFar
  /-- R494, INT 3  -/
  | int3
  /-- R495, INTO  -/
  | into
  /-- R496, IRET/IRETD  -/
  | iret
  /-- R342, XLAT  -/
  | xlat
  /-- R340, IN AL,DX -/
  | inAlDx
  /-- R340, IN eAX,DX -/
  | inEaxDx
  /-- R340, OUT DX,AL -/
  | outDxAl
  /-- R340, OUT DX,eAX -/
  | outDxEax
  /-- R585, HLT  -/
  | hlt
  /-- R582, CMC  -/
  | cmc
  /-- R580, CLC  -/
  | clc
  /-- R581, STC  -/
  | stc
  /-- R586, CLI  -/
  | cli
  /-- R587, STI  -/
  | sti
  /-- R583, CLD  -/
  | cld
  /-- R584, STD  -/
  | std
  /-- R556, CLTS  -/
  | clts
  /-- R295, (UD) unassigned one-byte opcode -/
  | ud82
  /-- R295, (UD) unassigned one-byte opcode -/
  | udD6
  /-- R295, (UD) unassigned one-byte opcode -/
  | udF1
  /-- R421, (UD) group 2 /6 -/
  | udC0s6
  /-- R421, (UD) group 2 /6 -/
  | udC1s6
  /-- R421, (UD) group 2 /6 -/
  | udD0s6
  /-- R421, (UD) group 2 /6 -/
  | udD1s6
  /-- R421, (UD) group 2 /6 -/
  | udD2s6
  /-- R421, (UD) group 2 /6 -/
  | udD3s6
  /-- R295, (UD) group 3 /1 -/
  | udF6s1
  /-- R295, (UD) group 3 /1 -/
  | udF7s1
  /-- R290, (UD) group 4 /2 -/
  | udFEs2
  /-- R290, (UD) group 4 /3 -/
  | udFEs3
  /-- R290, (UD) group 4 /4 -/
  | udFEs4
  /-- R290, (UD) group 4 /5 -/
  | udFEs5
  /-- R290, (UD) group 4 /6 -/
  | udFEs6
  /-- R290, (UD) group 4 /7 -/
  | udFEs7
  /-- R290, (UD) group 5 /7 -/
  | udFFs7
  /-- R333, (UD) 8F /1 -/
  | ud8Fs1
  /-- R324, (UD) C6 /1 -/
  | udC6s1
  /-- R324, (UD) C7 /1 -/
  | udC7s1
  /-- R333, (UD) 8F /2 -/
  | ud8Fs2
  /-- R324, (UD) C6 /2 -/
  | udC6s2
  /-- R324, (UD) C7 /2 -/
  | udC7s2
  /-- R333, (UD) 8F /3 -/
  | ud8Fs3
  /-- R324, (UD) C6 /3 -/
  | udC6s3
  /-- R324, (UD) C7 /3 -/
  | udC7s3
  /-- R333, (UD) 8F /4 -/
  | ud8Fs4
  /-- R324, (UD) C6 /4 -/
  | udC6s4
  /-- R324, (UD) C7 /4 -/
  | udC7s4
  /-- R333, (UD) 8F /5 -/
  | ud8Fs5
  /-- R324, (UD) C6 /5 -/
  | udC6s5
  /-- R324, (UD) C7 /5 -/
  | udC7s5
  /-- R333, (UD) 8F /6 -/
  | ud8Fs6
  /-- R324, (UD) C6 /6 -/
  | udC6s6
  /-- R324, (UD) C7 /6 -/
  | udC7s6
  /-- R333, (UD) 8F /7 -/
  | ud8Fs7
  /-- R324, (UD) C6 /7 -/
  | udC6s7
  /-- R324, (UD) C7 /7 -/
  | udC7s7
  /-- R291, (UD) group 6 /6 -/
  | ud0F00s6
  /-- R291, (UD) group 6 /7 -/
  | ud0F00s7
  /-- R291, (UD) group 7 /5 -/
  | ud0F01s5
  /-- R291, (UD) group 7 /7 -/
  | ud0F01s7
  /-- R467, (UD) group 8 /0 -/
  | ud0FBAs0
  /-- R467, (UD) group 8 /1 -/
  | ud0FBAs1
  /-- R467, (UD) group 8 /2 -/
  | ud0FBAs2
  /-- R467, (UD) group 8 /3 -/
  | ud0FBAs3
  /-- R467, (UD) unassigned two-byte opcode -/
  | ud0FA6
  /-- R467, (UD) unassigned two-byte opcode -/
  | ud0FA7
  deriving DecidableEq, Repr

end Sys2Proof
end

