-- ==== Sys2Proof/Machine/State.lean ====
section
/-! DEFINITION. The state of the machine as plain data: every piece of state that 10_state.md gives the processor, the memory, the platform's inputs, and the model's own fields that are marked so. -/

namespace Sys2Proof.Machine

/-- The faults with which the model itself stops. -/
inductive Fault where
  /-- Raised by `deliverFrom` when the delivery of an exception raises another one without end
  (60_exceptions.md R668; assumption log 16). Safe: the machine never leaves this delivery. -/
  | deliveryLoop
  deriving DecidableEq, Repr

/-- The refusals: effects the spec says it does not give. -/
inductive Refusal where
  /-- An instruction that has no meaning yet. Safe. -/
  | notModelled (mnemonic : String)
  /-- Raised by MOV to CR0 when it would set PG with PE clear (93_implementation_defined.md U6; assumption log 20). Safe. -/
  | pagingWithoutProtection
  /-- Raised by a task switch when TR was never loaded (61_task_switching.md R694, 93_implementation_defined.md U18;
  assumption log 21). Safe. -/
  | taskSwitchWithoutTss
  deriving DecidableEq, Repr

/-- The eight general registers (10_state.md R31). -/
structure Gprs where
  eax : Word32
  ecx : Word32
  edx : Word32
  ebx : Word32
  esp : Word32
  ebp : Word32
  esi : Word32
  edi : Word32
  deriving DecidableEq, Repr

/-- The flags of EFLAGS (10_state.md R40). `ie` is IF and `ovf` is OF. The constant and reserved bits have no storage. -/
structure Flags where
  cf : Bool
  pf : Bool
  af : Bool
  zf : Bool
  sf : Bool
  tf : Bool
  ie : Bool
  df : Bool
  ovf : Bool
  iopl : BitVec 2
  nt : Bool
  rf : Bool
  vm : Bool
  deriving DecidableEq, Repr

/-- The bits of CR0 (10_state.md R61). -/
structure Cr0 where
  pe : Bool
  mp : Bool
  em : Bool
  ts : Bool
  et : Bool
  pg : Bool
  deriving DecidableEq, Repr

/-- GDTR or IDTR (10_state.md R72, R73). -/
structure TableReg where
  base : Word32
  limit : Word16
  deriving DecidableEq, Repr

/-- LDTR or TR with its hidden part (10_state.md R74, R75). `is386` is the kind of TSS that TR names
(61_task_switching.md R680); LDTR does not use it. -/
structure SystemReg where
  sel : Word16
  base : Word32
  limit : Word32
  valid : Bool
  is386 : Bool
  deriving DecidableEq, Repr

/-- A segment register with its descriptor cache (10_state.md R56, R57; 21_segmentation_protection.md R186).
`executable` is true for a code segment, and in real mode and V86 mode, where every segment can be read, written and
executed (20_memory.md R108). -/
structure SegCache where
  sel : Word16
  base : Word32
  limit : Word32
  valid : Bool
  readable : Bool
  writable : Bool
  executable : Bool
  expandDown : Bool
  conforming : Bool
  big : Bool
  dpl : BitVec 2
  deriving DecidableEq, Repr

/-- The six segment registers. -/
structure Segs where
  es : SegCache
  cs : SegCache
  ss : SegCache
  ds : SegCache
  fs : SegCache
  gs : SegCache
  deriving DecidableEq, Repr

/-- One entry of the TLB (22_paging.md R236, R249): `rights` is (U/S, R/W). -/
structure TlbEntry where
  page : BitVec 20
  frame : BitVec 20
  rights : BitVec 2
  dirty : Bool
  deriving DecidableEq, Repr

/-- A byte that the prefetch queue may hold from before a store or a change of translation: its linear address and
the value it was fetched with (20_memory.md R140, 22_paging.md R255). -/
structure StaleByte where
  address : Word32
  value : Byte
  deriving DecidableEq, Repr

/-- The run state (10_state.md R91). -/
inductive RunState where
  | running | halted | shutdown
  deriving DecidableEq, Repr

/-- What answers at a physical address (92_eei_decisions.md D7). -/
inductive MemKind where
  | ram | rom | device | nothing
  deriving DecidableEq, Repr

/-- A region of the platform's memory map. -/
structure Region where
  base : Nat
  size : Nat
  kind : MemKind
  deriving DecidableEq, Repr

/-- The repeat prefixes (43_string.md R441). -/
inductive RepKind where
  | repne | rep
  deriving DecidableEq, Repr

/-- The working latch of the instruction being executed. It is idle between steps (assumption log 12). -/
structure Latch where
  /-- the offset after the last byte fetched (92_eei_decisions.md D1) -/
  npc : Word32
  /-- how many bytes were fetched, prefixes included -/
  count : Nat
  /-- the last item was a prefix: more of the instruction follows -/
  inPrefix : Bool
  /-- 66h was seen -/
  opSize : Bool
  /-- 67h was seen -/
  adSize : Bool
  /-- the last segment override -/
  seg : Option SegReg
  /-- F0h was seen -/
  lock : Bool
  /-- the last repeat prefix -/
  rep : Option RepKind
  /-- the instruction wrote `pc` -/
  jumped : Bool
  /-- the instruction is a string element and more elements follow: `pc` stays -/
  repeats : Bool
  /-- the instruction loaded RF, which its completion does not clear (10_state.md R52) -/
  keepRf : Bool
  /-- the instruction entered a handler: no single-step trap follows (60_exceptions.md R660) -/
  noTrap : Bool
  /-- a task switch has passed its phase A: a fault no longer restores the old state (61_task_switching.md R693) -/
  committed : Bool
  /-- the bits the page walker set, as (address, bits): a fault does not take them back (assumption log 15) -/
  walk : List Host.Cell
  deriving DecidableEq, Repr

/-- The latch between steps. -/
def Latch.idle : Latch :=
  { npc := 0, count := 0, inPrefix := false, opSize := false, adSize := false, seg := none, lock := false, rep := none,
    jumped := false, repeats := false, keepRf := false, noTrap := false, committed := false, walk := [] }

/-- The state of the machine. -/
structure State where
  gpr : Gprs
  pc : Word32
  flags : Flags
  cr0 : Cr0
  cr2 : Word32
  cr3 : Word32
  dr0 : Word32
  dr1 : Word32
  dr2 : Word32
  dr3 : Word32
  dr6 : Word32
  dr7 : Word32
  tr6 : Word32
  tr7 : Word32
  gdtr : TableReg
  idtr : TableReg
  ldtr : SystemReg
  tr : SystemReg
  segs : Segs
  /-- the privilege level of the running code in protected mode (21_segmentation_protection.md R190) -/
  cpl : BitVec 2
  /-- the listed bytes of physical memory, in the canonical form of `Memory.wf` -/
  mem : List Host.Cell
  /-- the platform's memory map; an address in no region is RAM -/
  memMap : List Region
  tlb : List TlbEntry
  stale : List StaleByte
  nmiPending : Bool
  nmiInService : Bool
  run : RunState
  /-- the INTR pin: the vector its controller supplies when it is active (60_exceptions.md R625) -/
  intr : Option Byte
  /-- a debug trap waits for the next boundary (60_exceptions.md R635) -/
  dbgPending : Bool
  /-- the last step was an element of an unfinished repeated string instruction -/
  repActive : Bool
  /-- the model's own record of the outcome `unrestartable` (60_exceptions.md R616; assumption log 48): a page fault was
  taken inside a task switch that had passed its phase A -/
  unrestartable : Bool
  /-- the port and device accesses made so far, the latest first -/
  ioTrace : List IoEvent
  /-- how many free values were drawn (assumption log 4) -/
  draws : Nat
  cur : Latch
  deriving DecidableEq, Repr

/-- A segment register as real mode leaves it (10_state.md R57): base `sel << 4`, limit FFFFh, all access allowed. -/
def SegCache.real (sel : Word16) (dpl : BitVec 2) : SegCache :=
  { sel := sel, base := sel.setWidth 32 <<< 4, limit := 0xFFFF, valid := true, readable := true, writable := true,
    executable := true, expandDown := false, conforming := false, big := false, dpl := dpl }

/-- The machine right after reset (10_state.md R95, 70_reset_and_hazards.md R721). The values the spec leaves undefined
are 0: DESIGN CHOICE, assumption logs 1, 2 and 5. -/
def State.reset : State :=
  { gpr := { eax := 0, ecx := 0, edx := 0, ebx := 0, esp := 0, ebp := 0, esi := 0, edi := 0 }
    pc := 0x0000FFF0
    flags := { cf := false, pf := false, af := false, zf := false, sf := false, tf := false, ie := false, df := false,
               ovf := false, iopl := 0, nt := false, rf := false, vm := false }
    cr0 := { pe := false, mp := false, em := false, ts := false, et := Config.coprocessor == .i80387, pg := false }
    cr2 := 0
    cr3 := 0
    dr0 := 0
    dr1 := 0
    dr2 := 0
    dr3 := 0
    dr6 := 0
    dr7 := 0
    tr6 := 0
    tr7 := 0
    gdtr := { base := 0, limit := 0 }
    idtr := { base := 0, limit := 0x03FF }
    ldtr := { sel := 0, base := 0, limit := 0, valid := false, is386 := false }
    tr := { sel := 0, base := 0, limit := 0, valid := false, is386 := false }
    segs := { es := SegCache.real 0 0, cs := { SegCache.real 0xF000 0 with base := 0xFFFF0000 }, ss := SegCache.real 0 0,
              ds := SegCache.real 0 0, fs := SegCache.real 0 0, gs := SegCache.real 0 0 }
    cpl := 0
    mem := []
    memMap := []
    tlb := []
    stale := []
    nmiPending := false
    nmiInService := false
    run := .running
    intr := none
    dbgPending := false
    repActive := false
    unrestartable := false
    ioTrace := []
    draws := 0
    cur := Latch.idle }

end Sys2Proof.Machine
end

