-- ==== Sys2Proof/Machine/Monad.lean ====
section
/-! DEFINITION. How the parts of an instruction are put together: a state that is passed on, or an event that ends the instruction. -/

namespace Sys2Proof.Machine

/-- What can end an instruction before its completion. -/
inductive Exc where
  /-- an exception with its vector and its error code in the form of 60_exceptions.md R620 -/
  | vector (v : Byte) (err : Option Word16)
  /-- a page fault with the linear address that caused it and its error code (22_paging.md R245, R246) -/
  | pageFault (address : Word32) (code : Word16)
  /-- the processor shuts down (60_exceptions.md R672) -/
  | shutdown
  /-- the model stops -/
  | stop (f : Fault)
  /-- the spec gives no effect -/
  | refuse (r : Refusal)
  deriving DecidableEq, Repr

/-- A part of an instruction. -/
abbrev M := EStateM Exc State

/-- Read something of the state. -/
def reads {α : Type} (f : State → α) : M α := fun s => .ok (f s) s

/-- Change the state. -/
def update (f : State → State) : M Unit := fun s => .ok () (f s)

/-- End the instruction. -/
def raise {α : Type} (e : Exc) : M α := fun s => .error e s

/-- Raise an event when a condition holds. -/
def raiseIf (c : Bool) (e : Exc) : M Unit := fun s => if c then .error e s else .ok () s

/-- Do something under a condition. -/
def whenever (c : Bool) (m : M Unit) : M Unit := if c then m else pure ()

/-- Draw a free value (00_scope.md UNDEFINED; assumption log 4). -/
def draw : M Word32 := fun s => .ok (Config.draw s.draws) { s with draws := s.draws + 1 }

/-- DE, the divide error (60_exceptions.md R650). -/
def Exc.de : Exc := .vector 0 none
/-- BR, the bound fault (60_exceptions.md R654). -/
def Exc.br : Exc := .vector 5 none
/-- UD, the undefined opcode (60_exceptions.md R655). -/
def Exc.ud : Exc := .vector 6 none
/-- NM, no coprocessor (60_exceptions.md R658). -/
def Exc.nm : Exc := .vector 7 none
/-- TS, the invalid task state segment (60_exceptions.md R659). -/
def Exc.ts (code : Word16) : Exc := .vector 10 (some code)
/-- NP, the segment not present (60_exceptions.md R663). -/
def Exc.np (code : Word16) : Exc := .vector 11 (some code)
/-- SS, the stack fault (60_exceptions.md R664). -/
def Exc.ss (code : Word16) : Exc := .vector 12 (some code)
/-- GP, the general protection fault (60_exceptions.md R665). -/
def Exc.gp (code : Word16) : Exc := .vector 13 (some code)

end Sys2Proof.Machine
end

