-- ==== Sys2Proof/Machine/Bits.lean ====
section
/-! DEFINITION. Byte order and bit-field helpers (20_memory.md R101, 00_scope.md R12). -/

namespace Sys2Proof.Machine

/-- The number whose bytes, least significant first, are listed. -/
def ofBytes : List Byte → Nat
  | [] => 0
  | b :: bs => b.toNat + 256 * ofBytes bs

/-- The `n` low bytes of a number, least significant first. -/
def toBytes : Nat → Nat → List Byte
  | 0, _ => []
  | n + 1, v => BitVec.ofNat 8 v :: toBytes n (v / 256)

/-- `old` with its low `n` bits replaced (10_state.md R32). -/
def insertLow {n : Nat} (old : Word32) (v : BitVec n) : Word32 := (old >>> n <<< n) ||| v.setWidth 32

/-- A value kept whole for a 32-bit size and cut to its low 16 bits for a 16-bit one. -/
def sized (is32 : Bool) (v : Word32) : Word32 := if is32 then v else v &&& 0xFFFF

/-- One bit as a Boolean. -/
def bitAt {n : Nat} (v : BitVec n) (i : Nat) : Bool := v.getLsbD i

/-- A selector's index and table indicator with the low two bits cleared (60_exceptions.md R620). -/
def selectorCode (sel : Word16) : Word16 := sel &&& 0xFFFC

/-- The requested privilege level of a selector (21_segmentation_protection.md R152). -/
def rpl (sel : Word16) : BitVec 2 := sel.extractLsb' 0 2

/-- The null selectors 0000h to 0003h (21_segmentation_protection.md R156). -/
def isNull (sel : Word16) : Bool := sel.extractLsb' 2 14 == 0

end Sys2Proof.Machine
end

