-- ==== Sys2Proof/Machine/Registers.lean ====
section
/-! DEFINITION. Reading and writing registers, and the image of EFLAGS (10_state.md R31 to R55). -/

namespace Sys2Proof.Machine

/-- A 32-bit general register. -/
def Gprs.get (g : Gprs) : Reg → Word32
  | .eax => g.eax | .ecx => g.ecx | .edx => g.edx | .ebx => g.ebx
  | .esp => g.esp | .ebp => g.ebp | .esi => g.esi | .edi => g.edi

/-- The general registers with one of them written. -/
def Gprs.set (g : Gprs) (r : Reg) (v : Word32) : Gprs :=
  match r with
  | .eax => { g with eax := v } | .ecx => { g with ecx := v } | .edx => { g with edx := v } | .ebx => { g with ebx := v }
  | .esp => { g with esp := v } | .ebp => { g with ebp := v } | .esi => { g with esi := v } | .edi => { g with edi := v }

/-- A 32-bit general register of the machine. -/
def State.reg (s : State) (r : Reg) : Word32 := s.gpr.get r

/-- Write a 32-bit general register. -/
def State.setReg (s : State) (r : Reg) (v : Word32) : State := { s with gpr := s.gpr.set r v }

/-- The low `n` bits of a general register (10_state.md R31). -/
def State.regN (s : State) (n : Nat) (r : Reg) : BitVec n := (s.reg r).setWidth n

/-- Write the low `n` bits of a general register; its other bits are kept (10_state.md R32). -/
def State.setRegN {n : Nat} (s : State) (r : Reg) (v : BitVec n) : State := s.setReg r (insertLow (s.reg r) v)

/-- The register that an 8-bit view is part of (10_state.md R31). -/
def wholeOf : Reg8 → Reg
  | .al => .eax | .cl => .ecx | .dl => .edx | .bl => .ebx | .ah => .eax | .ch => .ecx | .dh => .edx | .bh => .ebx

/-- The lowest bit of an 8-bit view in its register (10_state.md R31). -/
def shiftOf : Reg8 → Nat
  | .al => 0 | .cl => 0 | .dl => 0 | .bl => 0 | .ah => 8 | .ch => 8 | .dh => 8 | .bh => 8

/-- An 8-bit view (10_state.md R31). -/
def State.reg8 (s : State) (r : Reg8) : Byte := (s.reg (wholeOf r)).extractLsb' (shiftOf r) 8

/-- A double word with its bits 7..0 or 15..8 replaced. -/
def insertByte (old : Word32) (shift : Nat) (v : Byte) : Word32 :=
  (old &&& ~~~((0xFF : Word32) <<< shift)) ||| (v.setWidth 32 <<< shift)

/-- Write an 8-bit view; the other bits of its register are kept (10_state.md R32). -/
def State.setReg8 (s : State) (r : Reg8) (v : Byte) : State :=
  s.setReg (wholeOf r) (insertByte (s.reg (wholeOf r)) (shiftOf r) v)

/-- A segment register with its cache. -/
def Segs.get (g : Segs) : SegReg → SegCache
  | .es => g.es | .cs => g.cs | .ss => g.ss | .ds => g.ds | .fs => g.fs | .gs => g.gs

/-- The segment registers with one of them written. -/
def Segs.set (g : Segs) (r : SegReg) (c : SegCache) : Segs :=
  match r with
  | .es => { g with es := c } | .cs => { g with cs := c } | .ss => { g with ss := c }
  | .ds => { g with ds := c } | .fs => { g with fs := c } | .gs => { g with gs := c }

/-- A segment register of the machine. -/
def State.seg (s : State) (r : SegReg) : SegCache := s.segs.get r

/-- Write a segment register. -/
def State.setSeg (s : State) (r : SegReg) (c : SegCache) : State := { s with segs := s.segs.set r c }

/-- Protected mode with VM = 0. -/
def State.protected (s : State) : Bool := s.cr0.pe && !s.flags.vm

/-- Virtual 8086 mode (62_virtual_8086.md R701). -/
def State.v86 (s : State) : Bool := s.cr0.pe && s.flags.vm

/-- CPL: 0 in real mode, 3 in V86 mode (21_segmentation_protection.md R190). -/
def State.level (s : State) : BitVec 2 := if !s.cr0.pe then 0 else if s.flags.vm then 3 else s.cpl

/-- The accesses of the program are user accesses at CPL 3 (22_paging.md R242). -/
def State.user (s : State) : Bool := s.level == 3

/-- Segments give 32-bit operands and addresses by default: bit D of the code segment, in protected mode
(30_encoding.md R270). -/
def State.code32 (s : State) : Bool := s.protected && s.segs.cs.big

/-- The stack pointer is ESP: bit B of the stack segment, in protected mode (20_memory.md R125). -/
def State.stack32 (s : State) : Bool := s.protected && s.segs.ss.big

/-- The operand size of the instruction is 32 bits (30_encoding.md R270). -/
def State.os32 (s : State) : Bool := s.code32 != s.cur.opSize

/-- The address size of the instruction is 32 bits (30_encoding.md R271). -/
def State.as32 (s : State) : Bool := s.code32 != s.cur.adSize

/-- The image of EFLAGS, given what its reserved bits 31..18 read as (10_state.md R40). -/
def Flags.image (f : Flags) (reserved : BitVec 14) : Word32 :=
  reserved ++ BitVec.ofBool f.vm ++ BitVec.ofBool f.rf ++ (0 : BitVec 1) ++ BitVec.ofBool f.nt ++ f.iopl
    ++ BitVec.ofBool f.ovf ++ BitVec.ofBool f.df ++ BitVec.ofBool f.ie ++ BitVec.ofBool f.tf ++ BitVec.ofBool f.sf
    ++ BitVec.ofBool f.zf ++ (0 : BitVec 1) ++ BitVec.ofBool f.af ++ (0 : BitVec 1) ++ BitVec.ofBool f.pf
    ++ (1 : BitVec 1) ++ BitVec.ofBool f.cf

/-- The flags of an image, all of them (61_task_switching.md R691). -/
def Flags.ofImage (v : Word32) : Flags :=
  { cf := bitAt v 0, pf := bitAt v 2, af := bitAt v 4, zf := bitAt v 6, sf := bitAt v 7, tf := bitAt v 8,
    ie := bitAt v 9, df := bitAt v 10, ovf := bitAt v 11, iopl := v.extractLsb' 12 2, nt := bitAt v 14,
    rf := bitAt v 16, vm := bitAt v 17 }

/-- Load from an image the flags that POPF and IRET load at any level: the status flags, TF, DF and NT
(40_data_transfer.md R338, 45_control_transfer.md R496). -/
def Flags.loadCommon (f : Flags) (v : Word32) : Flags :=
  { f with cf := bitAt v 0, pf := bitAt v 2, af := bitAt v 4, zf := bitAt v 6, sf := bitAt v 7, tf := bitAt v 8,
           df := bitAt v 10, ovf := bitAt v 11, nt := bitAt v 14 }

/-- Load an image by the rules of POPF and IRET at level `cpl`: IF when `cpl <= IOPL`, IOPL when `cpl = 0`, RF from a
32-bit image; VM is kept (10_state.md R50, R52, R53). -/
def Flags.load (f : Flags) (cpl : BitVec 2) (is32 : Bool) (v : Word32) : Flags :=
  { f.loadCommon v with
    ie := if cpl ≤ f.iopl then bitAt v 9 else f.ie
    iopl := if cpl = 0 then v.extractLsb' 12 2 else f.iopl
    rf := if is32 then bitAt v 16 else f.rf }

/-- The image of CR0, given what its reserved bits 30..5 read as (10_state.md R61). -/
def Cr0.image (c : Cr0) (reserved : BitVec 26) : Word32 :=
  BitVec.ofBool c.pg ++ reserved ++ BitVec.ofBool c.et ++ BitVec.ofBool c.ts ++ BitVec.ofBool c.em
    ++ BitVec.ofBool c.mp ++ BitVec.ofBool c.pe

end Sys2Proof.Machine
end

