-- ==== Sys2Proof/Machine/Checks.lean ====
section
/-! DEFINITION. The tests of the segmentation unit on one access: 21_segmentation_protection.md R187, 20_memory.md R108, R109. -/

namespace Sys2Proof.Machine

/-- The kinds of access of 21_segmentation_protection.md R187. -/
inductive Access where
  | read | write | execute
  deriving DecidableEq, Repr

/-- The offsets `off .. off + n - 1` lie inside the segment (21_segmentation_protection.md R171, R187). -/
def SegCache.holds (c : SegCache) (off : Word32) (n : Nat) : Bool :=
  let last := off.toNat + n - 1
  if !c.expandDown then last ≤ c.limit.toNat
  else c.limit.toNat < off.toNat && last ≤ (if c.big then 0xFFFFFFFF else 0xFFFF)

/-- In real mode and V86 mode no byte of an access has an offset above FFFFh (20_memory.md R108). -/
def State.inSegment (s : State) (r : SegReg) (off : Word32) (n : Nat) : Bool :=
  (s.seg r).holds off n && (s.protected || off.toNat + n - 1 ≤ 0xFFFF)

/-- The linear address of a real-mode or V86 access lies in 100000h..10FFEFh (20_memory.md R109). One above 10FFEFh, which only
a cache kept from protected mode gives, passes whatever HIGH_1M is: DESIGN CHOICE, assumption log 18. -/
def State.aboveMegabyte (s : State) (r : SegReg) (off : Word32) (n : Nat) : Bool :=
  !s.protected && 0x100000 ≤ (s.seg r).base.toNat + off.toNat + n - 1
    && (s.seg r).base.toNat + off.toNat ≤ 0x10FFEF

/-- The exception of a limit violation: 12 through SS in protected mode, 13 otherwise, and always 13 in real mode and V86
mode (21_segmentation_protection.md R187, 60_exceptions.md R664, 20_memory.md R108, 62_virtual_8086.md R703). -/
def State.limitFault (s : State) (r : SegReg) : Exc := if r = .ss ∧ s.protected then .ss 0 else .gp 0

/-- The exception of an address above 1 Mbyte where HIGH_1M is `fault`: 12 through SS, 13 otherwise, in real mode and V86
mode alike (92_eei_decisions.md D5; assumption logs 8 and 18). -/
def highFault (r : SegReg) : Exc := if r = .ss then .ss 0 else .gp 0

/-- The fault of an access through a segment register, if there is one (21_segmentation_protection.md R187). Of R187's
`S.code or not S.writable` only the second is tested: no descriptor makes code writable, while a cache loaded in real mode is
both and stays writable also after PE is set (DESIGN CHOICE, assumption log 37). -/
def State.segFault (s : State) (r : SegReg) (off : Word32) (n : Nat) (k : Access) : Option Exc :=
  let c := s.seg r
  if !c.valid then some (.gp 0)
  else if (match k with | .read => !c.readable | .write => !c.writable | .execute => !c.executable) then some (.gp 0)
  else if !s.inSegment r off n then some (s.limitFault r)
  else if s.aboveMegabyte r off n && Config.high1MFaults then some (highFault r)
  else none

end Sys2Proof.Machine
end

