-- ==== Sys2Proof/Machine/Memory.lean ====
section
/-! DEFINITION. Physical memory and the paging unit: 20_memory.md R100 to R116, R140; 22_paging.md. -/

namespace Sys2Proof.Machine

/-- Physical memory: the listed bytes. -/
abbrev Memory := List Host.Cell

/-- What an address that is not listed reads as. DESIGN CHOICE, assumption log 5. -/
def Memory.unlisted : Byte := 0

/-- The byte at an address. -/
def Memory.get : Memory → Nat → Byte
  | [], _ => Memory.unlisted
  | (a, b) :: m, x => if a = x then b else Memory.get m x

/-- Write one byte, keeping the canonical form. -/
def Memory.set : Memory → Nat → Byte → Memory
  | [], x, v => if v = Memory.unlisted then [] else [(x, v)]
  | (a, b) :: m, x, v =>
    if x < a then if v = Memory.unlisted then (a, b) :: m else (x, v) :: (a, b) :: m
    else if x = a then if v = Memory.unlisted then m else (x, v) :: m
    else (a, b) :: Memory.set m x v

/-- Write bytes from an address on. -/
def Memory.setRun : Memory → Nat → List Byte → Memory
  | m, _, [] => m
  | m, a, v :: vs => Memory.setRun (Memory.set m a v) (a + 1) vs

/-- The listed addresses are at least `low` and rise strictly, and no listed byte is what an unlisted one reads as. -/
def Memory.wfFrom : Nat → Memory → Bool
  | _, [] => true
  | low, (a, b) :: m => low ≤ a && b != Memory.unlisted && Memory.wfFrom (a + 1) m

/-- The canonical form of memory. -/
def Memory.wf (m : Memory) : Bool := Memory.wfFrom 0 m

/-- What answers at a physical address (92_eei_decisions.md D7): the first region that holds it, else RAM. -/
def State.kindAt (s : State) (a : Nat) : MemKind :=
  match s.memMap.find? (fun r => r.base ≤ a && a < r.base + r.size) with
  | some r => r.kind
  | none => .ram

/-- The double word of memory at an address, as memory holds it. -/
def Memory.get32 (m : Memory) (a : Nat) : Word32 :=
  BitVec.ofNat 32 (ofBytes [m.get a, m.get (a + 1), m.get (a + 2), m.get (a + 3)])

/-- The physical address of the page-directory entry of a linear address (22_paging.md R234, R236). -/
def State.pdeAddress (s : State) (lin : Word32) : Nat := ((s.cr3 &&& 0xFFFFF000) + (lin >>> 22 <<< 2)).toNat

/-- The physical address of the page-table entry of a linear address (22_paging.md R235, R236). -/
def pteAddress (pde lin : Word32) : Nat := ((pde &&& 0xFFFFF000) + ((lin >>> 12 &&& 0x3FF) <<< 2)).toNat

/-- The page number of a linear address. -/
def pageOf (lin : Word32) : BitVec 20 := lin.extractLsb' 12 20

/-- The physical address in a frame. -/
def frameAddress (frame : BitVec 20) (lin : Word32) : Nat := frame.toNat * 4096 + lin.toNat % 4096

/-- The TLB entry of a linear address (22_paging.md R236). -/
def State.tlbFind (s : State) (lin : Word32) : Option TlbEntry := s.tlb.find? (fun e => e.page == pageOf lin)

/-- The two levels of entries of a linear address as memory holds them now, if both are present. -/
def State.peekEntries (s : State) (lin : Word32) : Option (Word32 × Word32) :=
  let pde := Memory.get32 s.mem (s.pdeAddress lin)
  if bitAt pde 0 then
    let pte := Memory.get32 s.mem (pteAddress pde lin)
    if bitAt pte 0 then some (pde, pte) else none
  else none

/-- The rights of a page: the smaller of the two levels' (U/S, R/W) (22_paging.md R243). -/
def pageRights (pde pte : Word32) : BitVec 2 :=
  let a : BitVec 2 := pde.extractLsb' 1 2
  let b : BitVec 2 := pte.extractLsb' 1 2
  if a ≤ b then a else b

/-- Where a linear address leads without any effect on the state: by the TLB, else by the tables. -/
def State.peekPhysical (s : State) (lin : Word32) : Option Nat :=
  if !s.cr0.pg then some lin.toNat
  else match s.tlbFind lin with
    | some e => some (frameAddress e.frame lin)
    | none => (s.peekEntries lin).map fun (_, pte) => frameAddress (pageOf pte) lin

/-- The rights of a page let the running code fetch from it (22_paging.md R244). -/
def State.mayFetch (s : State) (rights : BitVec 2) : Bool := !s.user || bitAt rights 1

/-- The values of the byte at a linear address that the prefetch queue may hold: as memory gives it by the TLB, and by the
tables, where the page's rights let the code fetch it (20_memory.md R140, 22_paging.md R251). Where a device or nothing
answers the queue is taken to hold what memory lists there: DESIGN CHOICE, assumption log 13. -/
def State.queueValues (s : State) (lin : Word32) : List Byte :=
  if !s.cr0.pg then [Memory.get s.mem lin.toNat]
  else (((s.tlbFind lin).filter fun e => s.mayFetch e.rights).map fun e => Memory.get s.mem (frameAddress e.frame lin)).toList
    ++ (((s.peekEntries lin).filter fun x => s.mayFetch (pageRights x.1 x.2)).map fun x =>
        Memory.get s.mem (frameAddress (pageOf x.2) lin)).toList

/-- The linear address of the first byte after the instruction, where the prefetch queue begins. -/
def State.queueStart (s : State) : Word32 := s.segs.cs.base + s.cur.npc

/-- The code segment lets the byte `k` bytes after the instruction be fetched (20_memory.md R140, 70_reset_and_hazards.md
R737). -/
def State.prefetches (s : State) (k : Nat) : Bool := (s.segFault .cs (s.cur.npc + BitVec.ofNat 32 k) 1 .execute).isNone

/-- What the prefetch queue may hold: the 16 bytes after the instruction that can be fetched, through the code segment and the
page tables as they are now (20_memory.md R140). -/
def State.queueBytes (s : State) : List StaleByte :=
  ((List.range 16).filter s.prefetches).flatMap fun k =>
    (s.queueValues (s.queueStart + BitVec.ofNat 32 k)).map fun b => ⟨s.queueStart + BitVec.ofNat 32 k, b⟩

/-- What the prefetch queue may hold that reads otherwise after a store of the bytes `vs` from the physical address `a` on,
because the store overwrites the byte or, with paging on, changes an entry that translates it. -/
def State.overtaken (s : State) (a : Nat) (vs : List Byte) : List StaleByte :=
  if !s.cr0.pg then
    (List.range vs.length).flatMap fun k =>
      let d := (BitVec.ofNat 32 (a + k) - s.queueStart).toNat
      if d < 16 && s.prefetches d then [⟨BitVec.ofNat 32 (a + k), Memory.get s.mem (a + k)⟩] else []
  else
    let t : State := { s with mem := Memory.setRun s.mem a vs }
    s.queueBytes.filter fun q => (t.queueValues q.address).isEmpty || (t.queueValues q.address).any (· != q.value)

/-- Note that a store of `vs` from `a` on may change what the queue already holds (20_memory.md R140; assumption log 13). -/
def State.noteStore (s : State) (a : Nat) (vs : List Byte) : State := { s with stale := s.overtaken a vs ++ s.stale }

/-- Read the `n` bytes of one bus event, 1, 2 or 4 of them. An address nothing answers gives a free value
(92_eei_decisions.md D7). -/
def readEvent (a n : Nat) : M (List Byte) := fun s =>
  match s.kindAt a with
  | .ram => .ok ((List.range n).map fun k => Memory.get s.mem (a + k)) s
  | .rom => .ok ((List.range n).map fun k => Memory.get s.mem (a + k)) s
  | .device =>
    .ok (toBytes n (Config.deviceInput s.ioTrace a n).toNat) { s with ioTrace := .deviceRead a n :: s.ioTrace }
  | .nothing => .ok (toBytes n (Config.draw s.draws).toNat) { s with draws := s.draws + 1 }

/-- Write the bytes of one bus event. A write to ROM or to nothing is dropped (92_eei_decisions.md D7). -/
def writeEvent (a : Nat) (bs : List Byte) : M Unit := fun s =>
  match s.kindAt a with
  | .ram => .ok () { s.noteStore a bs with mem := Memory.setRun s.mem a bs }
  | .rom => .ok () s
  | .device => .ok () { s with ioTrace := .deviceWrite a bs.length (BitVec.ofNat 32 (ofBytes bs)) :: s.ioTrace }
  | .nothing => .ok () s

/-- Read a byte at a physical address. -/
def readByte (a : Nat) : M Byte := do
  let bs ← readEvent a 1
  pure (bs.headD 0)

/-- Write a byte at a physical address. -/
def writeByte (a : Nat) (v : Byte) : M Unit := writeEvent a [v]

/-- The first `n` of the addresses are aligned and consecutive, and one thing answers at all of them. That an aligned access
over which two things answer is cut into smaller events is a DESIGN CHOICE (assumption log 7). -/
def State.isUnit (s : State) (n : Nat) (as : List Nat) : Bool :=
  match as with
  | [] => false
  | a :: _ => a % n == 0 && as.take n == (List.range n).map (a + ·) && (as.take n).all fun x => s.kindAt x == s.kindAt a

/-- How many bytes the next bus event of an access to listed addresses carries. An aligned access of 1, 2 or 4 bytes is
one event, and another is a sequence of such events in ascending order (20_memory.md R104, 92_eei_decisions.md D4;
assumption log 7). -/
def State.eventSize (s : State) (as : List Nat) : Nat :=
  if s.isUnit 4 as then 4 else if s.isUnit 2 as then 2 else 1

/-- Read bytes at listed physical addresses in ascending order, the first of them from the event that was `held`. -/
def readBytesFrom : List Nat → List Byte → M (List Byte)
  | [], _ => pure []
  | _ :: as, b :: held => do
    let bs ← readBytesFrom as held
    pure (b :: bs)
  | a :: as, [] => do
    let s ← get
    let w ← readEvent a (s.eventSize (a :: as))
    let bs ← readBytesFrom as w.tail
    pure (w.headD 0 :: bs)

/-- Read bytes at listed physical addresses, in ascending order (20_memory.md R104). -/
def readBytes (as : List Nat) : M (List Byte) := readBytesFrom as []

/-- Write bytes at listed physical addresses in ascending order, the first `done` of them being written already. -/
def writeBytesFrom : List Nat → List Byte → Nat → M Unit
  | [], _, _ => pure ()
  | _ :: _, [], _ => pure ()
  | _ :: as, _ :: bs, done + 1 => writeBytesFrom as bs done
  | a :: as, b :: bs, 0 => do
    let s ← get
    writeEvent a ((b :: bs).take (s.eventSize (a :: as)))
    writeBytesFrom as bs (s.eventSize (a :: as) - 1)

/-- Write bytes at listed physical addresses, in ascending order (20_memory.md R104). -/
def writeBytes (as : List Nat) (bs : List Byte) : M Unit := writeBytesFrom as bs 0

/-- Read a double word at a physical address (22_paging.md R233). -/
def physRead32 (a : Nat) : M Word32 := do
  let bs ← readBytes [a, a + 1, a + 2, a + 3]
  pure (BitVec.ofNat 32 (ofBytes bs))

/-- Keep what the page walker set in RAM, so that a fault does not take it back (assumption log 15). -/
def State.noteWalk (s : State) (a : Nat) (bits : Byte) : State :=
  if s.kindAt a = .ram then { s with cur := { s.cur with walk := (a, bits) :: s.cur.walk } } else s

/-- Any of the listed bits, by a free value (00_scope.md R18). -/
def anyOf (mask : Byte) : M Byte :=
  if mask = 0 then pure 0 else do
  let u ← draw
  pure (u.setWidth 8 &&& mask)

/-- Set bits of the byte at a physical address, as the page walker does for A and D (22_paging.md R239 to R241). Those of
the bits `loose`, which are undefined in the entry, that are clear are set too or not, by a free value (22_paging.md R240,
93_implementation_defined.md U2; assumption log 43). R236 and R241 give neither the width of this read-modify-write nor
whether it writes what is set already: it is one byte wide and leaves the entry alone then. DESIGN CHOICE, assumption
log 55. -/
def setWalkBits (a : Nat) (bits loose : Byte) : M Unit := do
  let b ← readByte a
  if b &&& bits = bits then pure ()
  else do
    let u ← anyOf (loose &&& ~~~b)
    writeByte a (b ||| bits ||| u)
    update fun s => s.noteWalk a (bits ||| u)

/-- Bits 2..0 of the page-fault error code, the others being undefined (22_paging.md R246). -/
def pageFaultCode (present write user : Bool) (undef : Word16) : Word16 :=
  undef.extractLsb' 3 13 ++ BitVec.ofBool user ++ BitVec.ofBool write ++ BitVec.ofBool present

/-- Raise a page fault (22_paging.md R245). -/
def raisePageFault {α : Type} (lin : Word32) (present write user : Bool) : M α := do
  let u ← draw
  raise (.pageFault lin (pageFaultCode present write user (u.setWidth 16)))

/-- The rights test of 22_paging.md R236 and R244. -/
def checkRights (rights : BitVec 2) (lin : Word32) (write user : Bool) : M Unit :=
  if user && (!bitAt rights 1 || (write && !bitAt rights 0)) then raisePageFault lin true write user else pure ()

/-- The set of the TLB that a page belongs to, one of eight (22_paging.md R249): which bits of the address select it is DESIGN
CHOICE, assumption log 14. -/
def tlbSet (page : BitVec 20) : BitVec 3 := page.extractLsb' 0 3

/-- The TLB is a 4-way set-associative store of 32 entries (00_scope.md R9, 22_paging.md R249). -/
def tlbFits (tlb : List TlbEntry) : Bool :=
  (List.range 8).all fun k => decide ((tlb.filter fun e => tlbSet e.page == BitVec.ofNat 3 k).length ≤ 4)

/-- Fill the TLB with an entry in place of the one for its page; where its set is full a free value says which entry leaves it
(22_paging.md R249 does not describe the replacement; assumption log 14). -/
def fillTlb (e : TlbEntry) : M Unit := do
  let s ← get
  let others := s.tlb.filter fun x => x.page != e.page
  let same := others.filter fun x => tlbSet x.page == tlbSet e.page
  if same.length < 4 then update fun s => { s with tlb := e :: others }
  else do
    let u ← draw
    let kept := (same.eraseIdx (u.toNat % same.length)).take 3
    update fun s => { s with tlb := e :: (kept ++ others.filter fun x => tlbSet x.page != tlbSet e.page) }

/-- Walk the page directory and the page table, and fill the TLB (22_paging.md R236). Bit D of a directory entry is undefined
(22_paging.md R240): it may become set when the processor sets A there. The reserved bits 3, 4, 7, 8 of both entries read as
any value (93_implementation_defined.md U2), which nothing here depends on (`entry_ignores_reserved`), and are left as
software stored them: DESIGN CHOICE, assumption log 43. A TLB entry that is replaced or leaves the TLB leaves no bytes of its
old frame in the prefetch queue: DESIGN CHOICE, assumption log 13. -/
def walkTables (lin : Word32) (write user : Bool) : M TlbEntry := do
  let pdeA ← reads fun s => s.pdeAddress lin
  let pde ← physRead32 pdeA
  if !bitAt pde 0 then raisePageFault lin false write user else do
  setWalkBits pdeA 0x20 0x40
  let pteA := pteAddress pde lin
  let pte ← physRead32 pteA
  if !bitAt pte 0 then raisePageFault lin false write user else do
  let rights := pageRights pde pte
  checkRights rights lin write user
  setWalkBits pteA (if write then 0x60 else 0x20) 0
  let e : TlbEntry := { page := pageOf lin, frame := pageOf pte, rights := rights, dirty := write || bitAt pte 6 }
  fillTlb e
  pure e

/-- A walk now would give the very TLB entry again and change nothing in memory (22_paging.md R249: no outcome may depend
on which entries are present). The tables are what the memory list holds, also at addresses where a device or nothing answers,
which a walk would ask: DESIGN CHOICE, assumption log 14. -/
def State.tlbAgrees (s : State) (e : TlbEntry) (lin : Word32) (write : Bool) : Bool :=
  match s.peekEntries lin with
  | some (pde, pte) =>
    bitAt pde 5 && bitAt pte 5 && (!write || bitAt pte 6) && pageOf pte == e.frame && pageRights pde pte == e.rights
      && bitAt pte 6 == e.dirty
  | none => false

/-- The physical address of a linear address (22_paging.md R236). While the TLB disagrees with the tables, either may
be used (22_paging.md R251; assumption log 14). -/
def translate (lin : Word32) (write user : Bool) : M Nat := do
  let s ← get
  if !s.cr0.pg then pure lin.toNat else do
  match s.tlbFind lin with
  | none =>
    let e ← walkTables lin write user
    pure (frameAddress e.frame lin)
  | some e =>
    let d ← if (write && !e.dirty) || s.tlbAgrees e lin write then pure (0 : Word32) else draw
    if (write && !e.dirty) || bitAt d 0 then
      let e' ← walkTables lin write user
      pure (frameAddress e'.frame lin)
    else
      checkRights e.rights lin write user
      pure (frameAddress e.frame lin)

/-- The physical addresses of `n` bytes at a linear address, `n <= 4096`; each page's part is translated by itself
(22_paging.md R236). All of them are translated before any byte is accessed (20_memory.md R104). -/
def physicalBytes (lin : Word32) (n : Nat) (write user : Bool) : M (List Nat) := do
  let first := 4096 - lin.toNat % 4096
  let p ← translate lin write user
  if n ≤ first then pure ((List.range n).map (p + ·)) else do
  let q ← translate (lin + BitVec.ofNat 32 first) write user
  pure ((List.range first).map (p + ·) ++ (List.range (n - first)).map (q + ·))

/-- Read `n` bytes at a linear address as a number (20_memory.md R101). -/
def linRead (lin : Word32) (n : Nat) (user : Bool) : M Nat := do
  let ps ← physicalBytes lin n false user
  let bs ← readBytes ps
  pure (ofBytes bs)

/-- Write the low `n` bytes of a number at a linear address. -/
def linWrite (lin : Word32) (n : Nat) (v : Nat) (user : Bool) : M Unit := do
  let ps ← physicalBytes lin n true user
  writeBytes ps (toBytes n v)

/-- The processor's own read of a table, with supervisor rights (20_memory.md R111, 22_paging.md R242). -/
def sysRead (lin : Word32) (n : Nat) : M Nat := linRead lin n false

/-- The processor's own write of a table, with supervisor rights. -/
def sysWrite (lin : Word32) (n : Nat) (v : Nat) : M Unit := linWrite lin n v false

/-- Empty the TLB (22_paging.md R250). -/
def State.flushTlb (s : State) : State := { s with tlb := [] }

end Sys2Proof.Machine
end

