-- ==== Sys2Proof/Machine/Segments.lean ====
section
/-! DEFINITION. Linear addresses, the debug breakpoints on data, and the stack: 21_segmentation_protection.md R187, 60_exceptions.md R661, 20_memory.md R125 to R127. -/

namespace Sys2Proof.Machine

/-- The linear address of an access through a segment register, after its checks (21_segmentation_protection.md R187). -/
def linear (r : SegReg) (off : Word32) (n : Nat) (k : Access) : M Word32 := fun s =>
  match s.segFault r off n k with
  | some e => .error e s
  | none => .ok ((s.seg r).base + off) s

/-- DR0 to DR3 (10_state.md R78). -/
def State.breakpoint (s : State) (i : Nat) : Word32 :=
  match i with
  | 0 => s.dr0 | 1 => s.dr1 | 2 => s.dr2 | _ => s.dr3

/-- RWEi of DR7 (10_state.md R81). -/
def State.breakKind (s : State) (i : Nat) : BitVec 2 := s.dr7.extractLsb' (16 + 4 * i) 2

/-- The length LENi selects; 0 for the unused code 10, which never matches (93_implementation_defined.md U16). -/
def State.breakLength (s : State) (i : Nat) : Nat :=
  match (s.dr7.extractLsb' (18 + 4 * i) 2 : BitVec 2).toNat with
  | 0 => 1 | 1 => 2 | 2 => 0 | _ => 4

/-- Li or Gi of DR7 (10_state.md R81). -/
def State.breakEnabled (s : State) (i : Nat) : Bool := bitAt s.dr7 (2 * i) || bitAt s.dr7 (2 * i + 1)

/-- Breakpoint `i` matches a data access of `n` bytes (60_exceptions.md R661, 93_implementation_defined.md U16). -/
def State.dataMatch (s : State) (i : Nat) (lin : Word32) (n : Nat) (write : Bool) : Bool :=
  let len := s.breakLength i
  let base := s.breakpoint i - BitVec.ofNat 32 ((s.breakpoint i).toNat % len)
  ((s.breakKind i == 1 && write) || s.breakKind i == 3) &&
    (List.range n).any fun k => decide ((lin + BitVec.ofNat 32 k - base).toNat < len)

/-- Record the data breakpoints that an access matches in B0..B3 of DR6, and leave a debug trap for the next boundary
if one of them is enabled (60_exceptions.md R661). -/
def State.noteData (s : State) (lin : Word32) (n : Nat) (write : Bool) : State :=
  let hit (i : Nat) := s.dataMatch i lin n write
  { s with
    dr6 := s.dr6 ||| (BitVec.ofBool (hit 3) ++ BitVec.ofBool (hit 2) ++ BitVec.ofBool (hit 1) ++ BitVec.ofBool (hit 0)).setWidth 32
    dbgPending := s.dbgPending || (hit 0 && s.breakEnabled 0) || (hit 1 && s.breakEnabled 1)
      || (hit 2 && s.breakEnabled 2) || (hit 3 && s.breakEnabled 3) }

/-- The physical addresses of a data access, after the segment checks and then the page checks (60_exceptions.md R636). -/
def dataAddresses (r : SegReg) (off : Word32) (n : Nat) (write : Bool) : M (List Nat) := do
  let lin ← linear r off n (if write then .write else .read)
  let user ← reads State.user
  let ps ← physicalBytes lin n write user
  update fun s => s.noteData lin n write
  pure ps

/-- Read `n` bytes of a segment as a number (20_memory.md R101). -/
def segRead (r : SegReg) (off : Word32) (n : Nat) : M Nat := do
  let ps ← dataAddresses r off n false
  let bs ← readBytes ps
  pure (ofBytes bs)

/-- Write the low `n` bytes of a number in a segment. -/
def segWrite (r : SegReg) (off : Word32) (n : Nat) (v : Nat) : M Unit := do
  let ps ← dataAddresses r off n true
  writeBytes ps (toBytes n v)

/-- Check that `n` bytes of a segment can be written or read, without accessing them. -/
def segProbe (r : SegReg) (off : Word32) (n : Nat) (write : Bool) : M Unit := do
  let lin ← linear r off n (if write then .write else .read)
  let user ← reads State.user
  let _ ← physicalBytes lin n write user
  pure ()

/-- The stack pointer, SP or ESP (20_memory.md R125). -/
def State.sp (s : State) : Word32 := sized s.stack32 (s.reg .esp)

/-- Write the stack pointer; when it is SP the upper half of ESP is kept (20_memory.md R125). -/
def State.withSp (s : State) (v : Word32) : State :=
  if s.stack32 then s.setReg .esp v else s.setRegN .esp (v.setWidth 16)

/-- A stack offset taken modulo the stack's size. -/
def State.stackOffset (s : State) (v : Word32) : Word32 := sized s.stack32 v

/-- A real-mode push that would straddle the end of the stack segment shuts the processor down
(20_memory.md R127, 60_exceptions.md R672; assumption log 17). -/
def State.pushShutsDown (s : State) (n : Nat) : Bool := !s.cr0.pe && 0 < s.sp.toNat && s.sp.toNat < n

/-- Push an item of `n` bytes (20_memory.md R125). -/
def push (n : Nat) (v : Nat) : M Unit := do
  let s ← get
  raiseIf (s.pushShutsDown n) .shutdown
  let t := s.stackOffset (s.sp - BitVec.ofNat 32 n)
  segWrite .ss t n v
  update fun s => s.withSp t

/-- Pop an item of `n` bytes (20_memory.md R125). -/
def pop (n : Nat) : M Nat := do
  let s ← get
  let v ← segRead .ss s.sp n
  update fun s => s.withSp (s.stackOffset (s.sp + BitVec.ofNat 32 n))
  pure v

/-- Read `n` bytes at a distance above the stack pointer, which does not move. -/
def stackRead (distance n : Nat) : M Nat := do
  let s ← get
  segRead .ss (s.stackOffset (s.sp + BitVec.ofNat 32 distance)) n

/-- Check that `count` pushes of `n` bytes could be made from the stack pointer `sp` on, without making them
(46_hll_support.md R530). -/
def probePushes (n : Nat) : Nat → Word32 → M Unit
  | 0, _ => pure ()
  | count + 1, sp => do
    let s ← get
    raiseIf (!s.cr0.pe && 0 < sp.toNat && sp.toNat < n) .shutdown
    segProbe .ss (s.stackOffset (sp - BitVec.ofNat 32 n)) n true
    probePushes n count (s.stackOffset (sp - BitVec.ofNat 32 n))

/-- A stack segment has room for `items` pushes of `size` bytes below `sp` (45_control_transfer.md R505). -/
def SegCache.hasRoom (c : SegCache) (sp32 : Bool) (sp : Word32) (items size : Nat) : Bool :=
  (List.range items).all fun k => c.holds (sized sp32 (sp - BitVec.ofNat 32 ((k + 1) * size))) size

end Sys2Proof.Machine
end

