-- ==== Sys2Proof/Machine/Operands.lean ====
section
/-! DEFINITION. The operand forms: effective addresses and the reading and writing of register and memory operands (30_encoding.md R275 to R281, 40_data_transfer.md R320). -/

namespace Sys2Proof.Machine

/-- The value of a 16-bit displacement (30_encoding.md R279, R286). -/
def disp16Value : Disp16 → Word16
  | .none => 0
  | .d8 d => d.signExtend 16
  | .d16 d => d

/-- The value of a 32-bit displacement (30_encoding.md R280, R286). -/
def disp32Value : Disp32 → Word32
  | .none => 0
  | .d8 d => d.signExtend 32
  | .d32 d => d

/-- The sum of base and index of a 16-bit form (30_encoding.md R279). -/
def State.base16 (s : State) : Base16 → Word16
  | .bxSi => s.regN 16 .ebx + s.regN 16 .esi
  | .bxDi => s.regN 16 .ebx + s.regN 16 .edi
  | .bpSi => s.regN 16 .ebp + s.regN 16 .esi
  | .bpDi => s.regN 16 .ebp + s.regN 16 .edi
  | .si => s.regN 16 .esi
  | .di => s.regN 16 .edi
  | .bp => s.regN 16 .ebp
  | .bx => s.regN 16 .ebx

/-- The scaled index of a SIB byte; the code of ESP means no index (30_encoding.md R280; assumption log 23). -/
def State.scaledIndex (s : State) (ss : BitVec 2) (index : Reg) : Word32 :=
  if index = .esp then 0 else s.reg index <<< ss.toNat

/-- The effective address of a memory operand (30_encoding.md R278 to R280). -/
def State.ea (s : State) : Mem → Word32
  | .direct16 d => d.setWidth 32
  | .based16 b d => (s.base16 b + disp16Value d).setWidth 32
  | .direct32 d => d
  | .based32 b d => s.reg b + disp32Value d
  | .sib ss x b d => s.reg b + s.scaledIndex ss x + disp32Value d
  | .sibNoBase ss x d => s.scaledIndex ss x + d

/-- The offset of the part of a memory operand that lies `k` bytes on, which has the address size too (00_scope.md R13,
30_encoding.md R278; DEDUCED, assumption log 45). -/
def State.eaPlus (s : State) (m : Mem) (k : Nat) : Word32 := sized s.as32 (s.ea m + BitVec.ofNat 32 k)

/-- The segment a memory operand uses without an override (30_encoding.md R275). -/
def defaultSegment : Mem → SegReg
  | .direct16 _ => .ds
  | .based16 b _ => match b with
    | .bpSi => .ss | .bpDi => .ss | .bp => .ss
    | .bxSi => .ds | .bxDi => .ds | .si => .ds | .di => .ds | .bx => .ds
  | .direct32 _ => .ds
  | .based32 b _ => if b = .esp ∨ b = .ebp then .ss else .ds
  | .sib _ _ b _ => if b = .esp ∨ b = .ebp then .ss else .ds
  | .sibNoBase _ _ _ => .ds

/-- The segment of a memory operand: the override, else the default (30_encoding.md R275). -/
def State.memSegment (s : State) (m : Mem) : SegReg := s.cur.seg.getD (defaultSegment m)

/-- The segment of a reference whose default is DS (30_encoding.md R275). -/
def State.dataSegment (s : State) : SegReg := s.cur.seg.getD .ds

/-- Read `n` bits of a memory operand. -/
def readMem (n : Nat) (m : Mem) : M (BitVec n) := do
  let s ← get
  let v ← segRead (s.memSegment m) (s.ea m) (n / 8)
  pure (BitVec.ofNat n v)

/-- Write a memory operand. -/
def writeMem {n : Nat} (m : Mem) (v : BitVec n) : M Unit := do
  let s ← get
  segWrite (s.memSegment m) (s.ea m) (n / 8) v.toNat

/-- Read, then write `n` bits in a segment; write permission is checked before the read (40_data_transfer.md R320). -/
def modifyAt (n : Nat) (r : SegReg) (off : Word32) (f : BitVec n → M (BitVec n)) : M Unit := do
  let ps ← dataAddresses r off (n / 8) true
  let bs ← readBytes ps
  let v ← f (BitVec.ofNat n (ofBytes bs))
  writeBytes ps (toBytes (n / 8) v.toNat)

/-- Read, then write a memory operand. -/
def modifyMem (n : Nat) (m : Mem) (f : BitVec n → M (BitVec n)) : M Unit := do
  let s ← get
  modifyAt n (s.memSegment m) (s.ea m) f

/-- Check a memory operand for writing, then only read it, as a shift by 0 does (42_shift_rotate.md R421). The check is
`Translate` for a write, which sets bit D; the data breakpoints see a read: DESIGN CHOICE, assumption log 46. -/
def touchMem (n : Nat) (m : Mem) : M Unit := do
  let s ← get
  segProbe (s.memSegment m) (s.ea m) (n / 8) true
  let _ ← segRead (s.memSegment m) (s.ea m) (n / 8)
  pure ()

/-- Read a byte operand. -/
def readRm8 : Rm Reg8 → M Byte
  | .reg r => reads fun s => s.reg8 r
  | .mem m => readMem 8 m

/-- Write a byte operand. -/
def writeRm8 (e : Rm Reg8) (v : Byte) : M Unit :=
  match e with
  | .reg r => update fun s => s.setReg8 r v
  | .mem m => writeMem m v

/-- Read, then write a byte operand. -/
def modifyRm8 (e : Rm Reg8) (f : Byte → M Byte) : M Unit :=
  match e with
  | .reg r => do
    let v ← reads fun s => s.reg8 r
    let v' ← f v
    update fun s => s.setReg8 r v'
  | .mem m => modifyMem 8 m f

/-- Read an operand of `n` bits. -/
def readRm (n : Nat) : Rm Reg → M (BitVec n)
  | .reg r => reads fun s => s.regN n r
  | .mem m => readMem n m

/-- Write an operand of `n` bits. -/
def writeRm {n : Nat} (e : Rm Reg) (v : BitVec n) : M Unit :=
  match e with
  | .reg r => update fun s => s.setRegN r v
  | .mem m => writeMem m v

/-- Read, then write an operand of `n` bits. -/
def modifyRm (n : Nat) (e : Rm Reg) (f : BitVec n → M (BitVec n)) : M Unit :=
  match e with
  | .reg r => do
    let v ← reads fun s => s.regN n r
    let v' ← f v
    update fun s => s.setRegN r v'
  | .mem m => modifyMem n m f

/-- Read a byte operand and leave it as it is, as a shift by 0 does. -/
def touchRm8 : Rm Reg8 → M Unit
  | .reg _ => pure ()
  | .mem m => touchMem 8 m

/-- Read an operand of `n` bits and leave it as it is. -/
def touchRm (n : Nat) : Rm Reg → M Unit
  | .reg _ => pure ()
  | .mem m => touchMem n m

/-- Do something at the operand size (30_encoding.md R270). -/
def bySize (f : Nat → M Unit) : M Unit := do
  let s ← get
  if s.os32 then f 32 else f 16

/-- Write the low `n` bits of a general register. -/
def setRegister {n : Nat} (r : Reg) (v : BitVec n) : M Unit := update fun s => s.setRegN r v

/-- Write an 8-bit view. -/
def setRegister8 (r : Reg8) (v : Byte) : M Unit := update fun s => s.setReg8 r v

/-- A register read at the address size: CX or ECX, SI or ESI, DI or EDI, BX or EBX (30_encoding.md R271). -/
def State.indexReg (s : State) (r : Reg) : Word32 := sized s.as32 (s.reg r)

/-- Write a register at the address size; with 16 bits its upper half is kept (43_string.md R440). -/
def State.withIndexReg (s : State) (r : Reg) (v : Word32) : State :=
  if s.as32 then s.setReg r v else s.setRegN r (v.setWidth 16)

end Sys2Proof.Machine
end

