-- ==== Sys2Proof/Machine/Flags.lean ====
section
/-! DEFINITION. Results and flags: 41_arithmetic.md R370, 40_data_transfer.md R321, 42_shift_rotate.md R421 to R430, 45_control_transfer.md R492. What a rule leaves UNDEFINED is taken from the bits of a free value `u` (assumption log 29). -/

namespace Sys2Proof.Machine

/-- PF of a low byte: an even number of 1 bits (10_state.md R42). -/
def evenParity (b : Byte) : Bool :=
  !(bitAt b 0 ^^ bitAt b 1 ^^ bitAt b 2 ^^ bitAt b 3 ^^ bitAt b 4 ^^ bitAt b 5 ^^ bitAt b 6 ^^ bitAt b 7)

/-- ZF, SF and PF of a result (40_data_transfer.md R321). -/
def Flags.ofResult {n : Nat} (f : Flags) (r : BitVec n) : Flags :=
  { f with zf := r == 0, sf := r.msb, pf := evenParity (r.setWidth 8) }

/-- The sum of 41_arithmetic.md R370. -/
def addResult {n : Nat} (a b : BitVec n) (c : Bool) : BitVec n := a + b + BitVec.ofNat n c.toNat

/-- The difference of 41_arithmetic.md R370. -/
def subResult {n : Nat} (a b : BitVec n) (c : Bool) : BitVec n := a - b - BitVec.ofNat n c.toNat

/-- `AddFlags` of 41_arithmetic.md R370. -/
def Flags.add {n : Nat} (f : Flags) (a b : BitVec n) (c : Bool) : Flags :=
  let r := addResult a b c
  { f.ofResult r with
    cf := decide (2 ^ n ≤ a.toNat + b.toNat + c.toNat)
    ovf := a.msb == b.msb && r.msb != a.msb
    af := decide (16 ≤ a.toNat % 16 + b.toNat % 16 + c.toNat) }

/-- `SubFlags` of 41_arithmetic.md R370. -/
def Flags.sub {n : Nat} (f : Flags) (a b : BitVec n) (c : Bool) : Flags :=
  let r := subResult a b c
  { f.ofResult r with
    cf := decide (a.toNat < b.toNat + c.toNat)
    ovf := a.msb != b.msb && r.msb != a.msb
    af := decide (a.toNat % 16 < b.toNat % 16 + c.toNat) }

/-- `LogicFlags` of 41_arithmetic.md R370; AF is a free value. -/
def Flags.logic {n : Nat} (f : Flags) (r : BitVec n) (u : Word32) : Flags :=
  { f.ofResult r with cf := false, ovf := false, af := bitAt u 4 }

/-- All six status flags undefined: free values. -/
def Flags.undefined (f : Flags) (u : Word32) : Flags :=
  { f with cf := bitAt u 0, pf := bitAt u 2, af := bitAt u 4, zf := bitAt u 6, sf := bitAt u 7, ovf := bitAt u 11 }

/-- Write the flags. -/
def setFlags (g : Flags → Flags) : M Unit := update fun s => { s with flags := g s.flags }

/-- The operations of 41_arithmetic.md R371. -/
inductive Alu where
  | add | or | adc | sbb | and | sub | xor | cmp
  deriving DecidableEq, Repr

/-- The result and the flags of an operation of 41_arithmetic.md R371 (R372 to R376, R384 to R386). -/
def aluCompute {n : Nat} (op : Alu) (f : Flags) (a b : BitVec n) (u : Word32) : BitVec n × Flags :=
  match op with
  | .add => (addResult a b false, f.add a b false)
  | .or => (a ||| b, f.logic (a ||| b) u)
  | .adc => (addResult a b f.cf, f.add a b f.cf)
  | .sbb => (subResult a b f.cf, f.sub a b f.cf)
  | .and => (a &&& b, f.logic (a &&& b) u)
  | .sub => (subResult a b false, f.sub a b false)
  | .xor => (a ^^^ b, f.logic (a ^^^ b) u)
  | .cmp => (subResult a b false, f.sub a b false)

/-- The operations that leave a flag undefined. -/
def isLogical : Alu → Bool
  | .or => true | .and => true | .xor => true
  | .add => false | .adc => false | .sbb => false | .sub => false | .cmp => false

/-- Do an operation of 41_arithmetic.md R371: its flags are written and its result is given. -/
def alu {n : Nat} (op : Alu) (a b : BitVec n) : M (BitVec n) := do
  let u ← if isLogical op then draw else pure 0
  let s ← get
  setFlags fun f => (aluCompute op f a b u).2
  pure (aluCompute op s.flags a b u).1

/-- The shifts and rotates of 42_shift_rotate.md R421. -/
inductive Shift where
  | rol | ror | rcl | rcr | shl | shr | sar
  deriving DecidableEq, Repr

/-- CF : value, as `n + 1` bits (42_shift_rotate.md R424). -/
def withCarry {n : Nat} (cf : Bool) (a : BitVec n) : BitVec (n + 1) := BitVec.ofNat (n + 1) (a.toNat + cf.toNat * 2 ^ n)

/-- A value rotated left by `c`, which is less than its width. -/
def rotateLeft {n : Nat} (a : BitVec n) (c : Nat) : BitVec n := (a <<< c) ||| (a >>> (n - c))

/-- A value rotated right by `c`, which is less than its width. -/
def rotateRight {n : Nat} (a : BitVec n) (c : Nat) : BitVec n := (a >>> c) ||| (a <<< (n - c))

/-- A shift or rotate by `cnt`, 1 to 31: the result and the flags (42_shift_rotate.md R422 to R428). -/
def shiftCompute {n : Nat} (op : Shift) (f : Flags) (a : BitVec n) (cnt : Nat) (u : Word32) : BitVec n × Flags :=
  let ovfOr (b : Bool) : Bool := if cnt = 1 then b else bitAt u 11
  match op with
  | .rol =>
    let r := rotateLeft a (cnt % n)
    (r, { f with cf := bitAt r 0, ovf := ovfOr (r.msb ^^ bitAt r 0) })
  | .ror =>
    let r := rotateRight a (cnt % n)
    (r, { f with cf := r.msb, ovf := ovfOr (r.msb ^^ bitAt r (n - 2)) })
  | .rcl =>
    let t := rotateLeft (withCarry f.cf a) (cnt % (n + 1))
    let r : BitVec n := t.setWidth n
    (r, { f with cf := t.msb, ovf := ovfOr (r.msb ^^ t.msb) })
  | .rcr =>
    let t := rotateRight (withCarry f.cf a) (cnt % (n + 1))
    let r : BitVec n := t.setWidth n
    (r, { f with cf := t.msb, ovf := ovfOr (r.msb ^^ bitAt r (n - 2)) })
  | .shl =>
    let r := a <<< cnt
    let c := if cnt ≤ n then bitAt a (n - cnt) else bitAt u 0
    (r, { f.ofResult r with cf := c, af := bitAt u 4, ovf := ovfOr (r.msb ^^ c) })
  | .shr =>
    let r := a >>> cnt
    let c := if cnt ≤ n then bitAt a (cnt - 1) else bitAt u 0
    (r, { f.ofResult r with cf := c, af := bitAt u 4, ovf := ovfOr a.msb })
  | .sar =>
    let r := a.sshiftRight cnt
    let c := if cnt ≤ n then bitAt a (cnt - 1) else a.msb
    (r, { f.ofResult r with cf := c, af := bitAt u 4, ovf := ovfOr false })

/-- Do a shift or rotate by a count that is not 0. -/
def shift {n : Nat} (op : Shift) (cnt : Nat) (a : BitVec n) : M (BitVec n) := do
  let u ← draw
  let s ← get
  setFlags fun f => (shiftCompute op f a cnt u).2
  pure (shiftCompute op s.flags a cnt u).1

/-- SHLD, or SHRD when `right`: by a count that is not 0 (42_shift_rotate.md R429, R430). With a count above the width
the destination and the flags are free values. -/
def shiftDouble {n : Nat} (right : Bool) (cnt : Nat) (a g : BitVec n) : M (BitVec n) := do
  let u ← draw
  if n < cnt then do
    let v ← draw
    setFlags fun f => f.undefined u
    pure (v.setWidth n)
  else do
    let r := if right then (a >>> cnt) ||| (g <<< (n - cnt)) else (a <<< cnt) ||| (g >>> (n - cnt))
    let c := if right then bitAt a (cnt - 1) else bitAt a (n - cnt)
    setFlags fun f =>
      { f.ofResult r with cf := c, af := bitAt u 4, ovf := if cnt = 1 then r.msb ^^ a.msb else bitAt u 11 }
    pure r

/-- The conditions of 45_control_transfer.md R492. -/
def Flags.holds (f : Flags) : Cond → Bool
  | .o => f.ovf
  | .no => !f.ovf
  | .b => f.cf
  | .nb => !f.cf
  | .z => f.zf
  | .nz => !f.zf
  | .be => f.cf || f.zf
  | .nbe => !f.cf && !f.zf
  | .s => f.sf
  | .ns => !f.sf
  | .p => f.pf
  | .np => !f.pf
  | .l => f.sf != f.ovf
  | .nl => f.sf == f.ovf
  | .le => f.zf || f.sf != f.ovf
  | .nle => !f.zf && f.sf == f.ovf

end Sys2Proof.Machine
end

