-- ==== Sys2Proof/Machine/Descriptors.lean ====
section
/-! DEFINITION. Descriptors and the loading of segment registers: 21_segmentation_protection.md R150 to R202, 45_control_transfer.md R481, 40_data_transfer.md R322. -/

namespace Sys2Proof.Machine

/-- An 8-byte descriptor or gate (21_segmentation_protection.md R161, R179). Its reserved bits (byte 6 bit 5, bits 7..5 of
byte 4 of a gate) read as any value (93_implementation_defined.md U2). Nothing depends on them (`Desc.cache_ignores_reserved`,
`Desc.gate_ignores_reserved`) but what LAR loads, where byte 6 bit 5 is a free value (`Desc.rights`). In memory they stay as
software stored them: DESIGN CHOICE, assumption log 43. -/
abbrev Desc := BitVec 64

/-- The 32-bit base; also of an 80286 descriptor, whose bytes 6 and 7 R175 says are zero: one where they are not is read as
it stands, base, limit and G: DESIGN CHOICE, assumption log 51. -/
def Desc.base (d : Desc) : Word32 := (d.extractLsb' 56 8 : BitVec 8) ++ (d.extractLsb' 16 24 : BitVec 24)
/-- The limit in bytes (21_segmentation_protection.md R166); of an 80286 descriptor too (assumption log 51). -/
def Desc.limit (d : Desc) : Word32 :=
  let l : BitVec 20 := (d.extractLsb' 48 4 : BitVec 4) ++ (d.extractLsb' 0 16 : BitVec 16)
  if bitAt d 55 then l ++ (0xFFF : BitVec 12) else l.setWidth 32
/-- P. -/
def Desc.present (d : Desc) : Bool := bitAt d 47
/-- DPL. -/
def Desc.dpl (d : Desc) : BitVec 2 := d.extractLsb' 45 2
/-- TYPE. -/
def Desc.type (d : Desc) : Nat := (d.extractLsb' 40 4 : BitVec 4).toNat
/-- S = 1: a code or data segment. -/
def Desc.isSegment (d : Desc) : Bool := bitAt d 44
/-- A code segment (21_segmentation_protection.md R167). -/
def Desc.isCode (d : Desc) : Bool := d.isSegment && bitAt d 43
/-- A data segment. -/
def Desc.isData (d : Desc) : Bool := d.isSegment && !bitAt d 43
/-- A conforming code segment (21_segmentation_protection.md R169). -/
def Desc.isConforming (d : Desc) : Bool := d.isCode && bitAt d 42
/-- A data segment or a readable code segment (21_segmentation_protection.md R168). -/
def Desc.isReadable (d : Desc) : Bool := d.isData || (d.isCode && bitAt d 41)
/-- A writable data segment (21_segmentation_protection.md R172). -/
def Desc.isWritable (d : Desc) : Bool := d.isData && bitAt d 41
/-- A system descriptor of a given type. -/
def Desc.isSystem (d : Desc) (t : Nat) : Bool := !d.isSegment && d.type == t
/-- A gate (21_segmentation_protection.md R176, R179). -/
def Desc.isGate (d : Desc) : Bool := !d.isSegment && [4, 5, 6, 7, 0xC, 0xE, 0xF].contains d.type
/-- The selector of a gate (21_segmentation_protection.md R179). -/
def Desc.gateSelector (d : Desc) : Word16 := d.extractLsb' 16 16
/-- The offset of a gate; an 80286 gate has 16 bits (21_segmentation_protection.md R221). -/
def Desc.gateOffset (d : Desc) (is386 : Bool) : Word32 :=
  if is386 then (d.extractLsb' 48 16 : BitVec 16) ++ (d.extractLsb' 0 16 : BitVec 16)
  else (d.extractLsb' 0 16 : BitVec 16).setWidth 32
/-- The word count of a call gate (21_segmentation_protection.md R180); bits 7..5 of its byte are ignored (assumption log
43). -/
def Desc.gateCount (d : Desc) : Nat := (d.extractLsb' 32 5 : BitVec 5).toNat

/-- The descriptor cache that a descriptor fills (21_segmentation_protection.md R186). -/
def Desc.cache (d : Desc) (sel : Word16) : SegCache :=
  { sel := sel, base := d.base, limit := d.limit, valid := true, readable := d.isReadable, writable := d.isWritable,
    executable := d.isCode, expandDown := d.isData && bitAt d 42, conforming := d.isConforming, big := bitAt d 54,
    dpl := d.dpl }

/-- The linear address of the descriptor a selector names, if it is inside its table
(21_segmentation_protection.md R152, R153; 45_control_transfer.md R481). -/
def State.descAddress (s : State) (sel : Word16) : Option Word32 :=
  let i : Word32 := (sel &&& 0xFFF8).setWidth 32
  if bitAt sel 2 then
    if s.ldtr.valid && i.toNat + 7 ≤ s.ldtr.limit.toNat then some (s.ldtr.base + i) else none
  else if i.toNat + 7 ≤ s.gdtr.limit.toNat then some (s.gdtr.base + i) else none

/-- `ReadDesc(sel)` of 45_control_transfer.md R481, with the exception a selector outside its table raises. Its reserved bits
are drawn where something depends on them, in `Desc.rights` (assumption log 43). -/
def readDesc (sel : Word16) (bad : Word16 → Exc) : M Desc := do
  let s ← get
  match s.descAddress sel with
  | none => raise (bad (selectorCode sel))
  | some a =>
    let v ← sysRead a 8
    pure (BitVec.ofNat 64 v)

/-- Set bit A of a segment's descriptor in memory if it is 0 (21_segmentation_protection.md R165; assumption log 34), by a
write of the one byte that holds it: DESIGN CHOICE, assumption log 55. -/
def markAccessed (sel : Word16) (d : Desc) : M Unit := do
  let s ← get
  match s.descAddress sel with
  | none => pure ()
  | some a => if bitAt d 40 then pure () else sysWrite (a + 5) 1 ((d.extractLsb' 40 8 : Byte) ||| 1).toNat

/-- Write a segment register. -/
def setSegment (r : SegReg) (c : SegCache) : M Unit := update fun s => s.setSeg r c

/-- A segment register after a null selector was loaded: only its selector and its validity are different
(40_data_transfer.md R322, 21_segmentation_protection.md R156). -/
def SegCache.null (c : SegCache) (sel : Word16) : SegCache := { c with sel := sel, valid := false }

/-- The less privileged of two levels: `max` (21_segmentation_protection.md R193). -/
def weaker (a b : BitVec 2) : BitVec 2 := if a ≤ b then b else a

/-- Load DS, ES, FS or GS with a selector that is not null (21_segmentation_protection.md R200). `bad` is the exception
of a wrong selector, in the order table, type, privilege, presence (assumption log 28). -/
def loadDataSegment (r : SegReg) (sel : Word16) (bad : Word16 → Exc) : M Unit := do
  let d ← readDesc sel bad
  let cpl ← reads State.level
  raiseIf (!d.isReadable) (bad (selectorCode sel))
  raiseIf (!d.isConforming && d.dpl < weaker cpl (rpl sel)) (bad (selectorCode sel))
  raiseIf (!d.present) (.np (selectorCode sel))
  markAccessed sel d
  setSegment r (d.cache sel)

/-- The checks on the descriptor of a selector for SS at a level (21_segmentation_protection.md R201). -/
def checkStackDesc (sel : Word16) (level : BitVec 2) (bad : Word16 → Exc) (d : Desc) : M Desc := do
  raiseIf (!(d.isWritable && rpl sel == level && d.dpl == level)) (bad (selectorCode sel))
  raiseIf (!d.present) (.ss (selectorCode sel))
  pure d

/-- The checks on a selector for SS at a level, its place in its table among them. -/
def checkStackSegment (sel : Word16) (level : BitVec 2) (bad : Word16 → Exc) : M Desc := do
  let d ← readDesc sel bad
  checkStackDesc sel level bad d

/-- The descriptor of the stack segment of an inner level, for a call gate (45_control_transfer.md R505) or the delivery of
an event (60_exceptions.md R647): a wrong selector, a null one too, raises TS (60_exceptions.md R659; DEDUCED where
21_segmentation_protection.md R201 gives exception 13 for a load of SS, assumption log 42); one outside its table raises GP
(21_segmentation_protection.md R153, 45_control_transfer.md R481). -/
def innerStackSegment (sel : Word16) (level : BitVec 2) : M Desc := do
  raiseIf (isNull sel) (.ts 0)
  let d ← readDesc sel .gp
  checkStackDesc sel level .ts d

/-- `LoadSeg(S, sel)` of 40_data_transfer.md R322. -/
def loadSegment (r : SegReg) (sel : Word16) : M Unit := do
  let s ← get
  if !s.protected then setSegment r (SegCache.real sel (if s.v86 then 3 else 0))
  else if r = .ss then do
    raiseIf (isNull sel) (.gp 0)
    let d ← checkStackSegment sel s.level .gp
    markAccessed sel d
    setSegment .ss (d.cache sel)
  else if isNull sel then setSegment r ((s.seg r).null sel)
  else loadDataSegment r sel .gp

/-- Change the busy bit of a TSS descriptor in the GDT (61_task_switching.md R688, 47_os_support.md R546). Neither rule gives
the width of this read-modify-write or says whether it writes where the bit has its value already: byte 5 of the descriptor
is read again and always written. DESIGN CHOICE, assumption log 55. -/
def setBusy (sel : Word16) (busy : Bool) : M Unit := do
  let s ← get
  let a := s.gdtr.base + (sel &&& 0xFFF8).setWidth 32 + 5
  let b ← sysRead a 1
  sysWrite a 1 (if busy then b ||| 2 else b &&& 0xFD)

/-- The stack pointer of an inner level from the current TSS (61_task_switching.md R681, R683, R694). -/
def innerStack (level : BitVec 2) : M (Word16 × Word32) := do
  let s ← get
  let is386 := s.tr.is386
  let at_ := if is386 then 4 + 8 * level.toNat else 2 + 4 * level.toNat
  let size := if is386 then 4 else 2
  raiseIf (!(s.tr.valid && at_ + size + 1 ≤ s.tr.limit.toNat)) (.ts (selectorCode s.tr.sel))
  let sp ← sysRead (s.tr.base + BitVec.ofNat 32 at_) size
  let ss ← sysRead (s.tr.base + BitVec.ofNat 32 (at_ + size)) 2
  pure (BitVec.ofNat 16 ss, BitVec.ofNat 32 sp)

/-- A new `pc` inside the code segment limit, else GP(0) (45_control_transfer.md R480). -/
def jumpTo (off : Word32) : M Unit := do
  let s ← get
  raiseIf (!s.inSegment .cs off 1) (.gp 0)
  update fun s => { s with pc := off, cur := { s.cur with jumped := true } }

/-- Load CS from a code descriptor with the privilege level in its RPL, and `pc` (45_control_transfer.md R483). -/
def enterCode (sel : Word16) (d : Desc) (level : BitVec 2) (off : Word32) : M Unit := do
  markAccessed sel d
  update fun s =>
    { s.setSeg .cs (d.cache (selectorCode sel ||| level.setWidth 16)) with
      cpl := level, pc := off, cur := { s.cur with jumped := true } }

end Sys2Proof.Machine
end

