-- ==== Sys2Proof/Machine/TaskSwitch.lean ====
section
/-! DEFINITION. Task switches: 61_task_switching.md. -/

namespace Sys2Proof.Machine

/-- What starts a task switch (61_task_switching.md R684). -/
inductive SwitchCause where
  | jmp | call | int | iret
  deriving DecidableEq, Repr

/-- Read a double word of a table. -/
def sysRead32 (a : Word32) : M Word32 := do
  let v ← sysRead a 4
  pure (BitVec.ofNat 32 v)

/-- Read a word of a table. -/
def sysRead16 (a : Word32) : M Word16 := do
  let v ← sysRead a 2
  pure (BitVec.ofNat 16 v)

/-- Write a list of items of `n` bytes at offsets `at_`, `at_ + stride`, and so on. -/
def sysWriteItems (base : Word32) (n stride : Nat) : Nat → List Nat → M Unit
  | _, [] => pure ()
  | at_, v :: vs => do
    sysWrite (base + BitVec.ofNat 32 at_) n v
    sysWriteItems base n stride (at_ + stride) vs

/-- The eight general registers in the order of the TSS. -/
def Gprs.items (g : Gprs) : List Nat :=
  [g.eax.toNat, g.ecx.toNat, g.edx.toNat, g.ebx.toNat, g.esp.toNat, g.ebp.toNat, g.esi.toNat, g.edi.toNat]

/-- Save the outgoing task in an 80386 TSS (61_task_switching.md R681). Of the two outcomes R681 allows for the upper half of
a selector's slot the model takes the first, that it is left unchanged: DESIGN CHOICE, assumption log 54. -/
def saveTask386 (base ret flags : Word32) : M Unit := do
  let s ← get
  sysWriteItems base 4 4 0x20 (ret.toNat :: flags.toNat :: s.gpr.items)
  sysWriteItems base 2 4 0x48
    [s.segs.es.sel.toNat, s.segs.cs.sel.toNat, s.segs.ss.sel.toNat, s.segs.ds.sel.toNat, s.segs.fs.sel.toNat,
     s.segs.gs.sel.toNat]

/-- Save the outgoing task in an 80286 TSS (61_task_switching.md R683). -/
def saveTask286 (base ret flags : Word32) : M Unit := do
  let s ← get
  sysWriteItems base 2 2 0x0E (ret.toNat :: flags.toNat :: s.gpr.items)
  sysWriteItems base 2 2 0x22 [s.segs.es.sel.toNat, s.segs.cs.sel.toNat, s.segs.ss.sel.toNat, s.segs.ds.sel.toNat]

/-- A segment register whose selector is loaded and not yet validated (61_task_switching.md R684, R693). -/
def SegCache.unchecked (sel : Word16) : SegCache := (SegCache.real 0 0).null sel

/-- Read in the address space of the outgoing task while CR3 is the incoming one's already (61_task_switching.md R684); a
page fault leaves the incoming address space, with an empty TLB. -/
def inOldSpace {α : Type} (old : Word32) (m : M α) : M α := fun s =>
  match m { s with cr3 := old &&& 0xFFFFF000 } with
  | .ok a t => .ok a { t with cr3 := s.cr3 &&& 0xFFFFF000 }
  | .error x t => .error x { t with cr3 := s.cr3 &&& 0xFFFFF000, tlb := [] }

/-- Load general registers from fields of a TSS, `stride` bytes apart. -/
def loadTaskRegs (field : Nat → M Word32) (stride : Nat) : Nat → List Reg → M Unit
  | _, [] => pure ()
  | at_, r :: rs => do
    let v ← field at_
    update fun s => s.setReg r v
    loadTaskRegs field stride (at_ + stride) rs

/-- Load segment registers' selectors from fields of a TSS, `stride` bytes apart; none is validated yet. -/
def loadTaskSelectors (field : Nat → M Word16) (stride : Nat) : Nat → List SegReg → M Unit
  | _, [] => pure ()
  | at_, r :: rs => do
    let v ← field at_
    update fun s => s.setSeg r (.unchecked v)
    loadTaskSelectors field stride (at_ + stride) rs

/-- Load LDTR's selector, EFLAGS and `pc`, in this order (61_task_switching.md R684, phase D). Until phase E has validated it,
and after that has failed, LDTR is not valid and its base and limit are 0: DESIGN CHOICE, assumption log 35. -/
def loadTaskControl (ldt flags pc : M Word32) : M Unit := do
  let l ← ldt
  update fun s => { s with ldtr := { sel := l.setWidth 16, base := 0, limit := 0, valid := false, is386 := false } }
  let f ← flags
  update fun s => { s with flags := Flags.ofImage f }
  let p ← pc
  update fun s => { s with pc := p, cur := { s.cur with jumped := true, keepRf := true } }

/-- The general registers in the order of the TSS (61_task_switching.md R681). -/
def tssRegs : List Reg := [.eax, .ecx, .edx, .ebx, .esp, .ebp, .esi, .edi]

/-- Read a word of a table as a double word. -/
def sysRead16Wide (a : Word32) : M Word32 := do
  let v ← sysRead16 a
  pure (v.setWidth 32)

/-- Phase D with an 80386 TSS: each field is loaded as it is read; the answer is the T bit, which is read with them
(61_task_switching.md R681, R684; assumption log 35). -/
def loadTask386 (base : Word32) : M Bool := do
  let old ← reads State.cr3
  let v ← sysRead32 (base + 0x1C)
  update fun s => { s with cr3 := v &&& 0xFFFFF000 }
  let word (k : Nat) : M Word16 := inOldSpace old (sysRead16 (base + BitVec.ofNat 32 k))
  let double (k : Nat) : M Word32 := inOldSpace old (sysRead32 (base + BitVec.ofNat 32 k))
  loadTaskControl (inOldSpace old (sysRead16Wide (base + 0x60))) (double 0x24) (double 0x20)
  loadTaskRegs double 4 0x28 tssRegs
  loadTaskSelectors word 4 0x48 [.es, .cs, .ss, .ds, .fs, .gs]
  let t ← word 0x64
  update State.flushTlb
  pure (bitAt t 0)

/-- A register of an 80286 TSS: its upper half is a free value (61_task_switching.md R683, 93_implementation_defined.md
U17; assumption log 36). -/
def readHalf (a : Word32) : M Word32 := do
  let v ← sysRead16 a
  let u ← draw
  pure (insertLow u v)

/-- Phase D with an 80286 TSS: CR3 is kept, FS and GS become null (61_task_switching.md R683, R684; assumption log 36). -/
def loadTask286 (base : Word32) : M Bool := do
  loadTaskControl (sysRead16Wide (base + 0x2A)) (sysRead16Wide (base + 0x10)) (sysRead16Wide (base + 0x0E))
  loadTaskRegs (fun k => readHalf (base + BitVec.ofNat 32 k)) 2 0x12 tssRegs
  loadTaskSelectors (fun k => sysRead16 (base + BitVec.ofNat 32 k)) 2 0x22 [.es, .cs, .ss, .ds]
  update fun s => (s.setSeg .fs (.unchecked 0)).setSeg .gs (.unchecked 0)
  pure false

/-- The end of phase D: NT of a nested task, the local breakpoints, and CPL (61_task_switching.md R684). -/
def State.withTaskMode (s : State) (nested : Bool) : State :=
  { s with
    flags := { s.flags with nt := s.flags.nt || nested }
    dr7 := s.dr7 &&& ~~~(0x55 : Word32)
    cpl := if s.flags.vm then 3 else rpl s.segs.cs.sel }

/-- Validate and load LDTR in a task switch (61_task_switching.md R684, phase E); its limit is as LLDT loads it (assumption
log 58). -/
def loadTaskLdt (sel : Word16) : M Unit :=
  if isNull sel then pure () else do
  raiseIf (bitAt sel 2) (.ts (selectorCode sel))
  let d ← readDesc sel .ts
  raiseIf (!(d.isSystem 2 && d.present)) (.ts (selectorCode sel))
  update fun s => { s with ldtr := { sel := sel, base := d.base, limit := d.limit, valid := true, is386 := false } }

/-- Validate and load CS in a task switch (61_task_switching.md R684, phase E): a null selector raises TS, whose error code
is then 0 (DEDUCED where 21_segmentation_protection.md R156 gives GP(0), assumption log 42). -/
def loadTaskCode (sel : Word16) : M Unit := do
  raiseIf (isNull sel) (.ts (selectorCode sel))
  let d ← readDesc sel .ts
  let cpl ← reads State.level
  raiseIf (!(d.isCode && (if d.isConforming then d.dpl ≤ cpl else d.dpl == cpl))) (.ts (selectorCode sel))
  raiseIf (!d.present) (.np (selectorCode sel))
  markAccessed sel d
  setSegment .cs (d.cache sel)

/-- Validate and load SS in a task switch (61_task_switching.md R684, phase E): a null selector raises TS here too
(assumption log 42). -/
def loadTaskStack (sel : Word16) : M Unit := do
  raiseIf (isNull sel) (.ts (selectorCode sel))
  let cpl ← reads State.level
  let d ← checkStackSegment sel cpl .ts
  markAccessed sel d
  setSegment .ss (d.cache sel)

/-- Validate and load DS, ES, FS or GS in a task switch (61_task_switching.md R684, phase E): a wrong selector raises TS
(DEDUCED where 21_segmentation_protection.md R200 gives exception 13, assumption log 42). -/
def loadTaskData (r : SegReg) (sel : Word16) : M Unit :=
  if isNull sel then pure () else loadDataSegment r sel .ts

/-- The segment registers of an incoming protected-mode task, whose selectors are loaded (61_task_switching.md R684,
phase E). -/
def loadTaskSegments : M Unit := do
  let s ← get
  loadTaskCode s.segs.cs.sel
  loadTaskStack s.segs.ss.sel
  loadTaskData .ds s.segs.ds.sel
  loadTaskData .es s.segs.es.sel
  loadTaskData .fs s.segs.fs.sel
  loadTaskData .gs s.segs.gs.sel

/-- The segment registers of an incoming V86 task (62_virtual_8086.md R702). -/
def Segs.asV86 (g : Segs) : Segs :=
  { es := .real g.es.sel 3, cs := .real g.cs.sel 3, ss := .real g.ss.sel 3, ds := .real g.ds.sel 3, fs := .real g.fs.sel 3,
    gs := .real g.gs.sel 3 }

/-- Phase E of a task switch (61_task_switching.md R684). -/
def validateTask : M Unit := do
  let s ← get
  loadTaskLdt s.ldtr.sel
  if s.flags.vm then update fun s => { s with segs := s.segs.asV86 } else loadTaskSegments
  let s ← get
  raiseIf (!s.inSegment .cs s.pc 1) (.gp 0)

/-- Phase A of a task switch: the tests made in the old task (61_task_switching.md R684). The limit of an 80286 TSS descriptor
is read with its bits 19..16 and G as they stand (21_segmentation_protection.md R175; assumption log 51). A selector outside
the table raises GP for every cause (21_segmentation_protection.md R153, 45_control_transfer.md R481). -/
def checkNewTask (sel : Word16) (cause : SwitchCause) : M Desc := do
  let bad : Word16 → Exc := if cause = .iret then .ts else .gp
  raiseIf (bitAt sel 2 || isNull sel) (bad (selectorCode sel))
  let d ← readDesc sel .gp
  let wanted := if cause = .iret then d.isSystem 3 || d.isSystem 0xB else d.isSystem 1 || d.isSystem 9
  raiseIf (!wanted) (bad (selectorCode sel))
  raiseIf (!d.present) (.np (selectorCode sel))
  let is386 := d.type == 9 || d.type == 0xB
  raiseIf (decide (d.limit.toNat ≤ (if is386 then 0x64 else 0x2B))) (.ts (selectorCode sel))
  pure d

/-- The causes that nest the incoming task in the outgoing one. -/
def nests (cause : SwitchCause) : Bool := cause == .call || cause == .int

/-- The image of EFLAGS that the outgoing task is saved with: IRET clears its NT (61_task_switching.md R684, R687). -/
def savedImage (cause : SwitchCause) : M Word32 := do
  let u ← draw
  let s ← get
  let f := if cause = .iret then { s.flags with nt := false } else s.flags
  pure (f.image (u.extractLsb' 18 14))

/-- Phase B of a task switch: the outgoing task is saved, and is no longer busy unless the new one nests in it
(61_task_switching.md R684). -/
def saveOldTask (cause : SwitchCause) (ret : Word32) : M Unit := do
  update fun s => { s with cur := { s.cur with committed := true } }
  let img ← savedImage cause
  let s ← get
  if s.tr.is386 then saveTask386 s.tr.base ret img else saveTask286 s.tr.base ret img
  whenever (!nests cause) (setBusy s.tr.sel false)

/-- Phase C of a task switch: the back link, the busy bit, TR and CR0.TS (61_task_switching.md R684). -/
def enterNewTask (sel : Word16) (d : Desc) (cause : SwitchCause) : M Unit := do
  let s ← get
  whenever (nests cause) (sysWrite d.base 2 s.tr.sel.toNat)
  whenever (cause != .iret) (setBusy sel true)
  update fun s =>
    { s with tr := { sel := sel, base := d.base, limit := d.limit, valid := true, is386 := d.type == 9 || d.type == 0xB }
             cr0 := { s.cr0 with ts := true } }

/-- The fields of a TSS of either format. -/
def loadTaskFields (d : Desc) : M Bool :=
  if d.type == 9 || d.type == 0xB then loadTask386 d.base else loadTask286 d.base

/-- Phase D of a task switch: the incoming state is loaded (61_task_switching.md R684). -/
def loadNewTask (d : Desc) (nested : Bool) : M Bool := do
  let t ← loadTaskFields d
  update fun s => s.withTaskMode nested
  pure t

/-- Phase F of a task switch: the debug trap of the T bit (61_task_switching.md R684, 60_exceptions.md R661). -/
def taskTrap (t : Bool) : M Unit :=
  whenever t (update fun s => { s with dr6 := s.dr6 ||| 0x8000, dbgPending := true })

/-- `TaskSwitch(nsel, cause, ret)` of 61_task_switching.md R684. -/
def taskSwitch (sel : Word16) (cause : SwitchCause) (ret : Word32) : M Unit := do
  let d ← checkNewTask sel cause
  let s ← get
  raiseIf (!s.tr.valid) (.refuse .taskSwitchWithoutTss)
  saveOldTask cause ret
  enterNewTask sel d cause
  let t ← loadNewTask d (nests cause)
  validateTask
  taskTrap t

end Sys2Proof.Machine
end

