-- ==== Sys2Proof/Machine/Ops.lean ====
section
/-! DEFINITION. Taking an exception or interrupt, returning from one, and the frame every instruction runs in: 60_exceptions.md R612, R613, R640 to R649, R660, R662, R668; 45_control_transfer.md R491, R496; 48_processor_control.md R585. -/

namespace Sys2Proof.Machine

/-- The kinds of delivery (60_exceptions.md R640). -/
inductive DeliveryKind where
  | software | external | exception
  deriving DecidableEq, Repr

/-- A vectored event to be delivered: its vector, kind, error code, return address, and RF in the pushed image
(60_exceptions.md R662), which is a free value where it is `none` (assumption log 25). -/
structure Event where
  vec : Byte
  kind : DeliveryKind
  err : Option Word16
  ret : Word32
  rf : Option Bool
  deriving DecidableEq, Repr

/-- Push several items of `n` bytes, the first one first. -/
def pushAll (n : Nat) : List Nat → M Unit
  | [] => pure ()
  | v :: vs => do
    push n v
    pushAll n vs

/-- Real-mode delivery of a vector (60_exceptions.md R641). A vector outside the table becomes vector 8, whose return
address is the instruction that caused it (60_exceptions.md R642; assumption log 16). -/
def deliverReal (e : Event) : M Unit := do
  let s ← get
  let outside (v : Byte) := decide (s.idtr.limit.toNat < 4 * v.toNat + 3)
  raiseIf (outside e.vec && (e.vec == 8 || e.vec == 13 || outside 8)) .shutdown
  let vec : Byte := if outside e.vec then 8 else e.vec
  let ret := if outside e.vec && e.kind == .software then s.pc else e.ret
  pushAll 2 [(s.flags.image 0).toNat, s.segs.cs.sel.toNat, ret.toNat]
  let off ← sysRead (s.idtr.base + 4 * vec.setWidth 32) 2
  let sel ← sysRead (s.idtr.base + 4 * vec.setWidth 32 + 2) 2
  update fun s =>
    { s.setSeg .cs (SegCache.real (BitVec.ofNat 16 sel) 0) with
      pc := BitVec.ofNat 32 off
      flags := { s.flags with ie := false, tf := false }
      cur := { s.cur with jumped := true, noTrap := true } }

/-- The image of EFLAGS that a delivery pushes (60_exceptions.md R662). -/
def eventImage (e : Event) : M Word32 := do
  let s ← get
  let u ← draw
  let rf := match e.rf with | some b => b | none => bitAt u 0
  pure ({ s.flags with rf := rf }.image (u.extractLsb' 18 14))

/-- The error code as one item of the gate's size; the upper half of a 32-bit item is undefined (60_exceptions.md R620). -/
def errorItems (isz : Nat) (err : Option Word16) : M (List Nat) :=
  match err with
  | none => pure []
  | some c => if isz = 4 then do
      let u ← draw
      pure [(insertLow u c).toNat]
    else pure [c.toNat]

/-- The segment registers of a V86 program are saved on the inner stack and made null (60_exceptions.md R647,
62_virtual_8086.md R713). -/
def leaveV86 (isz : Nat) (old : Segs) : M Unit := do
  pushAll isz [old.gs.sel.toNat, old.fs.sel.toNat, old.ds.sel.toNat, old.es.sel.toNat]
  update fun s =>
    { s with segs := { s.segs with es := s.segs.es.null 0, ds := s.segs.ds.null 0, fs := s.segs.fs.null 0, gs := s.segs.gs.null 0 } }

/-- Entry to a handler at an inner level: the stack of that level from the TSS, and the old stack saved on it
(60_exceptions.md R647). A bad inner stack selector raises TS (assumption log 42). The old stack pointer is
pushed as ESP, of which a 16-bit item takes SP (60_exceptions.md R648, 62_virtual_8086.md R713; DEDUCED, assumption log 50). -/
def deliverInner (e : Event) (isz : Nat) (csel : Word16) (d : Desc) (off img : Word32) (errs : List Nat) : M Unit := do
  let s ← get
  raiseIf (s.flags.vm && d.dpl != 0) (.gp (selectorCode csel))
  let (nss, nesp) ← innerStack d.dpl
  let sd ← innerStackSegment nss d.dpl
  raiseIf (!(sd.cache nss).hasRoom (bitAt sd 54) nesp (5 + errs.length + (if s.flags.vm then 4 else 0)) isz) (.ss 0)
  raiseIf (decide (d.limit < off)) (.gp 0)
  markAccessed nss sd
  update fun s => { s.setSeg .ss (sd.cache nss) with cpl := d.dpl, flags := { s.flags with vm := false } }
  update fun s => s.withSp nesp
  whenever s.flags.vm (leaveV86 isz s.segs)
  pushAll isz ([s.segs.ss.sel.toNat, (s.reg .esp).toNat, img.toNat, s.segs.cs.sel.toNat, e.ret.toNat] ++ errs)
  enterCode csel d d.dpl off

/-- Entry to a handler at the level of the program (60_exceptions.md R647). -/
def deliverSame (e : Event) (isz : Nat) (csel : Word16) (d : Desc) (off img : Word32) (errs : List Nat) : M Unit := do
  let s ← get
  raiseIf s.flags.vm (.gp (selectorCode csel))
  raiseIf (!s.segs.ss.hasRoom s.stack32 s.sp (3 + errs.length) isz) (.ss 0)
  raiseIf (decide (d.limit < off)) (.gp 0)
  pushAll isz ([img.toNat, s.segs.cs.sel.toNat, e.ret.toNat] ++ errs)
  enterCode csel d s.level off

/-- The flags in a handler entered through a gate: an interrupt gate clears IF (60_exceptions.md R647). -/
def enterHandler (g : Desc) : M Unit := update fun s =>
  { s with
    flags := { s.flags with tf := false, nt := false, vm := false, rf := false,
                            ie := s.flags.ie && !(g.type == 6 || g.type == 0xE) }
    cur := { s.cur with noTrap := true } }

/-- Entry through an interrupt or trap gate of the IDT (60_exceptions.md R647). -/
def deliverGate (e : Event) (g : Desc) : M Unit := do
  let is386 := g.type == 0xE || g.type == 0xF
  let isz := if is386 then 4 else 2
  let csel := g.gateSelector
  raiseIf (isNull csel) (.gp 0)
  let d ← readDesc csel .gp
  let s ← get
  raiseIf (!(d.isCode && d.dpl ≤ s.level)) (.gp (selectorCode csel))
  raiseIf (!d.present) (.np (selectorCode csel))
  let img ← eventImage e
  let errs ← errorItems isz e.err
  if !d.isConforming && d.dpl < s.level then deliverInner e isz csel d (g.gateOffset is386) img errs
  else deliverSame e isz csel d (g.gateOffset is386) img errs
  enterHandler g

/-- Entry through a task gate: the error code is pushed in the new task (60_exceptions.md R649). -/
def deliverTask (e : Event) (g : Desc) : M Unit := do
  taskSwitch g.gateSelector .int e.ret
  let s ← get
  let isz := if s.tr.is386 then 4 else 2
  let errs ← errorItems isz e.err
  pushAll isz errs
  update fun s => { s with cur := { s.cur with noTrap := true } }

/-- The IDT form of an error code (60_exceptions.md R620). -/
def idtCode (v : Byte) : Word16 := v.setWidth 16 * 8 + 2

/-- Protected-mode lookup of a vector (60_exceptions.md R646). -/
def deliverProtected (e : Event) : M Unit := do
  let s ← get
  raiseIf (decide (s.idtr.limit.toNat < 8 * e.vec.toNat + 7)) (.gp (idtCode e.vec))
  let v ← sysRead (s.idtr.base + 8 * e.vec.setWidth 32) 8
  let g : Desc := BitVec.ofNat 64 v
  raiseIf (!(g.isSystem 5 || g.isSystem 6 || g.isSystem 7 || g.isSystem 0xE || g.isSystem 0xF)) (.gp (idtCode e.vec))
  raiseIf (e.kind == .software && g.dpl < s.level) (.gp (idtCode e.vec))
  raiseIf (!g.present) (.np (idtCode e.vec))
  if g.type = 5 then deliverTask e g else deliverGate e g

/-- TAKING AN EXCEPTION OR INTERRUPT: `Deliver(v, kind, err, ret)` of 60_exceptions.md R640. -/
def deliver (e : Event) : M Unit := do
  let s ← get
  if s.cr0.pe then deliverProtected e else deliverReal e

/-- Set again the bits that a page walk set (22_paging.md R239). -/
def replayWalk : List Host.Cell → Memory → Memory
  | [], m => m
  | (a, bits) :: w, m => let m' := replayWalk w m; Memory.set m' a (Memory.get m' a ||| bits)

/-- The state in which the event that ended an instruction is taken: the state before the instruction, since a fault
changes nothing (60_exceptions.md R613), with what the page walker did kept (assumption log 15), or, after the phase A
of a task switch, the state the switch had reached (61_task_switching.md R693). The same holds where what ended it is SHUTDOWN
(60_exceptions.md R672): the items already pushed and the stack pointer are taken back. DESIGN CHOICE, assumption log 15. -/
def unwind (s s1 : State) : State :=
  if s1.cur.committed then { s1 with cur := Latch.idle }
  else { s with mem := replayWalk s1.cur.walk s.mem, tlb := s1.tlb, draws := s1.draws, cur := Latch.idle }

/-- Attach the outcome `unrestartable` to a page fault raised at the point `s1` inside a task switch that has passed its
phase A (60_exceptions.md R616). -/
def State.noteRestart (s s1 : State) (x : Exc) : State :=
  match x with
  | .pageFault _ _ => { s with unrestartable := s.unrestartable || s1.cur.committed }
  | .vector _ _ => s
  | .shutdown => s
  | .stop _ => s
  | .refuse _ => s

/-- The state between two steps: the latch is idle and, after a transfer, the prefetch queue is empty
(20_memory.md R140). -/
def State.settle (s : State) : State := { s with cur := Latch.idle, stale := [], repActive := false }

/-- The vectors that take part in a double fault (60_exceptions.md R668). -/
def isContributory (v : Byte) : Bool := v == 0 || v == 10 || v == 11 || v == 12 || v == 13

/-- The error code of an exception raised while an event is delivered: EXT is 1 unless the event is a software
interrupt (60_exceptions.md R620, R646). -/
def withExt (k : DeliveryKind) (err : Option Word16) : Option Word16 :=
  if k = .software then err else err.map (· ||| 1)

/-- The event that follows when the delivery of `first` raises the vector `v` (60_exceptions.md R668). -/
def nextEvent (first : Event) (v : Byte) (err : Option Word16) (ret : Word32) : Event :=
  if first.kind = .exception ∧ isContributory first.vec ∧ isContributory v then
    { vec := 8, kind := .exception, err := some 0, ret := ret, rf := none }
  else { vec := v, kind := .exception, err := err, ret := ret, rf := some true }

/-- The same event with EXT set in its error code, if the delivery of an event of the kind `k` raised it. -/
def Exc.within (k : DeliveryKind) : Exc → Exc
  | .vector v err => .vector v (withExt k err)
  | .pageFault lin code => .pageFault lin code
  | .shutdown => .shutdown
  | .stop f => .stop f
  | .refuse r => .refuse r

/-- The processor shuts down (60_exceptions.md R672). -/
def State.shutDown (s : State) : State := { s.settle with run := .shutdown }

/-- What comes of an event: an exception is handed to `again` with the state, the vector and the error code, CR2 being
loaded by a page fault (22_paging.md R245). -/
def State.onExc (s : State) (again : State → Byte → Option Word16 → Host.Outcome State Fault Refusal) :
    Exc → Host.Outcome State Fault Refusal
  | .vector v err => again s v err
  | .pageFault lin code => again { s with cr2 := lin } 14 (some code)
  | .shutdown => .next s.shutDown
  | .stop f => .fault f
  | .refuse r => .refused r

/-- The event is the delivery of a double fault. -/
def Event.isDouble (e : Event) : Bool := e.kind == .exception && e.vec == 8

/-- Deliver an event and, if its delivery raises another, that one (60_exceptions.md R668; assumption log 16). Where the
second is a page fault two rows of R668 apply to a first that is a debug exception of the boundary, an NMI or an INTR: it is
delivered "in place of the first", and "the first recurs on restart". Such a first is not put back and does not recur; a
fault or INT n recurs when its instruction is executed again. DESIGN CHOICE, assumption log 56. The saved address of a
double fault is that of the first exception; where this one went through a task gate and the switch had passed its phase A it
is the `pc` of the new task, as 61_task_switching.md R693 says of a fault there and not as R668 says: DESIGN CHOICE,
assumption log 57. -/
def deliverFrom : Nat → State → Event → Host.Outcome State Fault Refusal
  | 0, _, _ => .fault .deliveryLoop
  | fuel + 1, s, e =>
    match deliver e s with
    | .ok _ s1 => .next s1.settle
    | .error x s1 =>
      ((unwind s s1).noteRestart s1 x).onExc
        (fun b v err => if e.isDouble then .next b.shutDown else deliverFrom fuel b (nextEvent e v err b.pc))
        (x.within e.kind)

/-- How many deliveries may raise another before the model takes it that they never end. -/
def deliveryFuel : Nat := 64

/-- Deliver an event at a boundary. -/
def deliverEvent (s : State) (e : Event) : Host.Outcome State Fault Refusal := deliverFrom deliveryFuel s e

/-- The delivery of an exception: the saved address is that of the instruction (60_exceptions.md R612). -/
def deliverException (s : State) (v : Byte) (err : Option Word16) : Host.Outcome State Fault Refusal :=
  deliverEvent s { vec := v, kind := .exception, err := err, ret := s.pc, rf := some true }

/-- Take the event that ended an instruction begun in `s` at the point `s1` (60_exceptions.md R612, R613). -/
def takeExc (s s1 : State) (x : Exc) : Host.Outcome State Fault Refusal :=
  ((unwind s s1).noteRestart s1 x).onExc deliverException x

/-- The completion of an instruction that began with TF = `tf` (60_exceptions.md R635 g, R660; 10_state.md R52;
92_eei_decisions.md D1). -/
def State.complete (s : State) (tf : Bool) : State :=
  let c := s.cur
  let trap := tf && !c.noTrap
  { s with
    pc := if c.jumped || c.repeats then s.pc else c.npc
    flags := { s.flags with rf := s.flags.rf && (c.keepRf || c.repeats) }
    dr6 := if trap then s.dr6 ||| 0x4000 else s.dr6
    dbgPending := s.dbgPending || trap
    repActive := c.repeats
    stale := if c.jumped then [] else s.stale
    cur := Latch.idle }

/-- Run an instruction: its completion, or the event that ended it. -/
def runInstr (m : M Unit) (s : State) : Host.Outcome State Fault Refusal :=
  match m s with
  | .ok _ s1 => .next (s1.complete s.flags.tf)
  | .error x s1 => takeExc s s1 x

/-- Run a prefix byte: it only notes itself for the instruction that follows, or ends it (30_encoding.md R265). -/
def runPrefix (m : M Unit) (s : State) : Host.Outcome State Fault Refusal :=
  match m s with
  | .ok _ s1 => .next { s1 with cur := { s1.cur with inPrefix := true } }
  | .error x s1 => takeExc s s1 x

/-- A segment register that an outer level may not hold is cleared (45_control_transfer.md R491). -/
def SegCache.droppedAt (c : SegCache) (cpl : BitVec 2) : SegCache :=
  if c.valid && !(c.executable && c.conforming) && c.dpl < cpl then c.null 0 else c

/-- The data segment registers after a return to an outer level (45_control_transfer.md R491). -/
def State.dropSegments (s : State) (cpl : BitVec 2) : State :=
  { s with segs := { s.segs with ds := s.segs.ds.droppedAt cpl, es := s.segs.es.droppedAt cpl,
                                 fs := s.segs.fs.droppedAt cpl, gs := s.segs.gs.droppedAt cpl } }

/-- The return to an outer level: its SS:ESP lies `frame + imm` bytes above the pointer (45_control_transfer.md R491). -/
def returnOuter (sel : Word16) (d : Desc) (off : Word32) (n frame : Nat) (imm : Word32) : M Unit := do
  let s ← get
  let nsp ← segRead .ss (s.stackOffset (s.sp + BitVec.ofNat 32 frame + imm)) n
  let nssN ← segRead .ss (s.stackOffset (s.sp + BitVec.ofNat 32 (frame + n) + imm)) n
  let nss := BitVec.ofNat 16 nssN
  raiseIf (isNull nss) (.gp 0)
  let sd ← checkStackSegment nss (rpl sel) .gp
  enterCode sel d (rpl sel) off
  markAccessed nss sd
  setSegment .ss (sd.cache nss)
  update fun s => s.withSp (s.stackOffset (BitVec.ofNat 32 nsp + imm))
  update fun s => s.dropSegments (rpl sel)

/-- The return to the same level (45_control_transfer.md R491). -/
def returnSame (sel : Word16) (d : Desc) (off : Word32) (frame : Nat) (imm : Word32) : M Unit := do
  enterCode sel d (rpl sel) off
  update fun s => s.withSp (s.stackOffset (s.sp + BitVec.ofNat 32 frame + imm))

/-- The return through the stack in protected mode, shared by RET far and IRET (45_control_transfer.md R491, R496).
`frame` is how many bytes the frame has before an outer SS:ESP, and `imm` what the instruction releases. -/
def returnProtected (sel : Word16) (off : Word32) (n frame : Nat) (imm : Word32) : M Unit := do
  raiseIf (isNull sel) (.gp 0)
  let s ← get
  raiseIf (decide (rpl sel < s.level)) (.gp (selectorCode sel))
  let d ← readDesc sel .gp
  raiseIf (!(d.isCode && (if d.isConforming then d.dpl ≤ rpl sel else d.dpl == rpl sel))) (.gp (selectorCode sel))
  raiseIf (!d.present) (.np (selectorCode sel))
  raiseIf (decide (d.limit < off)) (.gp 0)
  if rpl sel = s.level then returnSame sel d off frame imm else returnOuter sel d off n frame imm

/-- The real-mode and V86 load of CS and `pc` (45_control_transfer.md R482). -/
def enterRealCode (sel : Word16) (off : Word32) : M Unit := do
  raiseIf (decide (0xFFFF < off.toNat)) (.gp 0)
  update fun s =>
    { s.setSeg .cs (SegCache.real sel (if s.v86 then 3 else 0)) with
      pc := off, cur := { s.cur with jumped := true } }

/-- IRET in real mode and V86 mode (45_control_transfer.md R496). -/
def iretReal (n : Nat) : M Unit := do
  let off ← pop n
  let sel ← pop n
  let img ← pop n
  enterRealCode (BitVec.ofNat 16 sel) (BitVec.ofNat 32 off)
  update fun s => { s with flags := s.flags.load s.level (n == 4) (BitVec.ofNat 32 img) }

/-- IRET to V86 mode from level 0 (62_virtual_8086.md R714). -/
def iretToV86 (sel : Word16) (off img : Word32) : M Unit := do
  let esp ← stackRead 12 4
  let ss ← stackRead 16 4
  let es ← stackRead 20 4
  let ds ← stackRead 24 4
  let fs ← stackRead 28 4
  let gs ← stackRead 32 4
  let w (v : Nat) : SegCache := SegCache.real (BitVec.ofNat 16 v) 3
  update fun s =>
    { s with
      flags := Flags.ofImage img
      cpl := 3
      segs := { cs := SegCache.real sel 3, ss := w ss, es := w es, ds := w ds, fs := w fs, gs := w gs }
      pc := off &&& 0xFFFF
      gpr := { s.gpr with esp := BitVec.ofNat 32 esp }
      cur := { s.cur with jumped := true } }

/-- IRET in protected mode with NT = 0 (45_control_transfer.md R496). -/
def iretProtected (n : Nat) : M Unit := do
  let s ← get
  let off ← stackRead 0 n
  let selN ← stackRead n n
  let img ← stackRead (2 * n) n
  let sel : Word16 := BitVec.ofNat 16 selN
  let image : Word32 := BitVec.ofNat 32 img
  if n = 4 ∧ bitAt image 17 ∧ s.level = 0 then iretToV86 sel (BitVec.ofNat 32 off) image
  else do
    returnProtected sel (BitVec.ofNat 32 off) n (3 * n) 0
    update fun t => { t with flags := t.flags.load s.level (n == 4) image }

/-- IRET in protected mode: NT chooses between a return to the outer task and a return through the stack
(45_control_transfer.md R496, 61_task_switching.md R687, R694). -/
def iretTask (n : Nat) : M Unit := do
  let s ← get
  if s.flags.nt then do
    raiseIf (!s.tr.valid) (.refuse .taskSwitchWithoutTss)
    let link ← sysRead16 s.tr.base
    taskSwitch link .iret s.cur.npc
  else iretProtected n

/-- IRET by the mode of the processor (45_control_transfer.md R496). -/
def iretByMode (n : Nat) : M Unit := do
  let s ← get
  if s.protected then iretTask n else iretReal n

/-- RETURNING FROM AN EXCEPTION OR INTERRUPT: IRET (45_control_transfer.md R496, 60_exceptions.md R670). -/
def interruptReturn : M Unit := do
  let s ← get
  raiseIf (s.v86 && s.flags.iopl != 3) (.gp 0)
  update fun s => { s with nmiInService := false, cur := { s.cur with keepRf := true } }
  iretByMode (if s.os32 then 4 else 2)

/-- A software interrupt: INT n, INT 3, INTO (60_exceptions.md R631, 45_control_transfer.md R493). -/
def softwareInterrupt (v : Byte) : M Unit := do
  let s ← get
  deliver { vec := v, kind := .software, err := none, ret := s.cur.npc, rf := some false }

/-- `Privileged()` of 47_os_support.md R570. -/
def privileged : M Unit := do
  let s ← get
  raiseIf (s.cr0.pe && (s.flags.vm || s.cpl != 0)) (.gp 0)

/-- `ProtectedOnly()` of 47_os_support.md R571. -/
def protectedOnly : M Unit := do
  let s ← get
  raiseIf (!s.protected) .ud

/-- The IOPL test of 21_segmentation_protection.md R194. -/
def ioSensitive : M Unit := do
  let s ← get
  raiseIf (s.cr0.pe && s.flags.iopl < s.level) (.gp 0)

end Sys2Proof.Machine
end

