-- ==== Sys2Proof/Machine/Arithmetic.lean ====
section
/-! DEFINITION. Arithmetic and logical instructions: 41_arithmetic.md. -/

namespace Sys2Proof.Machine

/-- A two-operand operation on a byte destination; CMP writes none (41_arithmetic.md R371). -/
def aluEb (op : Alu) (e : Rm Reg8) (src : M Byte) : M Unit := do
  let b ← src
  if op = .cmp then do
    let a ← readRm8 e
    let _ ← alu op a b
    pure ()
  else modifyRm8 e fun a => alu op a b

/-- A two-operand operation on a destination of the operand size (41_arithmetic.md R371). -/
def aluEv (op : Alu) (e : Rm Reg) (src : (n : Nat) → M (BitVec n)) : M Unit := bySize fun n => do
  let b ← src n
  if op = .cmp then do
    let a ← readRm n e
    let _ ← alu op a b
    pure ()
  else modifyRm n e fun a => alu op a b

/-- A two-operand operation from an operand to an 8-bit view (41_arithmetic.md R371). -/
def aluGb (op : Alu) (g : Reg8) (e : Rm Reg8) : M Unit := aluEb op (.reg g) (readRm8 e)

/-- A two-operand operation from an operand to a register (41_arithmetic.md R371). -/
def aluGv (op : Alu) (g : Reg) (e : Rm Reg) : M Unit := aluEv op (.reg g) fun n => readRm n e

/-- TEST of bytes (41_arithmetic.md R388). -/
def testEb (e : Rm Reg8) (src : M Byte) : M Unit := do
  let a ← readRm8 e
  let b ← src
  let _ ← alu .and a b
  pure ()

/-- TEST at the operand size (41_arithmetic.md R388). -/
def testEv (e : Rm Reg) (src : (n : Nat) → M (BitVec n)) : M Unit := bySize fun n => do
  let a ← readRm n e
  let b ← src n
  let _ ← alu .and a b
  pure ()

/-- INC: CF is kept (41_arithmetic.md R377). -/
def incValue {n : Nat} (v : BitVec n) : M (BitVec n) := do
  setFlags fun f => { f.add v (BitVec.ofNat n 1) false with cf := f.cf }
  pure (addResult v (BitVec.ofNat n 1) false)

/-- DEC: CF is kept (41_arithmetic.md R378). -/
def decValue {n : Nat} (v : BitVec n) : M (BitVec n) := do
  setFlags fun f => { f.sub v (BitVec.ofNat n 1) false with cf := f.cf }
  pure (subResult v (BitVec.ofNat n 1) false)

/-- NEG (41_arithmetic.md R379). -/
def negValue {n : Nat} (v : BitVec n) : M (BitVec n) := do
  setFlags fun f => f.sub (BitVec.ofNat n 0) v false
  pure (subResult (BitVec.ofNat n 0) v false)

/-- The flags of MUL and IMUL: CF and OF are given, the others are free values (41_arithmetic.md R380, R381). -/
def productFlags (big : Bool) : M Unit := do
  let u ← draw
  setFlags fun f => { f.undefined u with cf := big, ovf := big }

/-- The product of MUL or IMUL in `2 n` bits, and whether it exceeds its lower half (41_arithmetic.md R380, R381). -/
def product (signed : Bool) {n : Nat} (a b : BitVec n) : Nat × Bool :=
  if signed then
    let p := a.toInt * b.toInt
    ((p % (2 ^ (2 * n) : Nat)).toNat, decide ((BitVec.ofInt n p).toInt ≠ p))
  else (a.toNat * b.toNat, decide (2 ^ n ≤ a.toNat * b.toNat))

/-- MUL and IMUL of bytes: AX receives the product (41_arithmetic.md R380, R381). -/
def multiply8 (signed : Bool) (e : Rm Reg8) : M Unit := do
  let b ← readRm8 e
  let s ← get
  let p := product signed (s.reg8 .al) b
  setRegister .eax (BitVec.ofNat 16 p.1)
  productFlags p.2

/-- MUL and IMUL with one operand: DX:AX or EDX:EAX receives the product (41_arithmetic.md R380, R381). -/
def multiply (signed : Bool) (e : Rm Reg) : M Unit := bySize fun n => do
  let b ← readRm n e
  let s ← get
  let p := product signed (s.regN n .eax) b
  setRegister .eax (BitVec.ofNat n p.1)
  setRegister .edx (BitVec.ofNat n (p.1 / 2 ^ n))
  productFlags p.2

/-- IMUL with two or three operands (41_arithmetic.md R381). -/
def imulTo (g : Reg) (e : Rm Reg) (src : (n : Nat) → M (BitVec n)) : M Unit := bySize fun n => do
  let a ← readRm n e
  let b ← src n
  let p := product true a b
  setRegister g (BitVec.ofNat n p.1)
  productFlags p.2

/-- All six status flags become free values (41_arithmetic.md R382). -/
def undefinedFlags : M Unit := do
  let u ← draw
  setFlags fun f => f.undefined u

/-- DIV of AX by a byte (41_arithmetic.md R382). -/
def divide8 (e : Rm Reg8) : M Unit := do
  let v ← readRm8 e
  let s ← get
  let d := (s.regN 16 .eax).toNat
  raiseIf (v == 0 || decide (256 ≤ d / v.toNat)) .de
  setRegister8 .al (BitVec.ofNat 8 (d / v.toNat))
  setRegister8 .ah (BitVec.ofNat 8 (d % v.toNat))
  undefinedFlags

/-- DIV of DX:AX or EDX:EAX (41_arithmetic.md R382). -/
def divide (e : Rm Reg) : M Unit := bySize fun n => do
  let v ← readRm n e
  let s ← get
  let d := (s.regN n .edx).toNat * 2 ^ n + (s.regN n .eax).toNat
  raiseIf (v == 0 || decide (2 ^ n ≤ d / v.toNat)) .de
  setRegister .eax (BitVec.ofNat n (d / v.toNat))
  setRegister .edx (BitVec.ofNat n (d % v.toNat))
  undefinedFlags

/-- A signed quotient lies outside `-2^(n-1) .. 2^(n-1) - 1`. -/
def outsideSigned (n : Nat) (q : Int) : Bool := decide (q < -(2 ^ (n - 1) : Nat)) || decide (((2 ^ (n - 1) : Nat) : Int) ≤ q)

/-- IDIV of AX by a byte: the quotient is truncated toward zero and the remainder has the sign of the dividend
(41_arithmetic.md R383). -/
def divideSigned8 (e : Rm Reg8) : M Unit := do
  let v ← readRm8 e
  let s ← get
  let d := (s.regN 16 .eax).toInt
  raiseIf (v == 0 || outsideSigned 8 (d.tdiv v.toInt)) .de
  setRegister8 .al (BitVec.ofInt 8 (d.tdiv v.toInt))
  setRegister8 .ah (BitVec.ofInt 8 (d.tmod v.toInt))
  undefinedFlags

/-- IDIV of DX:AX or EDX:EAX (41_arithmetic.md R383). -/
def divideSigned (e : Rm Reg) : M Unit := bySize fun n => do
  let v ← readRm n e
  let s ← get
  let d := (BitVec.ofNat (2 * n) ((s.regN n .edx).toNat * 2 ^ n + (s.regN n .eax).toNat)).toInt
  raiseIf (v == 0 || outsideSigned n (d.tdiv v.toInt)) .de
  setRegister .eax (BitVec.ofInt n (d.tdiv v.toInt))
  setRegister .edx (BitVec.ofInt n (d.tmod v.toInt))
  undefinedFlags

/-- DAA when `add`, else DAS: OF is a free value (41_arithmetic.md R389, R390). -/
def decimalAdjust (add : Bool) : M Unit := do
  let s ← get
  let u ← draw
  let a := s.reg8 .al
  let low := decide (9 < a.toNat % 16) || s.flags.af
  let high := decide (0x99 < a.toNat) || s.flags.cf
  let d : Byte := (if low then 6 else 0) + (if high then 0x60 else 0)
  let r := if add then a + d else a - d
  setRegister8 .al r
  setFlags fun f => { f.ofResult r with cf := high, af := low, ovf := bitAt u 11 }

/-- AAA when `add`, else AAS. Whether a carry or borrow of AL enters AH too is a free value
(41_arithmetic.md R391, R392; 93_implementation_defined.md U13; assumption log 24). -/
def asciiAdjust (add : Bool) : M Unit := do
  let s ← get
  let u ← draw
  let al := s.reg8 .al
  let ah := s.reg8 .ah
  let adjust := decide (9 < al.toNat % 16) || s.flags.af
  let wraps := if add then decide (0xF9 < al.toNat) else decide (al.toNat < 6)
  let extra : Byte := if wraps && bitAt u 16 then 2 else 1
  setRegister8 .al ((if !adjust then al else if add then al + 6 else al - 6) &&& 0x0F)
  setRegister8 .ah (if !adjust then ah else if add then ah + extra else ah - extra)
  setFlags fun f => { f.undefined u with cf := adjust, af := adjust }

/-- AAM: CF, OF and AF are free values (41_arithmetic.md R393). -/
def aamBy (base : Byte) : M Unit := do
  let s ← get
  raiseIf (base == 0) .de
  let al := s.reg8 .al
  setRegister8 .ah (al / base)
  setRegister8 .al (al % base)
  let u ← draw
  setFlags fun f => (f.undefined u).ofResult (al % base)

/-- AAD: CF, OF and AF are free values (41_arithmetic.md R394). -/
def aadBy (base : Byte) : M Unit := do
  let s ← get
  let r := s.reg8 .al + s.reg8 .ah * base
  setRegister8 .al r
  setRegister8 .ah 0
  let u ← draw
  setFlags fun f => (f.undefined u).ofResult r

/-- ADD Eb,Gb (41_arithmetic.md R372). -/
def execAddEbGb (e : Rm Reg8) (g : Reg8) (s : State) : Host.Outcome State Fault Refusal :=
  runInstr (aluEb .add e (reads fun s => s.reg8 g)) s

/-- ADD Ev,Gv (41_arithmetic.md R372). -/
def execAddEvGv (e : Rm Reg) (g : Reg) (s : State) : Host.Outcome State Fault Refusal :=
  runInstr (aluEv .add e fun n => reads fun s => s.regN n g) s

/-- ADD Gb,Eb (41_arithmetic.md R372). -/
def execAddGbEb (g : Reg8) (e : Rm Reg8) (s : State) : Host.Outcome State Fault Refusal :=
  runInstr (aluGb .add g e) s

/-- ADD Gv,Ev (41_arithmetic.md R372). -/
def execAddGvEv (g : Reg) (e : Rm Reg) (s : State) : Host.Outcome State Fault Refusal :=
  runInstr (aluGv .add g e) s

/-- ADD AL,Ib (41_arithmetic.md R372). -/
def execAddAlIb (imm : Byte) (s : State) : Host.Outcome State Fault Refusal :=
  runInstr (aluEb .add (.reg .al) (pure imm)) s

/-- ADD eAX,Iv (41_arithmetic.md R372). -/
def execAddEaxIv (imm : Word32) (s : State) : Host.Outcome State Fault Refusal :=
  runInstr (aluEv .add (.reg .eax) fun n => pure (imm.setWidth n)) s

/-- ADD Eb,Ib (41_arithmetic.md R372). -/
def execAddEbIb (e : Rm Reg8) (imm : Byte) (s : State) : Host.Outcome State Fault Refusal :=
  runInstr (aluEb .add e (pure imm)) s

/-- ADD Ev,Iv (41_arithmetic.md R372). -/
def execAddEvIv (e : Rm Reg) (imm : Word32) (s : State) : Host.Outcome State Fault Refusal :=
  runInstr (aluEv .add e fun n => pure (imm.setWidth n)) s

/-- ADD Ev,Ib (sign-extended) (41_arithmetic.md R372). -/
def execAddEvIbs (e : Rm Reg) (imm : Byte) (s : State) : Host.Outcome State Fault Refusal :=
  runInstr (aluEv .add e fun n => pure (imm.signExtend n)) s

/-- OR Eb,Gb (41_arithmetic.md R385). -/
def execOrEbGb (e : Rm Reg8) (g : Reg8) (s : State) : Host.Outcome State Fault Refusal :=
  runInstr (aluEb .or e (reads fun s => s.reg8 g)) s

/-- OR Ev,Gv (41_arithmetic.md R385). -/
def execOrEvGv (e : Rm Reg) (g : Reg) (s : State) : Host.Outcome State Fault Refusal :=
  runInstr (aluEv .or e fun n => reads fun s => s.regN n g) s

/-- OR Gb,Eb (41_arithmetic.md R385). -/
def execOrGbEb (g : Reg8) (e : Rm Reg8) (s : State) : Host.Outcome State Fault Refusal :=
  runInstr (aluGb .or g e) s

/-- OR Gv,Ev (41_arithmetic.md R385). -/
def execOrGvEv (g : Reg) (e : Rm Reg) (s : State) : Host.Outcome State Fault Refusal :=
  runInstr (aluGv .or g e) s

/-- OR AL,Ib (41_arithmetic.md R385). -/
def execOrAlIb (imm : Byte) (s : State) : Host.Outcome State Fault Refusal :=
  runInstr (aluEb .or (.reg .al) (pure imm)) s

/-- OR eAX,Iv (41_arithmetic.md R385). -/
def execOrEaxIv (imm : Word32) (s : State) : Host.Outcome State Fault Refusal :=
  runInstr (aluEv .or (.reg .eax) fun n => pure (imm.setWidth n)) s

/-- OR Eb,Ib (41_arithmetic.md R385). -/
def execOrEbIb (e : Rm Reg8) (imm : Byte) (s : State) : Host.Outcome State Fault Refusal :=
  runInstr (aluEb .or e (pure imm)) s

/-- OR Ev,Iv (41_arithmetic.md R385). -/
def execOrEvIv (e : Rm Reg) (imm : Word32) (s : State) : Host.Outcome State Fault Refusal :=
  runInstr (aluEv .or e fun n => pure (imm.setWidth n)) s

/-- OR Ev,Ib (sign-extended) (41_arithmetic.md R385). -/
def execOrEvIbs (e : Rm Reg) (imm : Byte) (s : State) : Host.Outcome State Fault Refusal :=
  runInstr (aluEv .or e fun n => pure (imm.signExtend n)) s

/-- ADC Eb,Gb (41_arithmetic.md R373). -/
def execAdcEbGb (e : Rm Reg8) (g : Reg8) (s : State) : Host.Outcome State Fault Refusal :=
  runInstr (aluEb .adc e (reads fun s => s.reg8 g)) s

/-- ADC Ev,Gv (41_arithmetic.md R373). -/
def execAdcEvGv (e : Rm Reg) (g : Reg) (s : State) : Host.Outcome State Fault Refusal :=
  runInstr (aluEv .adc e fun n => reads fun s => s.regN n g) s

/-- ADC Gb,Eb (41_arithmetic.md R373). -/
def execAdcGbEb (g : Reg8) (e : Rm Reg8) (s : State) : Host.Outcome State Fault Refusal :=
  runInstr (aluGb .adc g e) s

/-- ADC Gv,Ev (41_arithmetic.md R373). -/
def execAdcGvEv (g : Reg) (e : Rm Reg) (s : State) : Host.Outcome State Fault Refusal :=
  runInstr (aluGv .adc g e) s

/-- ADC AL,Ib (41_arithmetic.md R373). -/
def execAdcAlIb (imm : Byte) (s : State) : Host.Outcome State Fault Refusal :=
  runInstr (aluEb .adc (.reg .al) (pure imm)) s

/-- ADC eAX,Iv (41_arithmetic.md R373). -/
def execAdcEaxIv (imm : Word32) (s : State) : Host.Outcome State Fault Refusal :=
  runInstr (aluEv .adc (.reg .eax) fun n => pure (imm.setWidth n)) s

/-- ADC Eb,Ib (41_arithmetic.md R373). -/
def execAdcEbIb (e : Rm Reg8) (imm : Byte) (s : State) : Host.Outcome State Fault Refusal :=
  runInstr (aluEb .adc e (pure imm)) s

/-- ADC Ev,Iv (41_arithmetic.md R373). -/
def execAdcEvIv (e : Rm Reg) (imm : Word32) (s : State) : Host.Outcome State Fault Refusal :=
  runInstr (aluEv .adc e fun n => pure (imm.setWidth n)) s

/-- ADC Ev,Ib (sign-extended) (41_arithmetic.md R373). -/
def execAdcEvIbs (e : Rm Reg) (imm : Byte) (s : State) : Host.Outcome State Fault Refusal :=
  runInstr (aluEv .adc e fun n => pure (imm.signExtend n)) s

/-- SBB Eb,Gb (41_arithmetic.md R375). -/
def execSbbEbGb (e : Rm Reg8) (g : Reg8) (s : State) : Host.Outcome State Fault Refusal :=
  runInstr (aluEb .sbb e (reads fun s => s.reg8 g)) s

/-- SBB Ev,Gv (41_arithmetic.md R375). -/
def execSbbEvGv (e : Rm Reg) (g : Reg) (s : State) : Host.Outcome State Fault Refusal :=
  runInstr (aluEv .sbb e fun n => reads fun s => s.regN n g) s

/-- SBB Gb,Eb (41_arithmetic.md R375). -/
def execSbbGbEb (g : Reg8) (e : Rm Reg8) (s : State) : Host.Outcome State Fault Refusal :=
  runInstr (aluGb .sbb g e) s

/-- SBB Gv,Ev (41_arithmetic.md R375). -/
def execSbbGvEv (g : Reg) (e : Rm Reg) (s : State) : Host.Outcome State Fault Refusal :=
  runInstr (aluGv .sbb g e) s

/-- SBB AL,Ib (41_arithmetic.md R375). -/
def execSbbAlIb (imm : Byte) (s : State) : Host.Outcome State Fault Refusal :=
  runInstr (aluEb .sbb (.reg .al) (pure imm)) s

/-- SBB eAX,Iv (41_arithmetic.md R375). -/
def execSbbEaxIv (imm : Word32) (s : State) : Host.Outcome State Fault Refusal :=
  runInstr (aluEv .sbb (.reg .eax) fun n => pure (imm.setWidth n)) s

/-- SBB Eb,Ib (41_arithmetic.md R375). -/
def execSbbEbIb (e : Rm Reg8) (imm : Byte) (s : State) : Host.Outcome State Fault Refusal :=
  runInstr (aluEb .sbb e (pure imm)) s

/-- SBB Ev,Iv (41_arithmetic.md R375). -/
def execSbbEvIv (e : Rm Reg) (imm : Word32) (s : State) : Host.Outcome State Fault Refusal :=
  runInstr (aluEv .sbb e fun n => pure (imm.setWidth n)) s

/-- SBB Ev,Ib (sign-extended) (41_arithmetic.md R375). -/
def execSbbEvIbs (e : Rm Reg) (imm : Byte) (s : State) : Host.Outcome State Fault Refusal :=
  runInstr (aluEv .sbb e fun n => pure (imm.signExtend n)) s

/-- AND Eb,Gb (41_arithmetic.md R384). -/
def execAndEbGb (e : Rm Reg8) (g : Reg8) (s : State) : Host.Outcome State Fault Refusal :=
  runInstr (aluEb .and e (reads fun s => s.reg8 g)) s

/-- AND Ev,Gv (41_arithmetic.md R384). -/
def execAndEvGv (e : Rm Reg) (g : Reg) (s : State) : Host.Outcome State Fault Refusal :=
  runInstr (aluEv .and e fun n => reads fun s => s.regN n g) s

/-- AND Gb,Eb (41_arithmetic.md R384). -/
def execAndGbEb (g : Reg8) (e : Rm Reg8) (s : State) : Host.Outcome State Fault Refusal :=
  runInstr (aluGb .and g e) s

/-- AND Gv,Ev (41_arithmetic.md R384). -/
def execAndGvEv (g : Reg) (e : Rm Reg) (s : State) : Host.Outcome State Fault Refusal :=
  runInstr (aluGv .and g e) s

/-- AND AL,Ib (41_arithmetic.md R384). -/
def execAndAlIb (imm : Byte) (s : State) : Host.Outcome State Fault Refusal :=
  runInstr (aluEb .and (.reg .al) (pure imm)) s

/-- AND eAX,Iv (41_arithmetic.md R384). -/
def execAndEaxIv (imm : Word32) (s : State) : Host.Outcome State Fault Refusal :=
  runInstr (aluEv .and (.reg .eax) fun n => pure (imm.setWidth n)) s

/-- AND Eb,Ib (41_arithmetic.md R384). -/
def execAndEbIb (e : Rm Reg8) (imm : Byte) (s : State) : Host.Outcome State Fault Refusal :=
  runInstr (aluEb .and e (pure imm)) s

/-- AND Ev,Iv (41_arithmetic.md R384). -/
def execAndEvIv (e : Rm Reg) (imm : Word32) (s : State) : Host.Outcome State Fault Refusal :=
  runInstr (aluEv .and e fun n => pure (imm.setWidth n)) s

/-- AND Ev,Ib (sign-extended) (41_arithmetic.md R384). -/
def execAndEvIbs (e : Rm Reg) (imm : Byte) (s : State) : Host.Outcome State Fault Refusal :=
  runInstr (aluEv .and e fun n => pure (imm.signExtend n)) s

/-- SUB Eb,Gb (41_arithmetic.md R374). -/
def execSubEbGb (e : Rm Reg8) (g : Reg8) (s : State) : Host.Outcome State Fault Refusal :=
  runInstr (aluEb .sub e (reads fun s => s.reg8 g)) s

/-- SUB Ev,Gv (41_arithmetic.md R374). -/
def execSubEvGv (e : Rm Reg) (g : Reg) (s : State) : Host.Outcome State Fault Refusal :=
  runInstr (aluEv .sub e fun n => reads fun s => s.regN n g) s

/-- SUB Gb,Eb (41_arithmetic.md R374). -/
def execSubGbEb (g : Reg8) (e : Rm Reg8) (s : State) : Host.Outcome State Fault Refusal :=
  runInstr (aluGb .sub g e) s

/-- SUB Gv,Ev (41_arithmetic.md R374). -/
def execSubGvEv (g : Reg) (e : Rm Reg) (s : State) : Host.Outcome State Fault Refusal :=
  runInstr (aluGv .sub g e) s

/-- SUB AL,Ib (41_arithmetic.md R374). -/
def execSubAlIb (imm : Byte) (s : State) : Host.Outcome State Fault Refusal :=
  runInstr (aluEb .sub (.reg .al) (pure imm)) s

/-- SUB eAX,Iv (41_arithmetic.md R374). -/
def execSubEaxIv (imm : Word32) (s : State) : Host.Outcome State Fault Refusal :=
  runInstr (aluEv .sub (.reg .eax) fun n => pure (imm.setWidth n)) s

/-- SUB Eb,Ib (41_arithmetic.md R374). -/
def execSubEbIb (e : Rm Reg8) (imm : Byte) (s : State) : Host.Outcome State Fault Refusal :=
  runInstr (aluEb .sub e (pure imm)) s

/-- SUB Ev,Iv (41_arithmetic.md R374). -/
def execSubEvIv (e : Rm Reg) (imm : Word32) (s : State) : Host.Outcome State Fault Refusal :=
  runInstr (aluEv .sub e fun n => pure (imm.setWidth n)) s

/-- SUB Ev,Ib (sign-extended) (41_arithmetic.md R374). -/
def execSubEvIbs (e : Rm Reg) (imm : Byte) (s : State) : Host.Outcome State Fault Refusal :=
  runInstr (aluEv .sub e fun n => pure (imm.signExtend n)) s

/-- XOR Eb,Gb (41_arithmetic.md R386). -/
def execXorEbGb (e : Rm Reg8) (g : Reg8) (s : State) : Host.Outcome State Fault Refusal :=
  runInstr (aluEb .xor e (reads fun s => s.reg8 g)) s

/-- XOR Ev,Gv (41_arithmetic.md R386). -/
def execXorEvGv (e : Rm Reg) (g : Reg) (s : State) : Host.Outcome State Fault Refusal :=
  runInstr (aluEv .xor e fun n => reads fun s => s.regN n g) s

/-- XOR Gb,Eb (41_arithmetic.md R386). -/
def execXorGbEb (g : Reg8) (e : Rm Reg8) (s : State) : Host.Outcome State Fault Refusal :=
  runInstr (aluGb .xor g e) s

/-- XOR Gv,Ev (41_arithmetic.md R386). -/
def execXorGvEv (g : Reg) (e : Rm Reg) (s : State) : Host.Outcome State Fault Refusal :=
  runInstr (aluGv .xor g e) s

/-- XOR AL,Ib (41_arithmetic.md R386). -/
def execXorAlIb (imm : Byte) (s : State) : Host.Outcome State Fault Refusal :=
  runInstr (aluEb .xor (.reg .al) (pure imm)) s

/-- XOR eAX,Iv (41_arithmetic.md R386). -/
def execXorEaxIv (imm : Word32) (s : State) : Host.Outcome State Fault Refusal :=
  runInstr (aluEv .xor (.reg .eax) fun n => pure (imm.setWidth n)) s

/-- XOR Eb,Ib (41_arithmetic.md R386). -/
def execXorEbIb (e : Rm Reg8) (imm : Byte) (s : State) : Host.Outcome State Fault Refusal :=
  runInstr (aluEb .xor e (pure imm)) s

/-- XOR Ev,Iv (41_arithmetic.md R386). -/
def execXorEvIv (e : Rm Reg) (imm : Word32) (s : State) : Host.Outcome State Fault Refusal :=
  runInstr (aluEv .xor e fun n => pure (imm.setWidth n)) s

/-- XOR Ev,Ib (sign-extended) (41_arithmetic.md R386). -/
def execXorEvIbs (e : Rm Reg) (imm : Byte) (s : State) : Host.Outcome State Fault Refusal :=
  runInstr (aluEv .xor e fun n => pure (imm.signExtend n)) s

/-- CMP Eb,Gb (41_arithmetic.md R376). -/
def execCmpEbGb (e : Rm Reg8) (g : Reg8) (s : State) : Host.Outcome State Fault Refusal :=
  runInstr (aluEb .cmp e (reads fun s => s.reg8 g)) s

/-- CMP Ev,Gv (41_arithmetic.md R376). -/
def execCmpEvGv (e : Rm Reg) (g : Reg) (s : State) : Host.Outcome State Fault Refusal :=
  runInstr (aluEv .cmp e fun n => reads fun s => s.regN n g) s

/-- CMP Gb,Eb (41_arithmetic.md R376). -/
def execCmpGbEb (g : Reg8) (e : Rm Reg8) (s : State) : Host.Outcome State Fault Refusal :=
  runInstr (aluGb .cmp g e) s

/-- CMP Gv,Ev (41_arithmetic.md R376). -/
def execCmpGvEv (g : Reg) (e : Rm Reg) (s : State) : Host.Outcome State Fault Refusal :=
  runInstr (aluGv .cmp g e) s

/-- CMP AL,Ib (41_arithmetic.md R376). -/
def execCmpAlIb (imm : Byte) (s : State) : Host.Outcome State Fault Refusal :=
  runInstr (aluEb .cmp (.reg .al) (pure imm)) s

/-- CMP eAX,Iv (41_arithmetic.md R376). -/
def execCmpEaxIv (imm : Word32) (s : State) : Host.Outcome State Fault Refusal :=
  runInstr (aluEv .cmp (.reg .eax) fun n => pure (imm.setWidth n)) s

/-- CMP Eb,Ib (41_arithmetic.md R376). -/
def execCmpEbIb (e : Rm Reg8) (imm : Byte) (s : State) : Host.Outcome State Fault Refusal :=
  runInstr (aluEb .cmp e (pure imm)) s

/-- CMP Ev,Iv (41_arithmetic.md R376). -/
def execCmpEvIv (e : Rm Reg) (imm : Word32) (s : State) : Host.Outcome State Fault Refusal :=
  runInstr (aluEv .cmp e fun n => pure (imm.setWidth n)) s

/-- CMP Ev,Ib (sign-extended) (41_arithmetic.md R376). -/
def execCmpEvIbs (e : Rm Reg) (imm : Byte) (s : State) : Host.Outcome State Fault Refusal :=
  runInstr (aluEv .cmp e fun n => pure (imm.signExtend n)) s

/-- DAA (41_arithmetic.md R389). -/
def execDaa (s : State) : Host.Outcome State Fault Refusal :=
  runInstr (decimalAdjust true) s

/-- DAS (41_arithmetic.md R390). -/
def execDas (s : State) : Host.Outcome State Fault Refusal :=
  runInstr (decimalAdjust false) s

/-- AAA (41_arithmetic.md R391). -/
def execAaa (s : State) : Host.Outcome State Fault Refusal :=
  runInstr (asciiAdjust true) s

/-- AAS (41_arithmetic.md R392). -/
def execAas (s : State) : Host.Outcome State Fault Refusal :=
  runInstr (asciiAdjust false) s

/-- AAM Ib (41_arithmetic.md R393). -/
def execAamIb (imm : Byte) (s : State) : Host.Outcome State Fault Refusal :=
  runInstr (aamBy imm) s

/-- AAD Ib (41_arithmetic.md R394). -/
def execAadIb (imm : Byte) (s : State) : Host.Outcome State Fault Refusal :=
  runInstr (aadBy imm) s

/-- INC r16/r32 (41_arithmetic.md R377). -/
def execIncR (r : Reg) (s : State) : Host.Outcome State Fault Refusal :=
  runInstr (bySize fun n => modifyRm n (.reg r) incValue) s

/-- DEC r16/r32 (41_arithmetic.md R378). -/
def execDecR (r : Reg) (s : State) : Host.Outcome State Fault Refusal :=
  runInstr (bySize fun n => modifyRm n (.reg r) decValue) s

/-- IMUL Gv,Ev,Iv (41_arithmetic.md R381). -/
def execImulGvEvIv (g : Reg) (e : Rm Reg) (imm : Word32) (s : State) : Host.Outcome State Fault Refusal :=
  runInstr (imulTo g e fun n => pure (imm.setWidth n)) s

/-- IMUL Gv,Ev,Ib (41_arithmetic.md R381). -/
def execImulGvEvIb (g : Reg) (e : Rm Reg) (imm : Byte) (s : State) : Host.Outcome State Fault Refusal :=
  runInstr (imulTo g e fun n => pure (imm.signExtend n)) s

/-- TEST Eb,Gb (41_arithmetic.md R388). -/
def execTestEbGb (e : Rm Reg8) (g : Reg8) (s : State) : Host.Outcome State Fault Refusal :=
  runInstr (testEb e (reads fun s => s.reg8 g)) s

/-- TEST Ev,Gv (41_arithmetic.md R388). -/
def execTestEvGv (e : Rm Reg) (g : Reg) (s : State) : Host.Outcome State Fault Refusal :=
  runInstr (testEv e fun n => reads fun s => s.regN n g) s

/-- TEST AL,Ib (41_arithmetic.md R388). -/
def execTestAlIb (imm : Byte) (s : State) : Host.Outcome State Fault Refusal :=
  runInstr (testEb (.reg .al) (pure imm)) s

/-- TEST eAX,Iv (41_arithmetic.md R388). -/
def execTestEaxIv (imm : Word32) (s : State) : Host.Outcome State Fault Refusal :=
  runInstr (testEv (.reg .eax) fun n => pure (imm.setWidth n)) s

/-- TEST Eb,Ib (41_arithmetic.md R388). -/
def execTestEbIb (e : Rm Reg8) (imm : Byte) (s : State) : Host.Outcome State Fault Refusal :=
  runInstr (testEb e (pure imm)) s

/-- TEST Ev,Iv (41_arithmetic.md R388). -/
def execTestEvIv (e : Rm Reg) (imm : Word32) (s : State) : Host.Outcome State Fault Refusal :=
  runInstr (testEv e fun n => pure (imm.setWidth n)) s

/-- NOT Eb (41_arithmetic.md R387). -/
def execNotEb (e : Rm Reg8) (s : State) : Host.Outcome State Fault Refusal :=
  runInstr (modifyRm8 e fun v => pure (~~~v)) s

/-- NOT Ev (41_arithmetic.md R387). -/
def execNotEv (e : Rm Reg) (s : State) : Host.Outcome State Fault Refusal :=
  runInstr (bySize fun n => modifyRm n e fun v => pure (~~~v)) s

/-- NEG Eb (41_arithmetic.md R379). -/
def execNegEb (e : Rm Reg8) (s : State) : Host.Outcome State Fault Refusal :=
  runInstr (modifyRm8 e negValue) s

/-- NEG Ev (41_arithmetic.md R379). -/
def execNegEv (e : Rm Reg) (s : State) : Host.Outcome State Fault Refusal :=
  runInstr (bySize fun n => modifyRm n e negValue) s

/-- MUL AL/AX from Eb (41_arithmetic.md R380). -/
def execMulEb (e : Rm Reg8) (s : State) : Host.Outcome State Fault Refusal :=
  runInstr (multiply8 false e) s

/-- MUL eDX:eAX from Ev (41_arithmetic.md R380). -/
def execMulEv (e : Rm Reg) (s : State) : Host.Outcome State Fault Refusal :=
  runInstr (multiply false e) s

/-- IMUL AL/AX from Eb (41_arithmetic.md R381). -/
def execImulEb (e : Rm Reg8) (s : State) : Host.Outcome State Fault Refusal :=
  runInstr (multiply8 true e) s

/-- IMUL eDX:eAX from Ev (41_arithmetic.md R381). -/
def execImulEv (e : Rm Reg) (s : State) : Host.Outcome State Fault Refusal :=
  runInstr (multiply true e) s

/-- DIV AL/AX from Eb (41_arithmetic.md R382). -/
def execDivEb (e : Rm Reg8) (s : State) : Host.Outcome State Fault Refusal :=
  runInstr (divide8 e) s

/-- DIV eDX:eAX from Ev (41_arithmetic.md R382). -/
def execDivEv (e : Rm Reg) (s : State) : Host.Outcome State Fault Refusal :=
  runInstr (divide e) s

/-- IDIV AL/AX from Eb (41_arithmetic.md R383). -/
def execIdivEb (e : Rm Reg8) (s : State) : Host.Outcome State Fault Refusal :=
  runInstr (divideSigned8 e) s

/-- IDIV eDX:eAX from Ev (41_arithmetic.md R383). -/
def execIdivEv (e : Rm Reg) (s : State) : Host.Outcome State Fault Refusal :=
  runInstr (divideSigned e) s

/-- INC Eb (41_arithmetic.md R377). -/
def execIncEb (e : Rm Reg8) (s : State) : Host.Outcome State Fault Refusal :=
  runInstr (modifyRm8 e incValue) s

/-- DEC Eb (41_arithmetic.md R378). -/
def execDecEb (e : Rm Reg8) (s : State) : Host.Outcome State Fault Refusal :=
  runInstr (modifyRm8 e decValue) s

/-- INC Ev (41_arithmetic.md R377). -/
def execIncEv (e : Rm Reg) (s : State) : Host.Outcome State Fault Refusal :=
  runInstr (bySize fun n => modifyRm n e incValue) s

/-- DEC Ev (41_arithmetic.md R378). -/
def execDecEv (e : Rm Reg) (s : State) : Host.Outcome State Fault Refusal :=
  runInstr (bySize fun n => modifyRm n e decValue) s

/-- IMUL Gv,Ev (41_arithmetic.md R381). -/
def execImulGvEv (g : Reg) (e : Rm Reg) (s : State) : Host.Outcome State Fault Refusal :=
  runInstr (imulTo g e fun n => reads fun s => s.regN n g) s

end Sys2Proof.Machine
end

