-- ==== Sys2Proof/Machine/BitOps.lean ====
section
/-! DEFINITION. Bit manipulation instructions: 44_bit.md. -/

namespace Sys2Proof.Machine

/-- The bit-test instructions (44_bit.md R461 to R464). -/
inductive BitOp where
  | bt | bts | btr | btc
  deriving DecidableEq, Repr

/-- The operand after a bit-test instruction on bit `i`. -/
def bitResult {n : Nat} (op : BitOp) (v : BitVec n) (i : Nat) : BitVec n :=
  let one : BitVec n := BitVec.ofNat n 1 <<< i
  match op with
  | .bt => v
  | .bts => v ||| one
  | .btr => v &&& ~~~one
  | .btc => v ^^^ one

/-- CF is the bit; the other status flags are free values (44_bit.md R461). -/
def bitFlags (b : Bool) : M Unit := do
  let u ← draw
  setFlags fun f => { f.undefined u with cf := b }

/-- Test a bit of a value and give the value to write back. -/
def bitValue {n : Nat} (op : BitOp) (i : Nat) (v : BitVec n) : M (BitVec n) := do
  bitFlags (bitAt v i)
  pure (bitResult op v i)

/-- A bit-test on a memory operand; BT only reads it (44_bit.md R461, R462). -/
def bitInMemory (op : BitOp) (n : Nat) (r : SegReg) (off : Word32) (i : Nat) : M Unit :=
  if op = .bt then do
    let v ← segRead r off (n / 8)
    let _ ← bitValue op i (BitVec.ofNat n v)
    pure ()
  else modifyAt n r off (bitValue op i)

/-- A bit-test on a register. -/
def bitInRegister (op : BitOp) (n : Nat) (r : Reg) (i : Nat) : M Unit := modifyRm n (.reg r) (bitValue op i)

/-- BT, BTS, BTR, BTC with an immediate offset (44_bit.md R460). -/
def bitByImmediate (op : BitOp) (e : Rm Reg) (imm : Byte) : M Unit := bySize fun n => do
  let s ← get
  match e with
  | .reg r => bitInRegister op n r (imm.toNat % n)
  | .mem m => bitInMemory op n (s.memSegment m) (s.ea m) (imm.toNat % n)

/-- The address of the operand of the bit string that holds a signed bit offset (44_bit.md R460), modulo 2^AS (00_scope.md
R13, 30_encoding.md R278; DEDUCED, assumption log 45). -/
def State.bitAddress (s : State) (n : Nat) (m : Mem) (offset : Int) : Word32 :=
  sized s.as32 (s.ea m + BitVec.ofInt 32 ((n / 8 : Nat) * (offset / n)))

/-- BT, BTS, BTR, BTC with a register offset (44_bit.md R460). -/
def bitByRegister (op : BitOp) (e : Rm Reg) (g : Reg) : M Unit := bySize fun n => do
  let s ← get
  let offset := (s.regN n g).toInt
  match e with
  | .reg r => bitInRegister op n r (offset % n).toNat
  | .mem m => bitInMemory op n (s.memSegment m) (s.bitAddress n m offset) (offset % n).toNat

/-- The index of the least significant 1 bit among the bits `k`, `k + 1`, … of a value, looking at `fuel` of them. -/
def lowestBit {n : Nat} (v : BitVec n) : Nat → Nat → Nat
  | 0, k => k
  | fuel + 1, k => if bitAt v k then k else lowestBit v fuel (k + 1)

/-- The index of the most significant 1 bit among the bits below `k`. -/
def highestBit {n : Nat} (v : BitVec n) : Nat → Nat
  | 0 => 0
  | k + 1 => if bitAt v k then k else highestBit v k

/-- BSF, or BSR when `reverse`: with a source of 0 the destination is a free value (44_bit.md R465, R466). -/
def bitScan (reverse : Bool) (g : Reg) (e : Rm Reg) : M Unit := bySize fun n => do
  let v ← readRm n e
  let u ← draw
  setFlags fun f => { f.undefined u with zf := v == 0 }
  if v = 0 then do
    let w ← draw
    setRegister g (w.setWidth n)
  else setRegister g (BitVec.ofNat n (if reverse then highestBit v n else lowestBit v n 0))

/-- BT Ev,Gv (44_bit.md R461). -/
def execBtEvGv (e : Rm Reg) (g : Reg) (s : State) : Host.Outcome State Fault Refusal :=
  runInstr (bitByRegister .bt e g) s

/-- BTS Ev,Gv (44_bit.md R462). -/
def execBtsEvGv (e : Rm Reg) (g : Reg) (s : State) : Host.Outcome State Fault Refusal :=
  runInstr (bitByRegister .bts e g) s

/-- BTR Ev,Gv (44_bit.md R463). -/
def execBtrEvGv (e : Rm Reg) (g : Reg) (s : State) : Host.Outcome State Fault Refusal :=
  runInstr (bitByRegister .btr e g) s

/-- BTC Ev,Gv (44_bit.md R464). -/
def execBtcEvGv (e : Rm Reg) (g : Reg) (s : State) : Host.Outcome State Fault Refusal :=
  runInstr (bitByRegister .btc e g) s

/-- BT Ev,Ib (44_bit.md R461). -/
def execBtEvIb (e : Rm Reg) (imm : Byte) (s : State) : Host.Outcome State Fault Refusal :=
  runInstr (bitByImmediate .bt e imm) s

/-- BTS Ev,Ib (44_bit.md R462). -/
def execBtsEvIb (e : Rm Reg) (imm : Byte) (s : State) : Host.Outcome State Fault Refusal :=
  runInstr (bitByImmediate .bts e imm) s

/-- BTR Ev,Ib (44_bit.md R463). -/
def execBtrEvIb (e : Rm Reg) (imm : Byte) (s : State) : Host.Outcome State Fault Refusal :=
  runInstr (bitByImmediate .btr e imm) s

/-- BTC Ev,Ib (44_bit.md R464). -/
def execBtcEvIb (e : Rm Reg) (imm : Byte) (s : State) : Host.Outcome State Fault Refusal :=
  runInstr (bitByImmediate .btc e imm) s

/-- BSF Gv,Ev (44_bit.md R465). -/
def execBsfGvEv (g : Reg) (e : Rm Reg) (s : State) : Host.Outcome State Fault Refusal :=
  runInstr (bitScan false g e) s

/-- BSR Gv,Ev (44_bit.md R466). -/
def execBsrGvEv (g : Reg) (e : Rm Reg) (s : State) : Host.Outcome State Fault Refusal :=
  runInstr (bitScan true g e) s

end Sys2Proof.Machine
end

