-- ==== Sys2Proof/Machine/Control.lean ====
section
/-! DEFINITION. Control transfer instructions: 45_control_transfer.md. -/

namespace Sys2Proof.Machine

/-- The target of a relative transfer: a 16-bit target is zero-extended (30_encoding.md R287). -/
def State.relativeTarget (s : State) (rel : Word32) : Word32 := sized s.os32 (s.cur.npc + rel)

/-- JMP near relative (45_control_transfer.md R484). -/
def jumpRelative (rel : Word32) : M Unit := do
  let s ← get
  jumpTo (s.relativeTarget rel)

/-- A conditional jump (45_control_transfer.md R497, R501). -/
def jumpIf (c : State → Bool) (rel : Word32) : M Unit := do
  let s ← get
  if c s then jumpTo (s.relativeTarget rel) else pure ()

/-- LOOP, LOOPE, LOOPNE (45_control_transfer.md R499, R500). -/
def loopIf (c : State → Bool) (rel : Byte) : M Unit := do
  update fun s => s.withIndexReg .ecx (s.indexReg .ecx - 1)
  jumpIf (fun s => s.indexReg .ecx != 0 && c s) (rel.signExtend 32)

/-- CALL near to a target, which is checked before the push (45_control_transfer.md R487, R488). -/
def callNear (n : Nat) (target : Word32) : M Unit := do
  let s ← get
  raiseIf (!s.inSegment .cs target 1) (.gp 0)
  push (n / 8) s.cur.npc.toNat
  jumpTo target

/-- CALL near relative (45_control_transfer.md R487). -/
def callRelative (rel : Word32) : M Unit := bySize fun n => do
  let s ← get
  callNear n (s.relativeTarget rel)

/-- RET near (45_control_transfer.md R490). -/
def returnNear (imm : Word16) : M Unit := bySize fun n => do
  let t ← pop (n / 8)
  jumpTo (BitVec.ofNat 32 t)
  update fun s => s.withSp (s.stackOffset (s.sp + imm.setWidth 32))

/-- The tests on a call gate and on the code segment it names (45_control_transfer.md R505). -/
def checkCallGate (gsel : Word16) (g : Desc) : M Desc := do
  let s ← get
  raiseIf (decide (g.dpl < weaker s.level (rpl gsel))) (.gp (selectorCode gsel))
  raiseIf (!g.present) (.np (selectorCode gsel))
  let csel := g.gateSelector
  raiseIf (isNull csel) (.gp 0)
  let d ← readDesc csel .gp
  raiseIf (!(d.isCode && d.dpl ≤ s.level)) (.gp (selectorCode csel))
  raiseIf (!d.present) (.np (selectorCode csel))
  pure d

/-- Read `count` parameters of `size` bytes from the old stack, the one at the pointer first. -/
def readParameters (size : Nat) : Nat → Nat → M (List Nat)
  | 0, _ => pure []
  | count + 1, at_ => do
    let v ← stackRead at_ size
    let vs ← readParameters size count (at_ + size)
    pure (v :: vs)

/-- CALL through a call gate to an inner level: the parameters are copied to its stack (45_control_transfer.md R505). A bad
inner stack selector raises TS (assumption log 42). The old stack pointer is pushed as ESP, of which a 16-bit item takes
SP (21_segmentation_protection.md R220, R221; DEDUCED, assumption log 50). -/
def callInner (isz count : Nat) (csel : Word16) (d : Desc) (off : Word32) : M Unit := do
  let s ← get
  let (nss, nesp) ← innerStack d.dpl
  let sd ← innerStackSegment nss d.dpl
  raiseIf (!(sd.cache nss).hasRoom (bitAt sd 54) nesp (4 + count) isz) (.ss 0)
  raiseIf (decide (d.limit < off)) (.gp 0)
  let ps ← readParameters isz count 0
  markAccessed nss sd
  update fun t => { t.setSeg .ss (sd.cache nss) with cpl := d.dpl }
  update fun t => t.withSp nesp
  pushAll isz ([s.segs.ss.sel.toNat, (s.reg .esp).toNat] ++ ps.reverse ++ [s.segs.cs.sel.toNat, s.cur.npc.toNat])
  enterCode csel d d.dpl off

/-- CALL through a call gate to the same level (45_control_transfer.md R505). -/
def callSame (isz : Nat) (csel : Word16) (d : Desc) (off : Word32) : M Unit := do
  let s ← get
  raiseIf (!s.segs.ss.hasRoom s.stack32 s.sp 2 isz) (.ss 0)
  raiseIf (decide (d.limit < off)) (.gp 0)
  pushAll isz [s.segs.cs.sel.toNat, s.cur.npc.toNat]
  enterCode csel d s.level off

/-- CALL through a call gate (45_control_transfer.md R505). -/
def callGate (gsel : Word16) (g : Desc) : M Unit := do
  let d ← checkCallGate gsel g
  let is386 := g.type == 0xC
  let isz := if is386 then 4 else 2
  let s ← get
  if !d.isConforming && d.dpl < s.level then callInner isz g.gateCount g.gateSelector d (g.gateOffset is386)
  else callSame isz g.gateSelector d (g.gateOffset is386)

/-- JMP through a call gate (45_control_transfer.md R506). -/
def jumpGate (gsel : Word16) (g : Desc) : M Unit := do
  let d ← checkCallGate gsel g
  let s ← get
  let csel := g.gateSelector
  let off := g.gateOffset (g.type == 0xC)
  raiseIf (!d.isConforming && d.dpl != s.level) (.gp (selectorCode csel))
  raiseIf (decide (d.limit < off)) (.gp 0)
  enterCode csel d s.level off

/-- A far transfer to a code segment; a CALL checks the room for both its pushes first (45_control_transfer.md R483). -/
def farCode (call : Bool) (sel : Word16) (d : Desc) (off : Word32) : M Unit := do
  let s ← get
  raiseIf (if d.isConforming then decide (s.level < d.dpl) else d.dpl != s.level || decide (s.level < rpl sel))
    (.gp (selectorCode sel))
  raiseIf (!d.present) (.np (selectorCode sel))
  raiseIf (decide (d.limit < off)) (.gp 0)
  let size := if s.os32 then 4 else 2
  whenever call (do
    raiseIf (!s.segs.ss.hasRoom s.stack32 s.sp 2 size) (.ss 0)
    pushAll size [s.segs.cs.sel.toNat, s.cur.npc.toNat])
  enterCode sel d s.level off

/-- `FarTarget(sel, off, kind)` in protected mode (45_control_transfer.md R483; 61_task_switching.md R685, R686). -/
def farProtected (call : Bool) (sel : Word16) (off : Word32) : M Unit := do
  raiseIf (isNull sel) (.gp 0)
  let d ← readDesc sel .gp
  let s ← get
  let cause : SwitchCause := if call then .call else .jmp
  if d.isCode then farCode call sel d off
  else if d.isSystem 4 || d.isSystem 0xC then (if call then callGate sel d else jumpGate sel d)
  else if d.isSystem 5 then do
    raiseIf (decide (d.dpl < weaker s.level (rpl sel))) (.gp (selectorCode sel))
    raiseIf (!d.present) (.np (selectorCode sel))
    taskSwitch d.gateSelector cause s.cur.npc
  else if d.isSystem 1 || d.isSystem 9 then do
    raiseIf (decide (d.dpl < weaker s.level (rpl sel))) (.gp (selectorCode sel))
    taskSwitch sel cause s.cur.npc
  else raise (.gp (selectorCode sel))

/-- JMP far and CALL far (45_control_transfer.md R482, R486, R489). -/
def farTransfer (call : Bool) (sel : Word16) (off : Word32) : M Unit := do
  let s ← get
  if s.protected then farProtected call sel off
  else do
    whenever call (pushAll (if s.os32 then 4 else 2) [s.segs.cs.sel.toNat, s.cur.npc.toNat])
    enterRealCode sel off

/-- JMP far and CALL far through memory: an offset of the operand size, then a selector, whose offset is taken modulo
2^AS (45_control_transfer.md R486, 00_scope.md R13; assumption log 45). -/
def farIndirect (call : Bool) (m : Mem) : M Unit := bySize fun n => do
  let s ← get
  let off ← segRead (s.memSegment m) (s.ea m) (n / 8)
  let sel ← segRead (s.memSegment m) (s.eaPlus m (n / 8)) 2
  farTransfer call (BitVec.ofNat 16 sel) (BitVec.ofNat 32 off)

/-- RET far (45_control_transfer.md R491). -/
def returnFar (imm : Word16) : M Unit := bySize fun n => do
  let off ← stackRead 0 (n / 8)
  let selN ← stackRead (n / 8) (n / 8)
  let sel := BitVec.ofNat 16 selN
  let s ← get
  if s.protected then
    returnProtected sel (BitVec.ofNat 32 off) (n / 8) (n / 4) (imm.setWidth 32)
  else do
    enterRealCode sel (BitVec.ofNat 32 off)
    update fun s => s.withSp (s.stackOffset (s.sp + BitVec.ofNat 32 (n / 4) + imm.setWidth 32))

/-- Jcc rel8 (45_control_transfer.md R497). -/
def execJccRel8 (cc : Cond) (rel : Byte) (s : State) : Host.Outcome State Fault Refusal :=
  runInstr (jumpIf (fun s => s.flags.holds cc) (rel.signExtend 32)) s

/-- CALL far ptr16:16 / ptr16:32 (45_control_transfer.md R489). -/
def execCallFar (off : Word32) (sel : Word16) (s : State) : Host.Outcome State Fault Refusal :=
  runInstr (farTransfer true sel off) s

/-- RET near Iw (45_control_transfer.md R490). -/
def execRetNearIw (imm : Word16) (s : State) : Host.Outcome State Fault Refusal :=
  runInstr (returnNear imm) s

/-- RET near (45_control_transfer.md R490). -/
def execRetNear (s : State) : Host.Outcome State Fault Refusal :=
  runInstr (returnNear 0) s

/-- RET far Iw (45_control_transfer.md R491). -/
def execRetFarIw (imm : Word16) (s : State) : Host.Outcome State Fault Refusal :=
  runInstr (returnFar imm) s

/-- RET far (45_control_transfer.md R491). -/
def execRetFar (s : State) : Host.Outcome State Fault Refusal :=
  runInstr (returnFar 0) s

/-- INT 3 (45_control_transfer.md R494). -/
def execInt3 (s : State) : Host.Outcome State Fault Refusal :=
  runInstr (softwareInterrupt 3) s

/-- INT Ib (45_control_transfer.md R493). -/
def execIntIb (imm : Byte) (s : State) : Host.Outcome State Fault Refusal :=
  runInstr (do
      let s ← get
      raiseIf (s.v86 && s.flags.iopl != 3) (.gp 0)
      softwareInterrupt imm) s

/-- INTO (45_control_transfer.md R495). -/
def execInto (s : State) : Host.Outcome State Fault Refusal :=
  runInstr (do
      let s ← get
      if s.flags.ovf then softwareInterrupt 4 else pure ()) s

/-- IRET/IRETD (45_control_transfer.md R496). -/
def execIret (s : State) : Host.Outcome State Fault Refusal :=
  runInstr interruptReturn s

/-- LOOPNE/LOOPNZ rel8 (45_control_transfer.md R500). -/
def execLoopneRel8 (rel : Byte) (s : State) : Host.Outcome State Fault Refusal :=
  runInstr (loopIf (fun s => !s.flags.zf) rel) s

/-- LOOPE/LOOPZ rel8 (45_control_transfer.md R500). -/
def execLoopeRel8 (rel : Byte) (s : State) : Host.Outcome State Fault Refusal :=
  runInstr (loopIf (fun s => s.flags.zf) rel) s

/-- LOOP rel8 (45_control_transfer.md R499). -/
def execLoopRel8 (rel : Byte) (s : State) : Host.Outcome State Fault Refusal :=
  runInstr (loopIf (fun _ => true) rel) s

/-- JCXZ/JECXZ rel8 (45_control_transfer.md R501). -/
def execJcxzRel8 (rel : Byte) (s : State) : Host.Outcome State Fault Refusal :=
  runInstr (jumpIf (fun s => s.indexReg .ecx == 0) (rel.signExtend 32)) s

/-- CALL rel16/rel32 (45_control_transfer.md R487). -/
def execCallRel (rel : Word32) (s : State) : Host.Outcome State Fault Refusal :=
  runInstr (callRelative rel) s

/-- JMP rel16/rel32 (45_control_transfer.md R484). -/
def execJmpRel (rel : Word32) (s : State) : Host.Outcome State Fault Refusal :=
  runInstr (jumpRelative rel) s

/-- JMP far ptr16:16 / ptr16:32 (45_control_transfer.md R486). -/
def execJmpFar (off : Word32) (sel : Word16) (s : State) : Host.Outcome State Fault Refusal :=
  runInstr (farTransfer false sel off) s

/-- JMP rel8 (45_control_transfer.md R484). -/
def execJmpRel8 (rel : Byte) (s : State) : Host.Outcome State Fault Refusal :=
  runInstr (jumpRelative (rel.signExtend 32)) s

/-- CALL near Ev (45_control_transfer.md R488). -/
def execCallNearEv (e : Rm Reg) (s : State) : Host.Outcome State Fault Refusal :=
  runInstr (bySize fun n => do
      let t ← readRm n e
      callNear n (t.setWidth 32)) s

/-- CALL far Mp (45_control_transfer.md R489). -/
def execCallFarMp (m : Mem) (s : State) : Host.Outcome State Fault Refusal :=
  runInstr (farIndirect true m) s

/-- JMP near Ev (45_control_transfer.md R485). -/
def execJmpNearEv (e : Rm Reg) (s : State) : Host.Outcome State Fault Refusal :=
  runInstr (bySize fun n => do
      let t ← readRm n e
      jumpTo (t.setWidth 32)) s

/-- JMP far Mp (45_control_transfer.md R486). -/
def execJmpFarMp (m : Mem) (s : State) : Host.Outcome State Fault Refusal :=
  runInstr (farIndirect false m) s

/-- Jcc rel16/rel32 (45_control_transfer.md R497). -/
def execJccRel (cc : Cond) (rel : Word32) (s : State) : Host.Outcome State Fault Refusal :=
  runInstr (jumpIf (fun s => s.flags.holds cc) rel) s

/-- SETcc Eb (45_control_transfer.md R498). -/
def execSetccEb (cc : Cond) (_x : BitVec 3) (e : Rm Reg8) (s : State) : Host.Outcome State Fault Refusal :=
  runInstr (do
      let s ← get
      writeRm8 e (if s.flags.holds cc then 1 else 0)) s

end Sys2Proof.Machine
end

