-- ==== Sys2Proof/Machine/DataTransfer.lean ====
section
/-! DEFINITION. Data transfer instructions: 40_data_transfer.md. -/

namespace Sys2Proof.Machine

/-- Read `n` bits at a direct offset (40_data_transfer.md R325). -/
def readDirect (n : Nat) (off : Word32) : M (BitVec n) := do
  let s ← get
  let v ← segRead s.dataSegment off (n / 8)
  pure (BitVec.ofNat n v)

/-- Write at a direct offset (40_data_transfer.md R325). -/
def writeDirect {n : Nat} (off : Word32) (v : BitVec n) : M Unit := do
  let s ← get
  segWrite s.dataSegment off (n / 8) v.toNat

/-- A selector as an item of the operand size: its upper half is a free value when that is 32 bits
(40_data_transfer.md R326, R332; assumption log 29). -/
def selectorItem (sel : Word16) : M Word32 := do
  let s ← get
  if s.os32 then do
    let u ← draw
    pure (insertLow u sel)
  else pure (sel.setWidth 32)

/-- MOV from a segment register (40_data_transfer.md R326). -/
def storeSegment (e : Rm Reg) (sr : SegReg) : M Unit := do
  let s ← get
  match e with
  | .reg r => do
    let v ← selectorItem (s.seg sr).sel
    if s.os32 then update fun s => s.setReg r v else setRegister r (s.seg sr).sel
  | .mem m => writeMem m (s.seg sr).sel

/-- XCHG of an 8-bit view with the other operand (40_data_transfer.md R330). -/
def exchange8 (g : Reg8) (v : Byte) : M Byte := do
  let w ← reads fun s => s.reg8 g
  setRegister8 g v
  pure w

/-- XCHG of a register with the other operand (40_data_transfer.md R330). -/
def exchange {n : Nat} (g : Reg) (v : BitVec n) : M (BitVec n) := do
  let w ← reads fun s => s.regN n g
  setRegister g v
  pure w

/-- PUSH of a segment register (40_data_transfer.md R332). -/
def pushSegment (r : SegReg) : M Unit := do
  let s ← get
  let v ← selectorItem (s.seg r).sel
  push (if s.os32 then 4 else 2) v.toNat

/-- POP to a segment register: the pointer moves only when the load succeeded (40_data_transfer.md R334). -/
def popSegment (r : SegReg) : M Unit := bySize fun n => do
  let v ← stackRead 0 (n / 8)
  loadSegment r (BitVec.ofNat 16 v)
  update fun s => s.withSp (s.stackOffset (s.sp + BitVec.ofNat 32 (n / 8)))

/-- The stack pointers with which a real-mode PUSHA or PUSHAD of `n`-bit items shuts the processor down: the five of
40_data_transfer.md R335 and, for PUSHAD, those from which a double word would straddle the end of the segment, as
60_exceptions.md R672 says (DEDUCED, assumption log 17). A word of PUSHA straddles it also from 1, 3 and 5, for which R335
gives vector 13: its delivery has no room and shuts the processor down (R641, R672). -/
def pushaShutsDown (n sp : Nat) : Bool := [7, 9, 11, 13, 15].contains sp || (n == 32 && decide (sp < 32) && sp % 4 != 0)

/-- The physical addresses of items of `n` bytes at the listed distances from the stack pointer, checked and translated. -/
def stackPlaces (n : Nat) (write : Bool) : List Word32 → M (List (List Nat))
  | [] => pure []
  | k :: ks => do
    let s ← get
    let ps ← dataAddresses .ss (s.stackOffset (s.sp + k)) n write
    let pss ← stackPlaces n write ks
    pure (ps :: pss)

/-- Write items of `n` bytes, each at its addresses. -/
def writeItems (n : Nat) : List (List Nat) → List Nat → M Unit
  | ps :: pss, v :: vs => do
    writeBytes ps (toBytes n v)
    writeItems n pss vs
  | [], _ => pure ()
  | _ :: _, [] => pure ()

/-- PUSHA, PUSHAD (40_data_transfer.md R335): all eight locations are checked before any is written. In real mode some stack
pointers shut the processor down (`pushaShutsDown`), and any other one from which the eight items would wrap, 0 among them,
raises vector 13. The image of the stack pointer that PUSHAD stores on a 16-bit stack is SP with an upper half of zeros, which
R335 does not say: DESIGN CHOICE, assumption log 53. -/
def pushAllRegisters : M Unit := bySize fun n => do
  let s ← get
  let sp := s.sp.toNat
  raiseIf (!s.cr0.pe && pushaShutsDown n sp) .shutdown
  raiseIf (!s.cr0.pe && decide (sp < n)) (.gp 0)
  let v (r : Reg) : Nat := (s.regN n r).toNat
  let places ← stackPlaces (n / 8) true ([1, 2, 3, 4, 5, 6, 7, 8].map fun k => -BitVec.ofNat 32 (k * (n / 8)))
  writeItems (n / 8) places [v .eax, v .ecx, v .edx, v .ebx, sp, v .ebp, v .esi, v .edi]
  update fun s => s.withSp (s.stackOffset (s.sp - BitVec.ofNat 32 (8 * (n / 8))))

/-- Load an item into a register; an item without one is discarded. -/
def keepItem {n : Nat} : Option Reg → BitVec n → M Unit
  | some r, v => setRegister r v
  | none, _ => pure ()

/-- Read items of `n` bits, each at its addresses, into the listed registers. -/
def loadItems (n : Nat) : List (List Nat) → List (Option Reg) → M Unit
  | ps :: pss, r :: rs => do
    let bs ← readBytes ps
    keepItem r (BitVec.ofNat n (ofBytes bs))
    loadItems n pss rs
  | [], _ => pure ()
  | _ :: _, [] => pure ()

/-- POPA, POPAD (40_data_transfer.md R336): all eight locations are checked before any is read. -/
def popAllRegisters : M Unit := bySize fun n => do
  let places ← stackPlaces (n / 8) false ([0, 1, 2, 3, 4, 5, 6, 7].map fun k => BitVec.ofNat 32 (k * (n / 8)))
  loadItems n places [some .edi, some .esi, some .ebp, none, some .ebx, some .edx, some .ecx, some .eax]
  update fun s => s.withSp (s.stackOffset (s.sp + BitVec.ofNat 32 (8 * (n / 8))))

/-- The IOPL test of PUSHF, POPF, IRET and INT n in V86 mode (62_virtual_8086.md R710). -/
def v86Sensitive : M Unit := do
  let s ← get
  raiseIf (s.v86 && s.flags.iopl != 3) (.gp 0)

/-- PUSHF, PUSHFD: VM and RF are 0 in the image (40_data_transfer.md R337). -/
def pushFlags : M Unit := do
  v86Sensitive
  let s ← get
  let f := { s.flags with vm := false, rf := false }
  if s.os32 then do
    let u ← draw
    push 4 (f.image (u.extractLsb' 18 14)).toNat
  else push 2 ((f.image 0).setWidth 16).toNat

/-- POPF, POPFD (40_data_transfer.md R338). -/
def popFlags : M Unit := do
  v86Sensitive
  let s ← get
  let v ← pop (if s.os32 then 4 else 2)
  setFlags fun f => f.load s.level s.os32 (BitVec.ofNat 32 v)
  update fun s => { s with cur := { s.cur with keepRf := true } }

/-- LDS, LES, LFS, LGS, LSS (40_data_transfer.md R341). The selector's offset `EA + OS/8` is taken modulo 2^AS
(00_scope.md R13, 30_encoding.md R278; assumption log 45). -/
def loadPointer (sr : SegReg) (g : Reg) (m : Mem) : M Unit := bySize fun n => do
  let s ← get
  let off ← segRead (s.memSegment m) (s.ea m) (n / 8)
  let sel ← segRead (s.memSegment m) (s.eaPlus m (n / 8)) 2
  loadSegment sr (BitVec.ofNat 16 sel)
  setRegister g (BitVec.ofNat n off)

/-- XLAT (40_data_transfer.md R342). -/
def translateByte : M Unit := do
  let s ← get
  let v ← segRead s.dataSegment (sized s.as32 (s.reg .ebx + (s.reg8 .al).setWidth 32)) 1
  setRegister8 .al (BitVec.ofNat 8 v)

/-- `IoRead(port, n)` (20_memory.md R118; assumption log 7). -/
def ioRead (port : Word16) (n : Nat) : M Nat := fun s =>
  .ok ((Config.portInput s.ioTrace port n).toNat % 256 ^ n) { s with ioTrace := .portRead port n :: s.ioTrace }

/-- `IoWrite(port, n, v)` (20_memory.md R118; assumption log 7). -/
def ioWrite (port : Word16) (n : Nat) (v : Word32) : M Unit :=
  update fun s => { s with ioTrace := .portWrite port n v :: s.ioTrace }

/-- IN to AL (40_data_transfer.md R340). -/
def inputByte (port : Word16) : M Unit := do
  ioSensitive
  let v ← ioRead port 1
  setRegister8 .al (BitVec.ofNat 8 v)

/-- IN to AX or EAX (40_data_transfer.md R340). -/
def inputWord (port : Word16) : M Unit := bySize fun n => do
  ioSensitive
  let v ← ioRead port (n / 8)
  setRegister .eax (BitVec.ofNat n v)

/-- OUT from AL (40_data_transfer.md R340). -/
def outputByte (port : Word16) : M Unit := do
  ioSensitive
  let s ← get
  ioWrite port 1 ((s.reg8 .al).setWidth 32)

/-- OUT from AX or EAX (40_data_transfer.md R340). -/
def outputWord (port : Word16) : M Unit := bySize fun n => do
  ioSensitive
  let s ← get
  ioWrite port (n / 8) ((s.regN n .eax).setWidth 32)

/-- SAHF (40_data_transfer.md R344). -/
def setFlagsFromAh : M Unit := do
  let s ← get
  let ah := s.reg8 .ah
  setFlags fun f =>
    { f with sf := bitAt ah 7, zf := bitAt ah 6, af := bitAt ah 4, pf := bitAt ah 2, cf := bitAt ah 0 }

/-- CBW, CWDE (40_data_transfer.md R345). -/
def extendAccumulator : M Unit := do
  let s ← get
  if s.os32 then setRegister .eax ((s.regN 16 .eax).signExtend 32) else setRegister .eax ((s.regN 8 .eax).signExtend 16)

/-- CWD, CDQ (40_data_transfer.md R346). -/
def spreadSign : M Unit := bySize fun n => do
  let s ← get
  setRegister .edx (if (s.regN n .eax).msb then BitVec.allOnes n else 0)

/-- PUSH ES (40_data_transfer.md R332). -/
def execPushEs (s : State) : Host.Outcome State Fault Refusal :=
  runInstr (pushSegment .es) s

/-- PUSH CS (40_data_transfer.md R332). -/
def execPushCs (s : State) : Host.Outcome State Fault Refusal :=
  runInstr (pushSegment .cs) s

/-- PUSH SS (40_data_transfer.md R332). -/
def execPushSs (s : State) : Host.Outcome State Fault Refusal :=
  runInstr (pushSegment .ss) s

/-- PUSH DS (40_data_transfer.md R332). -/
def execPushDs (s : State) : Host.Outcome State Fault Refusal :=
  runInstr (pushSegment .ds) s

/-- POP ES (40_data_transfer.md R334). -/
def execPopEs (s : State) : Host.Outcome State Fault Refusal :=
  runInstr (popSegment .es) s

/-- POP SS (40_data_transfer.md R334). -/
def execPopSs (s : State) : Host.Outcome State Fault Refusal :=
  runInstr (popSegment .ss) s

/-- POP DS (40_data_transfer.md R334). -/
def execPopDs (s : State) : Host.Outcome State Fault Refusal :=
  runInstr (popSegment .ds) s

/-- PUSH FS (40_data_transfer.md R332). -/
def execPushFs (s : State) : Host.Outcome State Fault Refusal :=
  runInstr (pushSegment .fs) s

/-- POP FS (40_data_transfer.md R334). -/
def execPopFs (s : State) : Host.Outcome State Fault Refusal :=
  runInstr (popSegment .fs) s

/-- PUSH GS (40_data_transfer.md R332). -/
def execPushGs (s : State) : Host.Outcome State Fault Refusal :=
  runInstr (pushSegment .gs) s

/-- POP GS (40_data_transfer.md R334). -/
def execPopGs (s : State) : Host.Outcome State Fault Refusal :=
  runInstr (popSegment .gs) s

/-- PUSH r16/r32 (40_data_transfer.md R331). -/
def execPushR (r : Reg) (s : State) : Host.Outcome State Fault Refusal :=
  runInstr (bySize fun n => do
      let s ← get
      push (n / 8) (s.regN n r).toNat) s

/-- POP r16/r32 (40_data_transfer.md R333). -/
def execPopR (r : Reg) (s : State) : Host.Outcome State Fault Refusal :=
  runInstr (bySize fun n => do
      let v ← pop (n / 8)
      setRegister r (BitVec.ofNat n v)) s

/-- PUSHA/PUSHAD (40_data_transfer.md R335). -/
def execPusha (s : State) : Host.Outcome State Fault Refusal :=
  runInstr pushAllRegisters s

/-- POPA/POPAD (40_data_transfer.md R336). -/
def execPopa (s : State) : Host.Outcome State Fault Refusal :=
  runInstr popAllRegisters s

/-- PUSH Iv (40_data_transfer.md R331). -/
def execPushIv (imm : Word32) (s : State) : Host.Outcome State Fault Refusal :=
  runInstr (bySize fun n => push (n / 8) (imm.setWidth n).toNat) s

/-- PUSH Ib (sign-extended) (40_data_transfer.md R331). -/
def execPushIbs (imm : Byte) (s : State) : Host.Outcome State Fault Refusal :=
  runInstr (bySize fun n => push (n / 8) (imm.signExtend n).toNat) s

/-- XCHG Eb,Gb (40_data_transfer.md R330). -/
def execXchgEbGb (e : Rm Reg8) (g : Reg8) (s : State) : Host.Outcome State Fault Refusal :=
  runInstr (modifyRm8 e (exchange8 g)) s

/-- XCHG Ev,Gv (40_data_transfer.md R330). -/
def execXchgEvGv (e : Rm Reg) (g : Reg) (s : State) : Host.Outcome State Fault Refusal :=
  runInstr (bySize fun n => modifyRm n e (exchange g)) s

/-- MOV Eb,Gb (40_data_transfer.md R323). -/
def execMovEbGb (e : Rm Reg8) (g : Reg8) (s : State) : Host.Outcome State Fault Refusal :=
  runInstr (do
      let s ← get
      writeRm8 e (s.reg8 g)) s

/-- MOV Ev,Gv (40_data_transfer.md R323). -/
def execMovEvGv (e : Rm Reg) (g : Reg) (s : State) : Host.Outcome State Fault Refusal :=
  runInstr (bySize fun n => do
      let s ← get
      writeRm e (s.regN n g)) s

/-- MOV Gb,Eb (40_data_transfer.md R323). -/
def execMovGbEb (g : Reg8) (e : Rm Reg8) (s : State) : Host.Outcome State Fault Refusal :=
  runInstr (do
      let v ← readRm8 e
      setRegister8 g v) s

/-- MOV Gv,Ev (40_data_transfer.md R323). -/
def execMovGvEv (g : Reg) (e : Rm Reg) (s : State) : Host.Outcome State Fault Refusal :=
  runInstr (bySize fun n => do
      let v ← readRm n e
      setRegister g v) s

/-- MOV Ew,Sreg (40_data_transfer.md R326). -/
def execMovEwSreg (e : Rm Reg) (sr : SegReg) (s : State) : Host.Outcome State Fault Refusal :=
  runInstr (storeSegment e sr) s

/-- LEA Gv,M (40_data_transfer.md R339). -/
def execLeaGvM (g : Reg) (m : Mem) (s : State) : Host.Outcome State Fault Refusal :=
  runInstr (bySize fun n => do
      let s ← get
      setRegister g ((s.ea m).setWidth n)) s

/-- MOV Sreg,Ew (40_data_transfer.md R327). -/
def execMovSregEw (sr : SegReg) (e : Rm Reg) (s : State) : Host.Outcome State Fault Refusal :=
  runInstr (do
      let v ← readRm 16 e
      loadSegment sr v) s

/-- POP Ev (40_data_transfer.md R333). -/
def execPopEv (e : Rm Reg) (s : State) : Host.Outcome State Fault Refusal :=
  runInstr (bySize fun n => do
      let v ← pop (n / 8)
      writeRm e (BitVec.ofNat n v)) s

/-- XCHG eAX,r16/r32 (40_data_transfer.md R330). -/
def execXchgEaxR (r : Reg) (s : State) : Host.Outcome State Fault Refusal :=
  runInstr (bySize fun n => modifyRm n (.reg .eax) (exchange r)) s

/-- CBW/CWDE (40_data_transfer.md R345). -/
def execCbw (s : State) : Host.Outcome State Fault Refusal :=
  runInstr extendAccumulator s

/-- CWD/CDQ (40_data_transfer.md R346). -/
def execCwd (s : State) : Host.Outcome State Fault Refusal :=
  runInstr spreadSign s

/-- PUSHF/PUSHFD (40_data_transfer.md R337). -/
def execPushf (s : State) : Host.Outcome State Fault Refusal :=
  runInstr pushFlags s

/-- POPF/POPFD (40_data_transfer.md R338). -/
def execPopf (s : State) : Host.Outcome State Fault Refusal :=
  runInstr popFlags s

/-- SAHF (40_data_transfer.md R344). -/
def execSahf (s : State) : Host.Outcome State Fault Refusal :=
  runInstr setFlagsFromAh s

/-- LAHF (40_data_transfer.md R343). -/
def execLahf (s : State) : Host.Outcome State Fault Refusal :=
  runInstr (update fun s => s.setReg8 .ah ((s.flags.image 0).setWidth 8)) s

/-- MOV AL,Ob (40_data_transfer.md R325). -/
def execMovAlOb (off : Word32) (s : State) : Host.Outcome State Fault Refusal :=
  runInstr (do
      let v ← readDirect 8 off
      setRegister8 .al v) s

/-- MOV eAX,Ov (40_data_transfer.md R325). -/
def execMovEaxOv (off : Word32) (s : State) : Host.Outcome State Fault Refusal :=
  runInstr (bySize fun n => do
      let v ← readDirect n off
      setRegister .eax v) s

/-- MOV Ob,AL (40_data_transfer.md R325). -/
def execMovObAl (off : Word32) (s : State) : Host.Outcome State Fault Refusal :=
  runInstr (do
      let s ← get
      writeDirect off (s.reg8 .al)) s

/-- MOV Ov,eAX (40_data_transfer.md R325). -/
def execMovOvEax (off : Word32) (s : State) : Host.Outcome State Fault Refusal :=
  runInstr (bySize fun n => do
      let s ← get
      writeDirect off (s.regN n .eax)) s

/-- MOV r8,Ib (40_data_transfer.md R324). -/
def execMovR8Ib (r : Reg8) (imm : Byte) (s : State) : Host.Outcome State Fault Refusal :=
  runInstr (setRegister8 r imm) s

/-- MOV r16/r32,Iv (40_data_transfer.md R324). -/
def execMovRIv (r : Reg) (imm : Word32) (s : State) : Host.Outcome State Fault Refusal :=
  runInstr (bySize fun n => setRegister r (imm.setWidth n)) s

/-- LES Gv,Mp (40_data_transfer.md R341). -/
def execLesGvMp (g : Reg) (m : Mem) (s : State) : Host.Outcome State Fault Refusal :=
  runInstr (loadPointer .es g m) s

/-- LDS Gv,Mp (40_data_transfer.md R341). -/
def execLdsGvMp (g : Reg) (m : Mem) (s : State) : Host.Outcome State Fault Refusal :=
  runInstr (loadPointer .ds g m) s

/-- MOV Eb,Ib (40_data_transfer.md R324). -/
def execMovEbIb (e : Rm Reg8) (imm : Byte) (s : State) : Host.Outcome State Fault Refusal :=
  runInstr (writeRm8 e imm) s

/-- MOV Ev,Iv (40_data_transfer.md R324). -/
def execMovEvIv (e : Rm Reg) (imm : Word32) (s : State) : Host.Outcome State Fault Refusal :=
  runInstr (bySize fun n => writeRm e (imm.setWidth n)) s

/-- XLAT (40_data_transfer.md R342). -/
def execXlat (s : State) : Host.Outcome State Fault Refusal :=
  runInstr translateByte s

/-- IN AL,Ib (40_data_transfer.md R340). -/
def execInAlIb (imm : Byte) (s : State) : Host.Outcome State Fault Refusal :=
  runInstr (inputByte (imm.setWidth 16)) s

/-- IN eAX,Ib (40_data_transfer.md R340). -/
def execInEaxIb (imm : Byte) (s : State) : Host.Outcome State Fault Refusal :=
  runInstr (inputWord (imm.setWidth 16)) s

/-- OUT Ib,AL (40_data_transfer.md R340). -/
def execOutIbAl (imm : Byte) (s : State) : Host.Outcome State Fault Refusal :=
  runInstr (outputByte (imm.setWidth 16)) s

/-- OUT Ib,eAX (40_data_transfer.md R340). -/
def execOutIbEax (imm : Byte) (s : State) : Host.Outcome State Fault Refusal :=
  runInstr (outputWord (imm.setWidth 16)) s

/-- IN AL,DX (40_data_transfer.md R340). -/
def execInAlDx (s : State) : Host.Outcome State Fault Refusal :=
  runInstr (do
      let s ← get
      inputByte (s.regN 16 .edx)) s

/-- IN eAX,DX (40_data_transfer.md R340). -/
def execInEaxDx (s : State) : Host.Outcome State Fault Refusal :=
  runInstr (do
      let s ← get
      inputWord (s.regN 16 .edx)) s

/-- OUT DX,AL (40_data_transfer.md R340). -/
def execOutDxAl (s : State) : Host.Outcome State Fault Refusal :=
  runInstr (do
      let s ← get
      outputByte (s.regN 16 .edx)) s

/-- OUT DX,eAX (40_data_transfer.md R340). -/
def execOutDxEax (s : State) : Host.Outcome State Fault Refusal :=
  runInstr (do
      let s ← get
      outputWord (s.regN 16 .edx)) s

/-- PUSH Ev (40_data_transfer.md R331). -/
def execPushEv (e : Rm Reg) (s : State) : Host.Outcome State Fault Refusal :=
  runInstr (bySize fun n => do
      let v ← readRm n e
      push (n / 8) v.toNat) s

/-- LSS Gv,Mp (40_data_transfer.md R341). -/
def execLssGvMp (g : Reg) (m : Mem) (s : State) : Host.Outcome State Fault Refusal :=
  runInstr (loadPointer .ss g m) s

/-- LFS Gv,Mp (40_data_transfer.md R341). -/
def execLfsGvMp (g : Reg) (m : Mem) (s : State) : Host.Outcome State Fault Refusal :=
  runInstr (loadPointer .fs g m) s

/-- LGS Gv,Mp (40_data_transfer.md R341). -/
def execLgsGvMp (g : Reg) (m : Mem) (s : State) : Host.Outcome State Fault Refusal :=
  runInstr (loadPointer .gs g m) s

/-- MOVZX Gv,Eb (40_data_transfer.md R328). -/
def execMovzxGvEb (g : Reg) (e : Rm Reg8) (s : State) : Host.Outcome State Fault Refusal :=
  runInstr (do
      let v ← readRm8 e
      bySize fun n => setRegister g (v.setWidth n)) s

/-- MOVZX Gv,Ew (40_data_transfer.md R328). -/
def execMovzxGvEw (g : Reg) (e : Rm Reg) (s : State) : Host.Outcome State Fault Refusal :=
  runInstr (do
      let v ← readRm 16 e
      bySize fun n => setRegister g (v.setWidth n)) s

/-- MOVSX Gv,Eb (40_data_transfer.md R329). -/
def execMovsxGvEb (g : Reg) (e : Rm Reg8) (s : State) : Host.Outcome State Fault Refusal :=
  runInstr (do
      let v ← readRm8 e
      bySize fun n => setRegister g (v.signExtend n)) s

/-- MOVSX Gv,Ew (40_data_transfer.md R329). -/
def execMovsxGvEw (g : Reg) (e : Rm Reg) (s : State) : Host.Outcome State Fault Refusal :=
  runInstr (do
      let v ← readRm 16 e
      bySize fun n => setRegister g (v.signExtend n)) s

end Sys2Proof.Machine
end

