-- ==== Sys2Proof/Machine/HighLevel.lean ====
section
/-! DEFINITION. High-level-language support instructions: 46_hll_support.md. -/

namespace Sys2Proof.Machine

/-- Push the `count` frame pointers that BP or EBP leads to (46_hll_support.md R530). -/
def copyFrames (n : Nat) : Nat → M Unit
  | 0 => pure ()
  | count + 1 => do
    update fun s => s.setRegN .ebp (s.regN n .ebp - BitVec.ofNat n (n / 8))
    let s ← get
    let v ← segRead .ss ((s.regN n .ebp).setWidth 32) (n / 8)
    push (n / 8) v
    copyFrames n count

/-- The display that ENTER pushes at nesting level `depth`: the outer frame pointers, then the new one
(46_hll_support.md R530). -/
def pushDisplay (n depth : Nat) (frame : Word32) : M Unit :=
  if depth = 0 then pure ()
  else do
    copyFrames n (depth - 1)
    push (n / 8) frame.toNat

/-- ENTER: all its pushes are checked before the first is made (46_hll_support.md R530, 93_implementation_defined.md
U14). The frame pointer of a 16-bit stack is SP with an upper half of zeros (DEDUCED, assumption log 53). -/
def enterFrame (size : Word16) (level : Byte) : M Unit := bySize fun n => do
  let s ← get
  probePushes (n / 8) (level.toNat % 32 + 1) s.sp
  push (n / 8) (s.regN n .ebp).toNat
  let frame ← reads State.sp
  pushDisplay n (level.toNat % 32) frame
  setRegister .ebp (frame.setWidth n)
  update fun s => s.withSp (s.stackOffset (s.sp - size.setWidth 32))

/-- LEAVE (46_hll_support.md R531). -/
def leaveFrame : M Unit := bySize fun n => do
  update fun s => s.withSp (s.stackOffset (s.reg .ebp))
  let v ← pop (n / 8)
  setRegister .ebp (BitVec.ofNat n v)

/-- BOUND (46_hll_support.md R532). The upper bound's offset `EA + OS/8` is taken modulo 2^AS
(00_scope.md R13, 30_encoding.md R278; assumption log 45). -/
def checkBound (g : Reg) (m : Mem) : M Unit := bySize fun n => do
  let s ← get
  let lo ← segRead (s.memSegment m) (s.ea m) (n / 8)
  let hi ← segRead (s.memSegment m) (s.eaPlus m (n / 8)) (n / 8)
  let v := (s.regN n g).toInt
  raiseIf (decide (v < (BitVec.ofNat n lo).toInt) || decide ((BitVec.ofNat n hi).toInt < v)) .br

/-- BOUND Gv,Ma (46_hll_support.md R532). -/
def execBoundGvMa (g : Reg) (m : Mem) (s : State) : Host.Outcome State Fault Refusal :=
  runInstr (checkBound g m) s

/-- ENTER Iw,Ib (46_hll_support.md R530). -/
def execEnterIwIb (size : Word16) (level : Byte) (s : State) : Host.Outcome State Fault Refusal :=
  runInstr (enterFrame size level) s

/-- LEAVE (46_hll_support.md R531). -/
def execLeave (s : State) : Host.Outcome State Fault Refusal :=
  runInstr leaveFrame s

end Sys2Proof.Machine
end

