-- ==== Sys2Proof/Machine/Processor.lean ====
section
/-! DEFINITION. Processor control instructions and prefixes: 48_processor_control.md, 30_encoding.md R265, 43_string.md R441. -/

namespace Sys2Proof.Machine

/-- Note a prefix for the instruction that follows (30_encoding.md R265). -/
def notePrefix (f : Latch → Latch) : M Unit := update fun s => { s with cur := f s.cur }

/-- ESC with no coprocessor: NM, or the check of its memory operand and nothing else (48_processor_control.md R590;
92_eei_decisions.md D16). The check raises what a read of one byte would, PF included (40_data_transfer.md R320), and
accesses nothing: the size and the kind are DESIGN CHOICE, assumption log 9. NM is tested at the opcode already
(`escapeTest`). -/
def escape (_hi _op : BitVec 3) (e : Rm Reg) : M Unit := do
  let s ← get
  raiseIf (s.cr0.em || s.cr0.ts) .nm
  match e with
  | .reg _ => pure ()
  | .mem m => segProbe (s.memSegment m) (s.ea m) 1 false

/-- WAIT with no coprocessor (48_processor_control.md R591). -/
def waitCoprocessor : M Unit := do
  let s ← get
  raiseIf (s.cr0.mp && s.cr0.ts) .nm

/-- ES: prefix: segment override ES: (30_encoding.md R265). -/
def execSegEs (s : State) : Host.Outcome State Fault Refusal :=
  runPrefix (notePrefix fun c => { c with seg := some .es }) s

/-- CS: prefix: segment override CS: (30_encoding.md R265). -/
def execSegCs (s : State) : Host.Outcome State Fault Refusal :=
  runPrefix (notePrefix fun c => { c with seg := some .cs }) s

/-- SS: prefix: segment override SS: (30_encoding.md R265). -/
def execSegSs (s : State) : Host.Outcome State Fault Refusal :=
  runPrefix (notePrefix fun c => { c with seg := some .ss }) s

/-- DS: prefix: segment override DS: (30_encoding.md R265). -/
def execSegDs (s : State) : Host.Outcome State Fault Refusal :=
  runPrefix (notePrefix fun c => { c with seg := some .ds }) s

/-- FS: prefix: segment override FS: (30_encoding.md R265). -/
def execSegFs (s : State) : Host.Outcome State Fault Refusal :=
  runPrefix (notePrefix fun c => { c with seg := some .fs }) s

/-- GS: prefix: segment override GS: (30_encoding.md R265). -/
def execSegGs (s : State) : Host.Outcome State Fault Refusal :=
  runPrefix (notePrefix fun c => { c with seg := some .gs }) s

/-- OPSIZE prefix: operand size (30_encoding.md R270). -/
def execOpSize (s : State) : Host.Outcome State Fault Refusal :=
  runPrefix (notePrefix fun c => { c with opSize := true }) s

/-- ADSIZE prefix: address size (30_encoding.md R271). -/
def execAdSize (s : State) : Host.Outcome State Fault Refusal :=
  runPrefix (notePrefix fun c => { c with adSize := true }) s

/-- LOCK prefix (48_processor_control.md R589). -/
def execLock (s : State) : Host.Outcome State Fault Refusal :=
  runPrefix (do
      ioSensitive
      notePrefix fun c => { c with lock := true }) s

/-- REPNE prefix (REPNE/REPNZ) (43_string.md R441). -/
def execRepne (s : State) : Host.Outcome State Fault Refusal :=
  runPrefix (notePrefix fun c => { c with rep := some .repne }) s

/-- REP prefix (REP/REPE/REPZ) (43_string.md R441). -/
def execRep (s : State) : Host.Outcome State Fault Refusal :=
  runPrefix (notePrefix fun c => { c with rep := some .rep }) s

/-- NOP (48_processor_control.md R588). -/
def execNop (s : State) : Host.Outcome State Fault Refusal :=
  runInstr (pure ()) s

/-- WAIT (48_processor_control.md R591). -/
def execWait (s : State) : Host.Outcome State Fault Refusal :=
  runInstr waitCoprocessor s

/-- ESC coprocessor opcode, E (48_processor_control.md R590). -/
def execEsc (hi : BitVec 3) (op : BitVec 3) (e : Rm Reg) (s : State) : Host.Outcome State Fault Refusal :=
  runInstr (escape hi op e) s

/-- HLT (48_processor_control.md R585). -/
def execHlt (s : State) : Host.Outcome State Fault Refusal :=
  runInstr (do
      privileged
      update fun s => { s with run := .halted }) s

/-- CMC (48_processor_control.md R582). -/
def execCmc (s : State) : Host.Outcome State Fault Refusal :=
  runInstr (setFlags fun f => { f with cf := !f.cf }) s

/-- CLC (48_processor_control.md R580). -/
def execClc (s : State) : Host.Outcome State Fault Refusal :=
  runInstr (setFlags fun f => { f with cf := false }) s

/-- STC (48_processor_control.md R581). -/
def execStc (s : State) : Host.Outcome State Fault Refusal :=
  runInstr (setFlags fun f => { f with cf := true }) s

/-- CLI (48_processor_control.md R586). -/
def execCli (s : State) : Host.Outcome State Fault Refusal :=
  runInstr (do
      ioSensitive
      setFlags fun f => { f with ie := false }) s

/-- STI (48_processor_control.md R587). -/
def execSti (s : State) : Host.Outcome State Fault Refusal :=
  runInstr (do
      ioSensitive
      setFlags fun f => { f with ie := true }) s

/-- CLD (48_processor_control.md R583). -/
def execCld (s : State) : Host.Outcome State Fault Refusal :=
  runInstr (setFlags fun f => { f with df := false }) s

/-- STD (48_processor_control.md R584). -/
def execStd (s : State) : Host.Outcome State Fault Refusal :=
  runInstr (setFlags fun f => { f with df := true }) s

end Sys2Proof.Machine
end

