-- ==== Sys2Proof/Machine/Shifts.lean ====
section
/-! DEFINITION. Shift and rotate instructions: 42_shift_rotate.md. -/

namespace Sys2Proof.Machine

/-- The count of a shift: its low 5 bits (42_shift_rotate.md R421). -/
def shiftCount (v : Byte) : Nat := v.toNat % 32

/-- A shift or rotate of a byte operand (42_shift_rotate.md R421). -/
def shiftEb (op : Shift) (e : Rm Reg8) (count : Byte) : M Unit :=
  if shiftCount count = 0 then touchRm8 e else modifyRm8 e (shift op (shiftCount count))

/-- A shift or rotate of an operand of the operand size (42_shift_rotate.md R421). -/
def shiftEv (op : Shift) (e : Rm Reg) (count : Byte) : M Unit := bySize fun n =>
  if shiftCount count = 0 then touchRm n e else modifyRm n e (shift op (shiftCount count))

/-- A shift or rotate of a byte operand by CL. -/
def shiftEbCl (op : Shift) (e : Rm Reg8) : M Unit := do
  let s ← get
  shiftEb op e (s.reg8 .cl)

/-- A shift or rotate of an operand of the operand size by CL. -/
def shiftEvCl (op : Shift) (e : Rm Reg) : M Unit := do
  let s ← get
  shiftEv op e (s.reg8 .cl)

/-- SHLD, or SHRD when `right` (42_shift_rotate.md R429, R430). -/
def shiftDoubleEv (right : Bool) (e : Rm Reg) (g : Reg) (count : Byte) : M Unit := bySize fun n => do
  let s ← get
  if shiftCount count = 0 then touchRm n e
  else modifyRm n e fun a => shiftDouble right (shiftCount count) a (s.regN n g)

/-- SHLD, or SHRD when `right`, by CL. -/
def shiftDoubleEvCl (right : Bool) (e : Rm Reg) (g : Reg) : M Unit := do
  let s ← get
  shiftDoubleEv right e g (s.reg8 .cl)

/-- ROL Eb,Ib (42_shift_rotate.md R422). -/
def execRolEbIb (e : Rm Reg8) (imm : Byte) (s : State) : Host.Outcome State Fault Refusal :=
  runInstr (shiftEb .rol e imm) s

/-- ROL Ev,Ib (42_shift_rotate.md R422). -/
def execRolEvIb (e : Rm Reg) (imm : Byte) (s : State) : Host.Outcome State Fault Refusal :=
  runInstr (shiftEv .rol e imm) s

/-- ROL Eb,1 (42_shift_rotate.md R422). -/
def execRolEb1 (e : Rm Reg8) (s : State) : Host.Outcome State Fault Refusal :=
  runInstr (shiftEb .rol e 1) s

/-- ROL Ev,1 (42_shift_rotate.md R422). -/
def execRolEv1 (e : Rm Reg) (s : State) : Host.Outcome State Fault Refusal :=
  runInstr (shiftEv .rol e 1) s

/-- ROL Eb,CL (42_shift_rotate.md R422). -/
def execRolEbCl (e : Rm Reg8) (s : State) : Host.Outcome State Fault Refusal :=
  runInstr (shiftEbCl .rol e) s

/-- ROL Ev,CL (42_shift_rotate.md R422). -/
def execRolEvCl (e : Rm Reg) (s : State) : Host.Outcome State Fault Refusal :=
  runInstr (shiftEvCl .rol e) s

/-- ROR Eb,Ib (42_shift_rotate.md R423). -/
def execRorEbIb (e : Rm Reg8) (imm : Byte) (s : State) : Host.Outcome State Fault Refusal :=
  runInstr (shiftEb .ror e imm) s

/-- ROR Ev,Ib (42_shift_rotate.md R423). -/
def execRorEvIb (e : Rm Reg) (imm : Byte) (s : State) : Host.Outcome State Fault Refusal :=
  runInstr (shiftEv .ror e imm) s

/-- ROR Eb,1 (42_shift_rotate.md R423). -/
def execRorEb1 (e : Rm Reg8) (s : State) : Host.Outcome State Fault Refusal :=
  runInstr (shiftEb .ror e 1) s

/-- ROR Ev,1 (42_shift_rotate.md R423). -/
def execRorEv1 (e : Rm Reg) (s : State) : Host.Outcome State Fault Refusal :=
  runInstr (shiftEv .ror e 1) s

/-- ROR Eb,CL (42_shift_rotate.md R423). -/
def execRorEbCl (e : Rm Reg8) (s : State) : Host.Outcome State Fault Refusal :=
  runInstr (shiftEbCl .ror e) s

/-- ROR Ev,CL (42_shift_rotate.md R423). -/
def execRorEvCl (e : Rm Reg) (s : State) : Host.Outcome State Fault Refusal :=
  runInstr (shiftEvCl .ror e) s

/-- RCL Eb,Ib (42_shift_rotate.md R424). -/
def execRclEbIb (e : Rm Reg8) (imm : Byte) (s : State) : Host.Outcome State Fault Refusal :=
  runInstr (shiftEb .rcl e imm) s

/-- RCL Ev,Ib (42_shift_rotate.md R424). -/
def execRclEvIb (e : Rm Reg) (imm : Byte) (s : State) : Host.Outcome State Fault Refusal :=
  runInstr (shiftEv .rcl e imm) s

/-- RCL Eb,1 (42_shift_rotate.md R424). -/
def execRclEb1 (e : Rm Reg8) (s : State) : Host.Outcome State Fault Refusal :=
  runInstr (shiftEb .rcl e 1) s

/-- RCL Ev,1 (42_shift_rotate.md R424). -/
def execRclEv1 (e : Rm Reg) (s : State) : Host.Outcome State Fault Refusal :=
  runInstr (shiftEv .rcl e 1) s

/-- RCL Eb,CL (42_shift_rotate.md R424). -/
def execRclEbCl (e : Rm Reg8) (s : State) : Host.Outcome State Fault Refusal :=
  runInstr (shiftEbCl .rcl e) s

/-- RCL Ev,CL (42_shift_rotate.md R424). -/
def execRclEvCl (e : Rm Reg) (s : State) : Host.Outcome State Fault Refusal :=
  runInstr (shiftEvCl .rcl e) s

/-- RCR Eb,Ib (42_shift_rotate.md R425). -/
def execRcrEbIb (e : Rm Reg8) (imm : Byte) (s : State) : Host.Outcome State Fault Refusal :=
  runInstr (shiftEb .rcr e imm) s

/-- RCR Ev,Ib (42_shift_rotate.md R425). -/
def execRcrEvIb (e : Rm Reg) (imm : Byte) (s : State) : Host.Outcome State Fault Refusal :=
  runInstr (shiftEv .rcr e imm) s

/-- RCR Eb,1 (42_shift_rotate.md R425). -/
def execRcrEb1 (e : Rm Reg8) (s : State) : Host.Outcome State Fault Refusal :=
  runInstr (shiftEb .rcr e 1) s

/-- RCR Ev,1 (42_shift_rotate.md R425). -/
def execRcrEv1 (e : Rm Reg) (s : State) : Host.Outcome State Fault Refusal :=
  runInstr (shiftEv .rcr e 1) s

/-- RCR Eb,CL (42_shift_rotate.md R425). -/
def execRcrEbCl (e : Rm Reg8) (s : State) : Host.Outcome State Fault Refusal :=
  runInstr (shiftEbCl .rcr e) s

/-- RCR Ev,CL (42_shift_rotate.md R425). -/
def execRcrEvCl (e : Rm Reg) (s : State) : Host.Outcome State Fault Refusal :=
  runInstr (shiftEvCl .rcr e) s

/-- SHL/SAL Eb,Ib (42_shift_rotate.md R426). -/
def execShlEbIb (e : Rm Reg8) (imm : Byte) (s : State) : Host.Outcome State Fault Refusal :=
  runInstr (shiftEb .shl e imm) s

/-- SHL/SAL Ev,Ib (42_shift_rotate.md R426). -/
def execShlEvIb (e : Rm Reg) (imm : Byte) (s : State) : Host.Outcome State Fault Refusal :=
  runInstr (shiftEv .shl e imm) s

/-- SHL/SAL Eb,1 (42_shift_rotate.md R426). -/
def execShlEb1 (e : Rm Reg8) (s : State) : Host.Outcome State Fault Refusal :=
  runInstr (shiftEb .shl e 1) s

/-- SHL/SAL Ev,1 (42_shift_rotate.md R426). -/
def execShlEv1 (e : Rm Reg) (s : State) : Host.Outcome State Fault Refusal :=
  runInstr (shiftEv .shl e 1) s

/-- SHL/SAL Eb,CL (42_shift_rotate.md R426). -/
def execShlEbCl (e : Rm Reg8) (s : State) : Host.Outcome State Fault Refusal :=
  runInstr (shiftEbCl .shl e) s

/-- SHL/SAL Ev,CL (42_shift_rotate.md R426). -/
def execShlEvCl (e : Rm Reg) (s : State) : Host.Outcome State Fault Refusal :=
  runInstr (shiftEvCl .shl e) s

/-- SHR Eb,Ib (42_shift_rotate.md R427). -/
def execShrEbIb (e : Rm Reg8) (imm : Byte) (s : State) : Host.Outcome State Fault Refusal :=
  runInstr (shiftEb .shr e imm) s

/-- SHR Ev,Ib (42_shift_rotate.md R427). -/
def execShrEvIb (e : Rm Reg) (imm : Byte) (s : State) : Host.Outcome State Fault Refusal :=
  runInstr (shiftEv .shr e imm) s

/-- SHR Eb,1 (42_shift_rotate.md R427). -/
def execShrEb1 (e : Rm Reg8) (s : State) : Host.Outcome State Fault Refusal :=
  runInstr (shiftEb .shr e 1) s

/-- SHR Ev,1 (42_shift_rotate.md R427). -/
def execShrEv1 (e : Rm Reg) (s : State) : Host.Outcome State Fault Refusal :=
  runInstr (shiftEv .shr e 1) s

/-- SHR Eb,CL (42_shift_rotate.md R427). -/
def execShrEbCl (e : Rm Reg8) (s : State) : Host.Outcome State Fault Refusal :=
  runInstr (shiftEbCl .shr e) s

/-- SHR Ev,CL (42_shift_rotate.md R427). -/
def execShrEvCl (e : Rm Reg) (s : State) : Host.Outcome State Fault Refusal :=
  runInstr (shiftEvCl .shr e) s

/-- SAR Eb,Ib (42_shift_rotate.md R428). -/
def execSarEbIb (e : Rm Reg8) (imm : Byte) (s : State) : Host.Outcome State Fault Refusal :=
  runInstr (shiftEb .sar e imm) s

/-- SAR Ev,Ib (42_shift_rotate.md R428). -/
def execSarEvIb (e : Rm Reg) (imm : Byte) (s : State) : Host.Outcome State Fault Refusal :=
  runInstr (shiftEv .sar e imm) s

/-- SAR Eb,1 (42_shift_rotate.md R428). -/
def execSarEb1 (e : Rm Reg8) (s : State) : Host.Outcome State Fault Refusal :=
  runInstr (shiftEb .sar e 1) s

/-- SAR Ev,1 (42_shift_rotate.md R428). -/
def execSarEv1 (e : Rm Reg) (s : State) : Host.Outcome State Fault Refusal :=
  runInstr (shiftEv .sar e 1) s

/-- SAR Eb,CL (42_shift_rotate.md R428). -/
def execSarEbCl (e : Rm Reg8) (s : State) : Host.Outcome State Fault Refusal :=
  runInstr (shiftEbCl .sar e) s

/-- SAR Ev,CL (42_shift_rotate.md R428). -/
def execSarEvCl (e : Rm Reg) (s : State) : Host.Outcome State Fault Refusal :=
  runInstr (shiftEvCl .sar e) s

/-- SHLD Ev,Gv,Ib (42_shift_rotate.md R429). -/
def execShldEvGvIb (e : Rm Reg) (g : Reg) (imm : Byte) (s : State) : Host.Outcome State Fault Refusal :=
  runInstr (shiftDoubleEv false e g imm) s

/-- SHLD Ev,Gv,CL (42_shift_rotate.md R429). -/
def execShldEvGvCl (e : Rm Reg) (g : Reg) (s : State) : Host.Outcome State Fault Refusal :=
  runInstr (shiftDoubleEvCl false e g) s

/-- SHRD Ev,Gv,Ib (42_shift_rotate.md R430). -/
def execShrdEvGvIb (e : Rm Reg) (g : Reg) (imm : Byte) (s : State) : Host.Outcome State Fault Refusal :=
  runInstr (shiftDoubleEv true e g imm) s

/-- SHRD Ev,Gv,CL (42_shift_rotate.md R430). -/
def execShrdEvGvCl (e : Rm Reg) (g : Reg) (s : State) : Host.Outcome State Fault Refusal :=
  runInstr (shiftDoubleEvCl true e g) s

end Sys2Proof.Machine
end

