-- ==== Sys2Proof/Machine/Strings.lean ====
section
/-! DEFINITION. String instructions: 43_string.md. -/

namespace Sys2Proof.Machine

/-- An index register moved past an element of `n` bits, up or down by DF (43_string.md R440). -/
def State.advance (s : State) (n : Nat) (r : Reg) : State :=
  let d := BitVec.ofNat 32 (n / 8)
  s.withIndexReg r (if s.flags.df then s.indexReg r - d else s.indexReg r + d)

/-- Move an index register past an element (43_string.md R440). -/
def stepIndex (n : Nat) (r : Reg) : M Unit := update fun s => s.advance n r

/-- The source element (43_string.md R440). -/
def sourceElement (n : Nat) : M (BitVec n) := do
  let s ← get
  let v ← segRead s.dataSegment (s.indexReg .esi) (n / 8)
  pure (BitVec.ofNat n v)

/-- The destination element, always in ES (43_string.md R440). -/
def destElement (n : Nat) : M (BitVec n) := do
  let s ← get
  let v ← segRead .es (s.indexReg .edi) (n / 8)
  pure (BitVec.ofNat n v)

/-- Write the destination element. -/
def writeDest {n : Nat} (v : BitVec n) : M Unit := do
  let s ← get
  segWrite .es (s.indexReg .edi) (n / 8) v.toNat

/-- AL, AX or EAX. -/
def accumulator (n : Nat) : M (BitVec n) := reads fun s => s.regN n .eax

/-- One element of MOVS (43_string.md R442). -/
def movsElement (n : Nat) : M Unit := do
  let v ← sourceElement n
  writeDest v
  stepIndex n .esi
  stepIndex n .edi

/-- One element of CMPS (43_string.md R443). -/
def cmpsElement (n : Nat) : M Unit := do
  let a ← sourceElement n
  let b ← destElement n
  setFlags fun f => f.sub a b false
  stepIndex n .esi
  stepIndex n .edi

/-- One element of SCAS (43_string.md R444). -/
def scasElement (n : Nat) : M Unit := do
  let b ← destElement n
  let a ← accumulator n
  setFlags fun f => f.sub a b false
  stepIndex n .edi

/-- One element of LODS (43_string.md R445). -/
def lodsElement (n : Nat) : M Unit := do
  let v ← sourceElement n
  setRegister .eax v
  stepIndex n .esi

/-- One element of STOS (43_string.md R446). -/
def stosElement (n : Nat) : M Unit := do
  let v ← accumulator n
  writeDest v
  stepIndex n .edi

/-- One element of INS: the destination is checked before the port is read (43_string.md R447). -/
def insElement (n : Nat) : M Unit := do
  ioSensitive
  let s ← get
  segProbe .es (s.indexReg .edi) (n / 8) true
  let v ← ioRead (s.regN 16 .edx) (n / 8)
  writeDest (BitVec.ofNat n v)
  stepIndex n .edi

/-- One element of OUTS (43_string.md R448). -/
def outsElement (n : Nat) : M Unit := do
  ioSensitive
  let v ← sourceElement n
  let s ← get
  ioWrite (s.regN 16 .edx) (n / 8) (v.setWidth 32)
  stepIndex n .esi

/-- The prefix repeats the instruction: F3h always, F2h before CMPS and SCAS only (43_string.md R441; assumption
log 22). -/
def repeats (compares : Bool) : Option RepKind → Bool
  | none => false
  | some .rep => true
  | some .repne => compares

/-- CMPS and SCAS stop on ZF: REPE when it is 0, REPNE when it is 1 (43_string.md R441). -/
def stopsOnZero (compares : Bool) (k : Option RepKind) (zf : Bool) : Bool :=
  match compares, k with
  | true, some .rep => !zf
  | true, some .repne => zf
  | true, none => false
  | false, _ => false

/-- A string instruction under its repeat prefix: one element a step (43_string.md R441). -/
def repeated (compares : Bool) (element : M Unit) : M Unit := do
  let s ← get
  if !repeats compares s.cur.rep then element
  else if s.indexReg .ecx = 0 then pure ()
  else do
    element
    update fun s => s.withIndexReg .ecx (s.indexReg .ecx - 1)
    let t ← get
    if t.indexReg .ecx = 0 ∨ stopsOnZero compares s.cur.rep t.flags.zf then pure ()
    else update fun s => { s with cur := { s.cur with repeats := true } }

/-- INSB (43_string.md R447). -/
def execInsb (s : State) : Host.Outcome State Fault Refusal :=
  runInstr (repeated false (insElement 8)) s

/-- INSW/INSD (43_string.md R447). -/
def execInsw (s : State) : Host.Outcome State Fault Refusal :=
  runInstr (bySize fun n => repeated false (insElement n)) s

/-- OUTSB (43_string.md R448). -/
def execOutsb (s : State) : Host.Outcome State Fault Refusal :=
  runInstr (repeated false (outsElement 8)) s

/-- OUTSW/OUTSD (43_string.md R448). -/
def execOutsw (s : State) : Host.Outcome State Fault Refusal :=
  runInstr (bySize fun n => repeated false (outsElement n)) s

/-- MOVSB (43_string.md R442). -/
def execMovsb (s : State) : Host.Outcome State Fault Refusal :=
  runInstr (repeated false (movsElement 8)) s

/-- MOVSW/MOVSD (43_string.md R442). -/
def execMovsw (s : State) : Host.Outcome State Fault Refusal :=
  runInstr (bySize fun n => repeated false (movsElement n)) s

/-- CMPSB (43_string.md R443). -/
def execCmpsb (s : State) : Host.Outcome State Fault Refusal :=
  runInstr (repeated true (cmpsElement 8)) s

/-- CMPSW/CMPSD (43_string.md R443). -/
def execCmpsw (s : State) : Host.Outcome State Fault Refusal :=
  runInstr (bySize fun n => repeated true (cmpsElement n)) s

/-- STOSB (43_string.md R446). -/
def execStosb (s : State) : Host.Outcome State Fault Refusal :=
  runInstr (repeated false (stosElement 8)) s

/-- STOSW/STOSD (43_string.md R446). -/
def execStosw (s : State) : Host.Outcome State Fault Refusal :=
  runInstr (bySize fun n => repeated false (stosElement n)) s

/-- LODSB (43_string.md R445). -/
def execLodsb (s : State) : Host.Outcome State Fault Refusal :=
  runInstr (repeated false (lodsElement 8)) s

/-- LODSW/LODSD (43_string.md R445). -/
def execLodsw (s : State) : Host.Outcome State Fault Refusal :=
  runInstr (bySize fun n => repeated false (lodsElement n)) s

/-- SCASB (43_string.md R444). -/
def execScasb (s : State) : Host.Outcome State Fault Refusal :=
  runInstr (repeated true (scasElement 8)) s

/-- SCASW/SCASD (43_string.md R444). -/
def execScasw (s : State) : Host.Outcome State Fault Refusal :=
  runInstr (bySize fun n => repeated true (scasElement n)) s

end Sys2Proof.Machine
end

