-- ==== Sys2Proof/Machine/System.lean ====
section
/-! DEFINITION. Operating-system support instructions: 47_os_support.md. -/

namespace Sys2Proof.Machine

/-- The 6-byte image of GDTR or IDTR: with 16-bit operands the base has 24 bits (47_os_support.md R540, R541).
The base lies at `EA + 2` modulo 2^AS (00_scope.md R13, 30_encoding.md R278; assumption log 45). -/
def loadTable (m : Mem) : M TableReg := do
  privileged
  let s ← get
  let limit ← segRead (s.memSegment m) (s.ea m) 2
  let b ← segRead (s.memSegment m) (s.eaPlus m 2) 4
  let base : Word32 := BitVec.ofNat 32 b
  pure { base := if s.os32 then base else base &&& 0x00FFFFFF, limit := BitVec.ofNat 16 limit }

/-- SGDT, SIDT: with 16-bit operands the top byte written is a free value (47_os_support.md R542, R543). The base lies at
`EA + 2` modulo 2^AS (assumption log 45). -/
def storeTable (m : Mem) (f : State → TableReg) : M Unit := do
  let s ← get
  let t := f s
  segWrite (s.memSegment m) (s.ea m) 2 t.limit.toNat
  if s.os32 then segWrite (s.memSegment m) (s.eaPlus m 2) 4 t.base.toNat
  else do
    let u ← draw
    segWrite (s.memSegment m) (s.eaPlus m 2) 4 ((t.base &&& 0x00FFFFFF) ||| (u &&& 0xFF000000)).toNat

/-- SLDT, STR (47_os_support.md R545, R547). -/
def storeSystem (e : Rm Reg) (f : State → Word16) : M Unit := do
  protectedOnly
  let s ← get
  writeRm e (f s)

/-- GP(0) when CPL is above 0 (47_os_support.md R544, R546). -/
def level0 : M Unit := do
  let s ← get
  raiseIf (s.level != 0) (.gp 0)

/-- LLDT (47_os_support.md R544). LDTR takes the limit of the descriptor whole, up to 32 bits with G, where
21_segmentation_protection.md R153 gives the tables' registers 16 bits: DESIGN CHOICE, assumption log 58. -/
def loadLdtr (e : Rm Reg) : M Unit := do
  protectedOnly
  level0
  let sel ← readRm 16 e
  if isNull sel then update fun s => { s with ldtr := { s.ldtr with sel := sel, valid := false } }
  else do
    raiseIf (bitAt sel 2) (.gp (selectorCode sel))
    let d ← readDesc sel .gp
    raiseIf (!d.isSystem 2) (.gp (selectorCode sel))
    raiseIf (!d.present) (.np (selectorCode sel))
    update fun s => { s with ldtr := { sel := sel, base := d.base, limit := d.limit, valid := true, is386 := false } }

/-- LTR (47_os_support.md R546). The base and limit of an 80286 TSS descriptor are read with bytes 6 and 7 as they stand
(21_segmentation_protection.md R175; assumption log 51). -/
def loadTr (e : Rm Reg) : M Unit := do
  protectedOnly
  level0
  let sel ← readRm 16 e
  raiseIf (isNull sel || bitAt sel 2) (.gp (selectorCode sel))
  let d ← readDesc sel .gp
  raiseIf (!(d.isSystem 1 || d.isSystem 9)) (.gp (selectorCode sel))
  raiseIf (!d.present) (.np (selectorCode sel))
  setBusy sel true
  update fun s => { s with tr := { sel := sel, base := d.base, limit := d.limit, valid := true, is386 := d.type == 9 } }

/-- LMSW: PE can be set and not cleared, ET and PG are not reached (47_os_support.md R550). -/
def loadMsw (e : Rm Reg) : M Unit := do
  privileged
  let v ← readRm 16 e
  update fun s =>
    { s with cr0 := { s.cr0 with pe := s.cr0.pe || bitAt v 0, mp := bitAt v 1, em := bitAt v 2, ts := bitAt v 3 } }

/-- The image of CR0 with its reserved bits drawn (10_state.md R54, R61). -/
def cr0Image : M Word32 := do
  let u ← draw
  let s ← get
  pure (s.cr0.image (u.extractLsb' 5 26))

/-- SMSW (47_os_support.md R551). -/
def storeMsw (e : Rm Reg) : M Unit := do
  let v ← cr0Image
  writeRm e (v.setWidth 16)

/-- The prefetch queue keeps the 16 bytes after the instruction as the old mode and translation gave them
(22_paging.md R255, 20_memory.md R140; assumption log 13). -/
def State.keepQueue (s : State) : State := { s with stale := s.queueBytes ++ s.stale }

/-- The status flags are undefined after MOV to and from the special registers (47_os_support.md R552 to R555). -/
def undefinedStatus : M Unit := do
  let u ← draw
  setFlags fun f => f.undefined u

/-- Load CR0 (10_state.md R61, 47_os_support.md R552). Where PE is cleared the queue may hold bytes that real mode does not
fetch; those it holds when PE is set can be fetched afterwards too (20_memory.md R140; assumption log 13). -/
def loadCr0 (v : Word32) : M Unit := do
  let s ← get
  raiseIf (bitAt v 31 && !bitAt v 0) (.refuse .pagingWithoutProtection)
  whenever (bitAt v 31 != s.cr0.pg || (s.cr0.pe && !bitAt v 0)) (update State.keepQueue)
  update fun s =>
    { s with cr0 := { pe := bitAt v 0, mp := bitAt v 1, em := bitAt v 2, ts := bitAt v 3, et := bitAt v 4,
                      pg := bitAt v 31 } }

/-- Load CR3, which empties the TLB (10_state.md R71, 22_paging.md R250). -/
def loadCr3 (v : Word32) : M Unit := do
  let s ← get
  whenever s.cr0.pg (update State.keepQueue)
  update fun s => { s.flushTlb with cr3 := v &&& 0xFFFFF000 }

/-- MOV to a control register (47_os_support.md R552). -/
def writeControl (n : BitVec 3) (r : Reg) : M Unit := do
  privileged
  raiseIf (!(n == 0 || n == 2 || n == 3)) .ud
  let v ← reads fun s => s.reg r
  if n = 0 then loadCr0 v else if n = 2 then update fun s => { s with cr2 := v } else loadCr3 v
  undefinedStatus

/-- MOV from a control register (47_os_support.md R553). -/
def readControl (n : BitVec 3) (r : Reg) : M Unit := do
  privileged
  raiseIf (!(n == 0 || n == 2 || n == 3)) .ud
  let s ← get
  let v ← if n = 0 then cr0Image else pure (if n = 2 then s.cr2 else s.cr3 &&& 0xFFFFF000)
  update fun s => s.setReg r v
  undefinedStatus

/-- The named bits of DR6 (10_state.md R80). -/
def dr6Mask : Word32 := 0x0000E00F

/-- The named bits of DR7 (10_state.md R81). -/
def dr7Mask : Word32 := 0xFFFF03FF

/-- The bits of TR6 that are not reserved (10_state.md R83). Whether bit 1 is C or reserved cannot be told from the source;
it is C here and keeps what is written: DESIGN CHOICE, assumption log 41. -/
def tr6Mask : Word32 := 0xFFFFFFE3

/-- The bits of TR7 that are not reserved (10_state.md R84). -/
def tr7Mask : Word32 := 0xFFFFF01C

/-- A register's named bits, with the others drawn (10_state.md R54; assumption log 3). -/
def withReserved (v mask : Word32) : M Word32 := do
  let u ← draw
  pure ((v &&& mask) ||| (u &&& ~~~mask))

/-- MOV to a debug register (47_os_support.md R554; 92_eei_decisions.md D13, assumption log 27). -/
def writeDebug (n : BitVec 3) (r : Reg) : M Unit := do
  privileged
  raiseIf (n == 4 || n == 5) .ud
  let s ← get
  let v := s.reg r
  update fun s => match n.toNat with
    | 0 => { s with dr0 := v }
    | 1 => { s with dr1 := v }
    | 2 => { s with dr2 := v }
    | 3 => { s with dr3 := v }
    | 6 => { s with dr6 := v &&& dr6Mask }
    | _ => { s with dr7 := v &&& dr7Mask }
  undefinedStatus

/-- MOV from a debug register (47_os_support.md R554). -/
def readDebug (n : BitVec 3) (r : Reg) : M Unit := do
  privileged
  raiseIf (n == 4 || n == 5) .ud
  let s ← get
  let v ← match n.toNat with
    | 6 => withReserved s.dr6 dr6Mask
    | 7 => withReserved s.dr7 dr7Mask
    | k => pure (s.breakpoint k)
  update fun s => s.setReg r v
  undefinedStatus

/-- MOV to a test register (47_os_support.md R555; 92_eei_decisions.md D14). -/
def writeTest (n : BitVec 3) (r : Reg) : M Unit := do
  privileged
  raiseIf (!(n == 6 || n == 7)) .ud
  let s ← get
  let v := s.reg r
  update fun s => if n = 6 then { s with tr6 := v &&& tr6Mask } else { s with tr7 := v &&& tr7Mask }
  undefinedStatus

/-- MOV from a test register (47_os_support.md R555; 92_eei_decisions.md D14). -/
def readTest (n : BitVec 3) (r : Reg) : M Unit := do
  privileged
  raiseIf (!(n == 6 || n == 7)) .ud
  let s ← get
  let v ← if n = 6 then withReserved s.tr6 tr6Mask else withReserved s.tr7 tr7Mask
  update fun s => s.setReg r v
  undefinedStatus

/-- ARPL (47_os_support.md R560). -/
def adjustRpl (e : Rm Reg) (g : Reg) : M Unit := do
  protectedOnly
  let d ← readRm 16 e
  let s ← get
  let src : Word16 := s.regN 16 g
  if rpl d < rpl src then do
    writeRm e (selectorCode d ||| (rpl src).setWidth 16)
    setFlags fun f => { f with zf := true }
  else setFlags fun f => { f with zf := false }

/-- Do a part of an instruction; where it would raise something there is no answer, and nothing is raised. -/
def attempt {α : Type} (m : M α) : M (Option α) := fun s =>
  match m s with
  | .ok a t => .ok (some a) t
  | .error _ t => .ok none t

/-- `Visible(sel)` of 47_os_support.md R572: the descriptor, if the program may see it. It raises nothing: a descriptor
outside its table is not visible, nor is one that a page fault keeps from being read (DEDUCED, assumption log 47). -/
def visible (sel : Word16) : M (Option Desc) :=
  if isNull sel then pure none
  else do
    let s ← get
    let d ← attempt (readDesc sel .gp)
    pure (d.filter fun d => d.isConforming || weaker s.level (rpl sel) ≤ d.dpl)

/-- VERR, VERW (47_os_support.md R561, R562). -/
def verify (e : Rm Reg) (ok : Desc → Bool) : M Unit := do
  protectedOnly
  let sel ← readRm 16 e
  let d ← visible sel
  setFlags fun f => { f with zf := match d with | some d => ok d | none => false }

/-- Load something of a visible descriptor of an accepted type, or clear ZF (47_os_support.md R563, R564). -/
def loadFromDesc (g : Reg) (e : Rm Reg) (types : List Nat) (value : Desc → Bool → M Word32) : M Unit := do
  protectedOnly
  let sel ← readRm 16 e
  let d ← visible sel
  match d.filter fun d => d.isSegment || types.contains d.type with
  | none => setFlags fun f => { f with zf := false }
  | some d => do
    let s ← get
    let v ← value d s.os32
    bySize fun n => setRegister g (v.setWidth n)
    setFlags fun f => { f with zf := true }

/-- LSL (47_os_support.md R563). -/
def loadLimit (g : Reg) (e : Rm Reg) : M Unit := loadFromDesc g e [1, 2, 3, 9, 0xB] fun d _ => pure d.limit

/-- What LAR loads of a descriptor: its bits 63..32 under the mask of 47_os_support.md R564. Bit 21 of them is the reserved bit
of a segment, LDT or TSS descriptor (21_segmentation_protection.md R161) and reads as a free value
(93_implementation_defined.md U2, 00_scope.md R18; assumption log 43); of a gate it is a bit of its offset
(21_segmentation_protection.md R179). -/
def Desc.rights (d : Desc) (is32 : Bool) : M Word32 :=
  let hi : Word32 := d.extractLsb' 32 32
  if !is32 then pure (hi &&& 0xFF00)
  else if d.isGate then pure (hi &&& 0x00F0FF00)
  else do
    let u ← draw
    pure ((hi &&& 0x00D0FF00) ||| (u &&& 0x00200000))

/-- LAR (47_os_support.md R564). -/
def loadRights (g : Reg) (e : Rm Reg) : M Unit := loadFromDesc g e [1, 2, 3, 4, 5, 9, 0xB, 0xC] Desc.rights

/-- ARPL Ew,Gw (47_os_support.md R560). -/
def execArplEwGw (e : Rm Reg) (g : Reg) (s : State) : Host.Outcome State Fault Refusal :=
  runInstr (adjustRpl e g) s

/-- SLDT Ew (47_os_support.md R545). -/
def execSldtEw (e : Rm Reg) (s : State) : Host.Outcome State Fault Refusal :=
  runInstr (storeSystem e fun s => s.ldtr.sel) s

/-- STR Ew (47_os_support.md R547). -/
def execStrEw (e : Rm Reg) (s : State) : Host.Outcome State Fault Refusal :=
  runInstr (storeSystem e fun s => s.tr.sel) s

/-- LLDT Ew (47_os_support.md R544). -/
def execLldtEw (e : Rm Reg) (s : State) : Host.Outcome State Fault Refusal :=
  runInstr (loadLdtr e) s

/-- LTR Ew (47_os_support.md R546). -/
def execLtrEw (e : Rm Reg) (s : State) : Host.Outcome State Fault Refusal :=
  runInstr (loadTr e) s

/-- VERR Ew (47_os_support.md R561). -/
def execVerrEw (e : Rm Reg) (s : State) : Host.Outcome State Fault Refusal :=
  runInstr (verify e Desc.isReadable) s

/-- VERW Ew (47_os_support.md R562). -/
def execVerwEw (e : Rm Reg) (s : State) : Host.Outcome State Fault Refusal :=
  runInstr (verify e Desc.isWritable) s

/-- SGDT Ms (47_os_support.md R542). -/
def execSgdtMs (m : Mem) (s : State) : Host.Outcome State Fault Refusal :=
  runInstr (storeTable m State.gdtr) s

/-- SIDT Ms (47_os_support.md R543). -/
def execSidtMs (m : Mem) (s : State) : Host.Outcome State Fault Refusal :=
  runInstr (storeTable m State.idtr) s

/-- LGDT Ms (47_os_support.md R540). -/
def execLgdtMs (m : Mem) (s : State) : Host.Outcome State Fault Refusal :=
  runInstr (do
      let t ← loadTable m
      update fun s => { s with gdtr := t }) s

/-- LIDT Ms (47_os_support.md R541). -/
def execLidtMs (m : Mem) (s : State) : Host.Outcome State Fault Refusal :=
  runInstr (do
      let t ← loadTable m
      update fun s => { s with idtr := t }) s

/-- SMSW Ew (47_os_support.md R551). -/
def execSmswEw (e : Rm Reg) (s : State) : Host.Outcome State Fault Refusal :=
  runInstr (storeMsw e) s

/-- LMSW Ew (47_os_support.md R550). -/
def execLmswEw (e : Rm Reg) (s : State) : Host.Outcome State Fault Refusal :=
  runInstr (loadMsw e) s

/-- LAR Gv,Ew (47_os_support.md R564). -/
def execLarGvEw (g : Reg) (e : Rm Reg) (s : State) : Host.Outcome State Fault Refusal :=
  runInstr (loadRights g e) s

/-- LSL Gv,Ew (47_os_support.md R563). -/
def execLslGvEw (g : Reg) (e : Rm Reg) (s : State) : Host.Outcome State Fault Refusal :=
  runInstr (loadLimit g e) s

/-- CLTS (47_os_support.md R556). -/
def execClts (s : State) : Host.Outcome State Fault Refusal :=
  runInstr (do
      privileged
      update fun s => { s with cr0 := { s.cr0 with ts := false } }) s

/-- MOV r32,CRn (47_os_support.md R553). -/
def execMovRCr (_md : BitVec 2) (n : BitVec 3) (r : Reg) (s : State) : Host.Outcome State Fault Refusal :=
  runInstr (readControl n r) s

/-- MOV CRn,r32 (47_os_support.md R552). -/
def execMovCrR (_md : BitVec 2) (n : BitVec 3) (r : Reg) (s : State) : Host.Outcome State Fault Refusal :=
  runInstr (writeControl n r) s

/-- MOV r32,DRn (47_os_support.md R554). -/
def execMovRDr (_md : BitVec 2) (n : BitVec 3) (r : Reg) (s : State) : Host.Outcome State Fault Refusal :=
  runInstr (readDebug n r) s

/-- MOV DRn,r32 (47_os_support.md R554). -/
def execMovDrR (_md : BitVec 2) (n : BitVec 3) (r : Reg) (s : State) : Host.Outcome State Fault Refusal :=
  runInstr (writeDebug n r) s

/-- MOV r32,TRn (47_os_support.md R555). -/
def execMovRTr (_md : BitVec 2) (n : BitVec 3) (r : Reg) (s : State) : Host.Outcome State Fault Refusal :=
  runInstr (readTest n r) s

/-- MOV TRn,r32 (47_os_support.md R555). -/
def execMovTrR (_md : BitVec 2) (n : BitVec 3) (r : Reg) (s : State) : Host.Outcome State Fault Refusal :=
  runInstr (writeTest n r) s

end Sys2Proof.Machine
end

