-- ==== Sys2Proof/Machine/Undefined.lean ====
section
/-! DEFINITION. Unassigned encodings: 30_encoding.md R295, 60_exceptions.md R655. -/

namespace Sys2Proof.Machine

/-- (UD) unassigned one-byte opcode (30_encoding.md R295). -/
def execUd82 (s : State) : Host.Outcome State Fault Refusal :=
  runInstr (raise .ud) s

/-- (UD) unassigned one-byte opcode (30_encoding.md R295). -/
def execUdD6 (s : State) : Host.Outcome State Fault Refusal :=
  runInstr (raise .ud) s

/-- (UD) unassigned one-byte opcode (30_encoding.md R295). -/
def execUdF1 (s : State) : Host.Outcome State Fault Refusal :=
  runInstr (raise .ud) s

/-- (UD) group 2 /6 (42_shift_rotate.md R421). -/
def execUdC0s6 (s : State) : Host.Outcome State Fault Refusal :=
  runInstr (raise .ud) s

/-- (UD) group 2 /6 (42_shift_rotate.md R421). -/
def execUdC1s6 (s : State) : Host.Outcome State Fault Refusal :=
  runInstr (raise .ud) s

/-- (UD) group 2 /6 (42_shift_rotate.md R421). -/
def execUdD0s6 (s : State) : Host.Outcome State Fault Refusal :=
  runInstr (raise .ud) s

/-- (UD) group 2 /6 (42_shift_rotate.md R421). -/
def execUdD1s6 (s : State) : Host.Outcome State Fault Refusal :=
  runInstr (raise .ud) s

/-- (UD) group 2 /6 (42_shift_rotate.md R421). -/
def execUdD2s6 (s : State) : Host.Outcome State Fault Refusal :=
  runInstr (raise .ud) s

/-- (UD) group 2 /6 (42_shift_rotate.md R421). -/
def execUdD3s6 (s : State) : Host.Outcome State Fault Refusal :=
  runInstr (raise .ud) s

/-- (UD) group 3 /1 (30_encoding.md R295). -/
def execUdF6s1 (s : State) : Host.Outcome State Fault Refusal :=
  runInstr (raise .ud) s

/-- (UD) group 3 /1 (30_encoding.md R295). -/
def execUdF7s1 (s : State) : Host.Outcome State Fault Refusal :=
  runInstr (raise .ud) s

/-- (UD) group 4 /2 (30_encoding.md R290). -/
def execUdFEs2 (s : State) : Host.Outcome State Fault Refusal :=
  runInstr (raise .ud) s

/-- (UD) group 4 /3 (30_encoding.md R290). -/
def execUdFEs3 (s : State) : Host.Outcome State Fault Refusal :=
  runInstr (raise .ud) s

/-- (UD) group 4 /4 (30_encoding.md R290). -/
def execUdFEs4 (s : State) : Host.Outcome State Fault Refusal :=
  runInstr (raise .ud) s

/-- (UD) group 4 /5 (30_encoding.md R290). -/
def execUdFEs5 (s : State) : Host.Outcome State Fault Refusal :=
  runInstr (raise .ud) s

/-- (UD) group 4 /6 (30_encoding.md R290). -/
def execUdFEs6 (s : State) : Host.Outcome State Fault Refusal :=
  runInstr (raise .ud) s

/-- (UD) group 4 /7 (30_encoding.md R290). -/
def execUdFEs7 (s : State) : Host.Outcome State Fault Refusal :=
  runInstr (raise .ud) s

/-- (UD) group 5 /7 (30_encoding.md R290). -/
def execUdFFs7 (s : State) : Host.Outcome State Fault Refusal :=
  runInstr (raise .ud) s

/-- (UD) 8F /1 (40_data_transfer.md R333). -/
def execUd8Fs1 (s : State) : Host.Outcome State Fault Refusal :=
  runInstr (raise .ud) s

/-- (UD) C6 /1 (40_data_transfer.md R324). -/
def execUdC6s1 (s : State) : Host.Outcome State Fault Refusal :=
  runInstr (raise .ud) s

/-- (UD) C7 /1 (40_data_transfer.md R324). -/
def execUdC7s1 (s : State) : Host.Outcome State Fault Refusal :=
  runInstr (raise .ud) s

/-- (UD) 8F /2 (40_data_transfer.md R333). -/
def execUd8Fs2 (s : State) : Host.Outcome State Fault Refusal :=
  runInstr (raise .ud) s

/-- (UD) C6 /2 (40_data_transfer.md R324). -/
def execUdC6s2 (s : State) : Host.Outcome State Fault Refusal :=
  runInstr (raise .ud) s

/-- (UD) C7 /2 (40_data_transfer.md R324). -/
def execUdC7s2 (s : State) : Host.Outcome State Fault Refusal :=
  runInstr (raise .ud) s

/-- (UD) 8F /3 (40_data_transfer.md R333). -/
def execUd8Fs3 (s : State) : Host.Outcome State Fault Refusal :=
  runInstr (raise .ud) s

/-- (UD) C6 /3 (40_data_transfer.md R324). -/
def execUdC6s3 (s : State) : Host.Outcome State Fault Refusal :=
  runInstr (raise .ud) s

/-- (UD) C7 /3 (40_data_transfer.md R324). -/
def execUdC7s3 (s : State) : Host.Outcome State Fault Refusal :=
  runInstr (raise .ud) s

/-- (UD) 8F /4 (40_data_transfer.md R333). -/
def execUd8Fs4 (s : State) : Host.Outcome State Fault Refusal :=
  runInstr (raise .ud) s

/-- (UD) C6 /4 (40_data_transfer.md R324). -/
def execUdC6s4 (s : State) : Host.Outcome State Fault Refusal :=
  runInstr (raise .ud) s

/-- (UD) C7 /4 (40_data_transfer.md R324). -/
def execUdC7s4 (s : State) : Host.Outcome State Fault Refusal :=
  runInstr (raise .ud) s

/-- (UD) 8F /5 (40_data_transfer.md R333). -/
def execUd8Fs5 (s : State) : Host.Outcome State Fault Refusal :=
  runInstr (raise .ud) s

/-- (UD) C6 /5 (40_data_transfer.md R324). -/
def execUdC6s5 (s : State) : Host.Outcome State Fault Refusal :=
  runInstr (raise .ud) s

/-- (UD) C7 /5 (40_data_transfer.md R324). -/
def execUdC7s5 (s : State) : Host.Outcome State Fault Refusal :=
  runInstr (raise .ud) s

/-- (UD) 8F /6 (40_data_transfer.md R333). -/
def execUd8Fs6 (s : State) : Host.Outcome State Fault Refusal :=
  runInstr (raise .ud) s

/-- (UD) C6 /6 (40_data_transfer.md R324). -/
def execUdC6s6 (s : State) : Host.Outcome State Fault Refusal :=
  runInstr (raise .ud) s

/-- (UD) C7 /6 (40_data_transfer.md R324). -/
def execUdC7s6 (s : State) : Host.Outcome State Fault Refusal :=
  runInstr (raise .ud) s

/-- (UD) 8F /7 (40_data_transfer.md R333). -/
def execUd8Fs7 (s : State) : Host.Outcome State Fault Refusal :=
  runInstr (raise .ud) s

/-- (UD) C6 /7 (40_data_transfer.md R324). -/
def execUdC6s7 (s : State) : Host.Outcome State Fault Refusal :=
  runInstr (raise .ud) s

/-- (UD) C7 /7 (40_data_transfer.md R324). -/
def execUdC7s7 (s : State) : Host.Outcome State Fault Refusal :=
  runInstr (raise .ud) s

/-- (UD) group 6 /6 (30_encoding.md R291). -/
def execUd0F00s6 (s : State) : Host.Outcome State Fault Refusal :=
  runInstr (raise .ud) s

/-- (UD) group 6 /7 (30_encoding.md R291). -/
def execUd0F00s7 (s : State) : Host.Outcome State Fault Refusal :=
  runInstr (raise .ud) s

/-- (UD) group 7 /5 (30_encoding.md R291). -/
def execUd0F01s5 (s : State) : Host.Outcome State Fault Refusal :=
  runInstr (raise .ud) s

/-- (UD) group 7 /7 (30_encoding.md R291). -/
def execUd0F01s7 (s : State) : Host.Outcome State Fault Refusal :=
  runInstr (raise .ud) s

/-- (UD) group 8 /0 (44_bit.md R467). -/
def execUd0FBAs0 (s : State) : Host.Outcome State Fault Refusal :=
  runInstr (raise .ud) s

/-- (UD) group 8 /1 (44_bit.md R467). -/
def execUd0FBAs1 (s : State) : Host.Outcome State Fault Refusal :=
  runInstr (raise .ud) s

/-- (UD) group 8 /2 (44_bit.md R467). -/
def execUd0FBAs2 (s : State) : Host.Outcome State Fault Refusal :=
  runInstr (raise .ud) s

/-- (UD) group 8 /3 (44_bit.md R467). -/
def execUd0FBAs3 (s : State) : Host.Outcome State Fault Refusal :=
  runInstr (raise .ud) s

/-- (UD) unassigned two-byte opcode (44_bit.md R467). -/
def execUd0FA6 (s : State) : Host.Outcome State Fault Refusal :=
  runInstr (raise .ud) s

/-- (UD) unassigned two-byte opcode (44_bit.md R467). -/
def execUd0FA7 (s : State) : Host.Outcome State Fault Refusal :=
  runInstr (raise .ud) s

end Sys2Proof.Machine
end

