-- ==== Sys2Proof/Machine/Dispatch.lean ====
section
/-! DEFINITION. One arm for each constructor of `Instr`: the meaning of an instruction. -/

namespace Sys2Proof.Machine

/-- What one instruction does: the next state, a fault of the model or a refusal. -/
def exec (i : Instr) (s : State) : Host.Outcome State Fault Refusal :=
  match i with
  | .addEbGb e g => Sys2Proof.Machine.execAddEbGb e g s
  | .addEvGv e g => Sys2Proof.Machine.execAddEvGv e g s
  | .addGbEb g e => Sys2Proof.Machine.execAddGbEb g e s
  | .addGvEv g e => Sys2Proof.Machine.execAddGvEv g e s
  | .addAlIb imm => Sys2Proof.Machine.execAddAlIb imm s
  | .addEaxIv imm => Sys2Proof.Machine.execAddEaxIv imm s
  | .addEbIb e imm => Sys2Proof.Machine.execAddEbIb e imm s
  | .addEvIv e imm => Sys2Proof.Machine.execAddEvIv e imm s
  | .addEvIbs e imm => Sys2Proof.Machine.execAddEvIbs e imm s
  | .orEbGb e g => Sys2Proof.Machine.execOrEbGb e g s
  | .orEvGv e g => Sys2Proof.Machine.execOrEvGv e g s
  | .orGbEb g e => Sys2Proof.Machine.execOrGbEb g e s
  | .orGvEv g e => Sys2Proof.Machine.execOrGvEv g e s
  | .orAlIb imm => Sys2Proof.Machine.execOrAlIb imm s
  | .orEaxIv imm => Sys2Proof.Machine.execOrEaxIv imm s
  | .orEbIb e imm => Sys2Proof.Machine.execOrEbIb e imm s
  | .orEvIv e imm => Sys2Proof.Machine.execOrEvIv e imm s
  | .orEvIbs e imm => Sys2Proof.Machine.execOrEvIbs e imm s
  | .adcEbGb e g => Sys2Proof.Machine.execAdcEbGb e g s
  | .adcEvGv e g => Sys2Proof.Machine.execAdcEvGv e g s
  | .adcGbEb g e => Sys2Proof.Machine.execAdcGbEb g e s
  | .adcGvEv g e => Sys2Proof.Machine.execAdcGvEv g e s
  | .adcAlIb imm => Sys2Proof.Machine.execAdcAlIb imm s
  | .adcEaxIv imm => Sys2Proof.Machine.execAdcEaxIv imm s
  | .adcEbIb e imm => Sys2Proof.Machine.execAdcEbIb e imm s
  | .adcEvIv e imm => Sys2Proof.Machine.execAdcEvIv e imm s
  | .adcEvIbs e imm => Sys2Proof.Machine.execAdcEvIbs e imm s
  | .sbbEbGb e g => Sys2Proof.Machine.execSbbEbGb e g s
  | .sbbEvGv e g => Sys2Proof.Machine.execSbbEvGv e g s
  | .sbbGbEb g e => Sys2Proof.Machine.execSbbGbEb g e s
  | .sbbGvEv g e => Sys2Proof.Machine.execSbbGvEv g e s
  | .sbbAlIb imm => Sys2Proof.Machine.execSbbAlIb imm s
  | .sbbEaxIv imm => Sys2Proof.Machine.execSbbEaxIv imm s
  | .sbbEbIb e imm => Sys2Proof.Machine.execSbbEbIb e imm s
  | .sbbEvIv e imm => Sys2Proof.Machine.execSbbEvIv e imm s
  | .sbbEvIbs e imm => Sys2Proof.Machine.execSbbEvIbs e imm s
  | .andEbGb e g => Sys2Proof.Machine.execAndEbGb e g s
  | .andEvGv e g => Sys2Proof.Machine.execAndEvGv e g s
  | .andGbEb g e => Sys2Proof.Machine.execAndGbEb g e s
  | .andGvEv g e => Sys2Proof.Machine.execAndGvEv g e s
  | .andAlIb imm => Sys2Proof.Machine.execAndAlIb imm s
  | .andEaxIv imm => Sys2Proof.Machine.execAndEaxIv imm s
  | .andEbIb e imm => Sys2Proof.Machine.execAndEbIb e imm s
  | .andEvIv e imm => Sys2Proof.Machine.execAndEvIv e imm s
  | .andEvIbs e imm => Sys2Proof.Machine.execAndEvIbs e imm s
  | .subEbGb e g => Sys2Proof.Machine.execSubEbGb e g s
  | .subEvGv e g => Sys2Proof.Machine.execSubEvGv e g s
  | .subGbEb g e => Sys2Proof.Machine.execSubGbEb g e s
  | .subGvEv g e => Sys2Proof.Machine.execSubGvEv g e s
  | .subAlIb imm => Sys2Proof.Machine.execSubAlIb imm s
  | .subEaxIv imm => Sys2Proof.Machine.execSubEaxIv imm s
  | .subEbIb e imm => Sys2Proof.Machine.execSubEbIb e imm s
  | .subEvIv e imm => Sys2Proof.Machine.execSubEvIv e imm s
  | .subEvIbs e imm => Sys2Proof.Machine.execSubEvIbs e imm s
  | .xorEbGb e g => Sys2Proof.Machine.execXorEbGb e g s
  | .xorEvGv e g => Sys2Proof.Machine.execXorEvGv e g s
  | .xorGbEb g e => Sys2Proof.Machine.execXorGbEb g e s
  | .xorGvEv g e => Sys2Proof.Machine.execXorGvEv g e s
  | .xorAlIb imm => Sys2Proof.Machine.execXorAlIb imm s
  | .xorEaxIv imm => Sys2Proof.Machine.execXorEaxIv imm s
  | .xorEbIb e imm => Sys2Proof.Machine.execXorEbIb e imm s
  | .xorEvIv e imm => Sys2Proof.Machine.execXorEvIv e imm s
  | .xorEvIbs e imm => Sys2Proof.Machine.execXorEvIbs e imm s
  | .cmpEbGb e g => Sys2Proof.Machine.execCmpEbGb e g s
  | .cmpEvGv e g => Sys2Proof.Machine.execCmpEvGv e g s
  | .cmpGbEb g e => Sys2Proof.Machine.execCmpGbEb g e s
  | .cmpGvEv g e => Sys2Proof.Machine.execCmpGvEv g e s
  | .cmpAlIb imm => Sys2Proof.Machine.execCmpAlIb imm s
  | .cmpEaxIv imm => Sys2Proof.Machine.execCmpEaxIv imm s
  | .cmpEbIb e imm => Sys2Proof.Machine.execCmpEbIb e imm s
  | .cmpEvIv e imm => Sys2Proof.Machine.execCmpEvIv e imm s
  | .cmpEvIbs e imm => Sys2Proof.Machine.execCmpEvIbs e imm s
  | .pushEs => Sys2Proof.Machine.execPushEs s
  | .pushCs => Sys2Proof.Machine.execPushCs s
  | .pushSs => Sys2Proof.Machine.execPushSs s
  | .pushDs => Sys2Proof.Machine.execPushDs s
  | .popEs => Sys2Proof.Machine.execPopEs s
  | .popSs => Sys2Proof.Machine.execPopSs s
  | .popDs => Sys2Proof.Machine.execPopDs s
  | .pushFs => Sys2Proof.Machine.execPushFs s
  | .popFs => Sys2Proof.Machine.execPopFs s
  | .pushGs => Sys2Proof.Machine.execPushGs s
  | .popGs => Sys2Proof.Machine.execPopGs s
  | .segEs => Sys2Proof.Machine.execSegEs s
  | .segCs => Sys2Proof.Machine.execSegCs s
  | .segSs => Sys2Proof.Machine.execSegSs s
  | .segDs => Sys2Proof.Machine.execSegDs s
  | .segFs => Sys2Proof.Machine.execSegFs s
  | .segGs => Sys2Proof.Machine.execSegGs s
  | .opSize => Sys2Proof.Machine.execOpSize s
  | .adSize => Sys2Proof.Machine.execAdSize s
  | .lock => Sys2Proof.Machine.execLock s
  | .repne => Sys2Proof.Machine.execRepne s
  | .rep => Sys2Proof.Machine.execRep s
  | .daa => Sys2Proof.Machine.execDaa s
  | .das => Sys2Proof.Machine.execDas s
  | .aaa => Sys2Proof.Machine.execAaa s
  | .aas => Sys2Proof.Machine.execAas s
  | .aamIb imm => Sys2Proof.Machine.execAamIb imm s
  | .aadIb imm => Sys2Proof.Machine.execAadIb imm s
  | .incR r => Sys2Proof.Machine.execIncR r s
  | .decR r => Sys2Proof.Machine.execDecR r s
  | .pushR r => Sys2Proof.Machine.execPushR r s
  | .popR r => Sys2Proof.Machine.execPopR r s
  | .pusha => Sys2Proof.Machine.execPusha s
  | .popa => Sys2Proof.Machine.execPopa s
  | .boundGvMa g m => Sys2Proof.Machine.execBoundGvMa g m s
  | .arplEwGw e g => Sys2Proof.Machine.execArplEwGw e g s
  | .pushIv imm => Sys2Proof.Machine.execPushIv imm s
  | .pushIbs imm => Sys2Proof.Machine.execPushIbs imm s
  | .imulGvEvIv g e imm => Sys2Proof.Machine.execImulGvEvIv g e imm s
  | .imulGvEvIb g e imm => Sys2Proof.Machine.execImulGvEvIb g e imm s
  | .insb => Sys2Proof.Machine.execInsb s
  | .insw => Sys2Proof.Machine.execInsw s
  | .outsb => Sys2Proof.Machine.execOutsb s
  | .outsw => Sys2Proof.Machine.execOutsw s
  | .jccRel8 cc rel => Sys2Proof.Machine.execJccRel8 cc rel s
  | .testEbGb e g => Sys2Proof.Machine.execTestEbGb e g s
  | .testEvGv e g => Sys2Proof.Machine.execTestEvGv e g s
  | .xchgEbGb e g => Sys2Proof.Machine.execXchgEbGb e g s
  | .xchgEvGv e g => Sys2Proof.Machine.execXchgEvGv e g s
  | .movEbGb e g => Sys2Proof.Machine.execMovEbGb e g s
  | .movEvGv e g => Sys2Proof.Machine.execMovEvGv e g s
  | .movGbEb g e => Sys2Proof.Machine.execMovGbEb g e s
  | .movGvEv g e => Sys2Proof.Machine.execMovGvEv g e s
  | .movEwSreg e sr => Sys2Proof.Machine.execMovEwSreg e sr s
  | .leaGvM g m => Sys2Proof.Machine.execLeaGvM g m s
  | .movSregEw sr e => Sys2Proof.Machine.execMovSregEw sr e s
  | .popEv e => Sys2Proof.Machine.execPopEv e s
  | .nop => Sys2Proof.Machine.execNop s
  | .xchgEaxR r => Sys2Proof.Machine.execXchgEaxR r s
  | .cbw => Sys2Proof.Machine.execCbw s
  | .cwd => Sys2Proof.Machine.execCwd s
  | .callFar off sel => Sys2Proof.Machine.execCallFar off sel s
  | .wait => Sys2Proof.Machine.execWait s
  | .pushf => Sys2Proof.Machine.execPushf s
  | .popf => Sys2Proof.Machine.execPopf s
  | .sahf => Sys2Proof.Machine.execSahf s
  | .lahf => Sys2Proof.Machine.execLahf s
  | .movAlOb off => Sys2Proof.Machine.execMovAlOb off s
  | .movEaxOv off => Sys2Proof.Machine.execMovEaxOv off s
  | .movObAl off => Sys2Proof.Machine.execMovObAl off s
  | .movOvEax off => Sys2Proof.Machine.execMovOvEax off s
  | .movsb => Sys2Proof.Machine.execMovsb s
  | .movsw => Sys2Proof.Machine.execMovsw s
  | .cmpsb => Sys2Proof.Machine.execCmpsb s
  | .cmpsw => Sys2Proof.Machine.execCmpsw s
  | .testAlIb imm => Sys2Proof.Machine.execTestAlIb imm s
  | .testEaxIv imm => Sys2Proof.Machine.execTestEaxIv imm s
  | .stosb => Sys2Proof.Machine.execStosb s
  | .stosw => Sys2Proof.Machine.execStosw s
  | .lodsb => Sys2Proof.Machine.execLodsb s
  | .lodsw => Sys2Proof.Machine.execLodsw s
  | .scasb => Sys2Proof.Machine.execScasb s
  | .scasw => Sys2Proof.Machine.execScasw s
  | .movR8Ib r imm => Sys2Proof.Machine.execMovR8Ib r imm s
  | .movRIv r imm => Sys2Proof.Machine.execMovRIv r imm s
  | .rolEbIb e imm => Sys2Proof.Machine.execRolEbIb e imm s
  | .rolEvIb e imm => Sys2Proof.Machine.execRolEvIb e imm s
  | .rolEb1 e => Sys2Proof.Machine.execRolEb1 e s
  | .rolEv1 e => Sys2Proof.Machine.execRolEv1 e s
  | .rolEbCl e => Sys2Proof.Machine.execRolEbCl e s
  | .rolEvCl e => Sys2Proof.Machine.execRolEvCl e s
  | .rorEbIb e imm => Sys2Proof.Machine.execRorEbIb e imm s
  | .rorEvIb e imm => Sys2Proof.Machine.execRorEvIb e imm s
  | .rorEb1 e => Sys2Proof.Machine.execRorEb1 e s
  | .rorEv1 e => Sys2Proof.Machine.execRorEv1 e s
  | .rorEbCl e => Sys2Proof.Machine.execRorEbCl e s
  | .rorEvCl e => Sys2Proof.Machine.execRorEvCl e s
  | .rclEbIb e imm => Sys2Proof.Machine.execRclEbIb e imm s
  | .rclEvIb e imm => Sys2Proof.Machine.execRclEvIb e imm s
  | .rclEb1 e => Sys2Proof.Machine.execRclEb1 e s
  | .rclEv1 e => Sys2Proof.Machine.execRclEv1 e s
  | .rclEbCl e => Sys2Proof.Machine.execRclEbCl e s
  | .rclEvCl e => Sys2Proof.Machine.execRclEvCl e s
  | .rcrEbIb e imm => Sys2Proof.Machine.execRcrEbIb e imm s
  | .rcrEvIb e imm => Sys2Proof.Machine.execRcrEvIb e imm s
  | .rcrEb1 e => Sys2Proof.Machine.execRcrEb1 e s
  | .rcrEv1 e => Sys2Proof.Machine.execRcrEv1 e s
  | .rcrEbCl e => Sys2Proof.Machine.execRcrEbCl e s
  | .rcrEvCl e => Sys2Proof.Machine.execRcrEvCl e s
  | .shlEbIb e imm => Sys2Proof.Machine.execShlEbIb e imm s
  | .shlEvIb e imm => Sys2Proof.Machine.execShlEvIb e imm s
  | .shlEb1 e => Sys2Proof.Machine.execShlEb1 e s
  | .shlEv1 e => Sys2Proof.Machine.execShlEv1 e s
  | .shlEbCl e => Sys2Proof.Machine.execShlEbCl e s
  | .shlEvCl e => Sys2Proof.Machine.execShlEvCl e s
  | .shrEbIb e imm => Sys2Proof.Machine.execShrEbIb e imm s
  | .shrEvIb e imm => Sys2Proof.Machine.execShrEvIb e imm s
  | .shrEb1 e => Sys2Proof.Machine.execShrEb1 e s
  | .shrEv1 e => Sys2Proof.Machine.execShrEv1 e s
  | .shrEbCl e => Sys2Proof.Machine.execShrEbCl e s
  | .shrEvCl e => Sys2Proof.Machine.execShrEvCl e s
  | .sarEbIb e imm => Sys2Proof.Machine.execSarEbIb e imm s
  | .sarEvIb e imm => Sys2Proof.Machine.execSarEvIb e imm s
  | .sarEb1 e => Sys2Proof.Machine.execSarEb1 e s
  | .sarEv1 e => Sys2Proof.Machine.execSarEv1 e s
  | .sarEbCl e => Sys2Proof.Machine.execSarEbCl e s
  | .sarEvCl e => Sys2Proof.Machine.execSarEvCl e s
  | .retNearIw imm => Sys2Proof.Machine.execRetNearIw imm s
  | .retNear => Sys2Proof.Machine.execRetNear s
  | .lesGvMp g m => Sys2Proof.Machine.execLesGvMp g m s
  | .ldsGvMp g m => Sys2Proof.Machine.execLdsGvMp g m s
  | .movEbIb e imm => Sys2Proof.Machine.execMovEbIb e imm s
  | .movEvIv e imm => Sys2Proof.Machine.execMovEvIv e imm s
  | .enterIwIb size level => Sys2Proof.Machine.execEnterIwIb size level s
  | .leave => Sys2Proof.Machine.execLeave s
  | .retFarIw imm => Sys2Proof.Machine.execRetFarIw imm s
  | .retFar => Sys2Proof.Machine.execRetFar s
  | .int3 => Sys2Proof.Machine.execInt3 s
  | .intIb imm => Sys2Proof.Machine.execIntIb imm s
  | .into => Sys2Proof.Machine.execInto s
  | .iret => Sys2Proof.Machine.execIret s
  | .xlat => Sys2Proof.Machine.execXlat s
  | .esc hi op e => Sys2Proof.Machine.execEsc hi op e s
  | .loopneRel8 rel => Sys2Proof.Machine.execLoopneRel8 rel s
  | .loopeRel8 rel => Sys2Proof.Machine.execLoopeRel8 rel s
  | .loopRel8 rel => Sys2Proof.Machine.execLoopRel8 rel s
  | .jcxzRel8 rel => Sys2Proof.Machine.execJcxzRel8 rel s
  | .inAlIb imm => Sys2Proof.Machine.execInAlIb imm s
  | .inEaxIb imm => Sys2Proof.Machine.execInEaxIb imm s
  | .outIbAl imm => Sys2Proof.Machine.execOutIbAl imm s
  | .outIbEax imm => Sys2Proof.Machine.execOutIbEax imm s
  | .callRel rel => Sys2Proof.Machine.execCallRel rel s
  | .jmpRel rel => Sys2Proof.Machine.execJmpRel rel s
  | .jmpFar off sel => Sys2Proof.Machine.execJmpFar off sel s
  | .jmpRel8 rel => Sys2Proof.Machine.execJmpRel8 rel s
  | .inAlDx => Sys2Proof.Machine.execInAlDx s
  | .inEaxDx => Sys2Proof.Machine.execInEaxDx s
  | .outDxAl => Sys2Proof.Machine.execOutDxAl s
  | .outDxEax => Sys2Proof.Machine.execOutDxEax s
  | .hlt => Sys2Proof.Machine.execHlt s
  | .cmc => Sys2Proof.Machine.execCmc s
  | .testEbIb e imm => Sys2Proof.Machine.execTestEbIb e imm s
  | .testEvIv e imm => Sys2Proof.Machine.execTestEvIv e imm s
  | .notEb e => Sys2Proof.Machine.execNotEb e s
  | .notEv e => Sys2Proof.Machine.execNotEv e s
  | .negEb e => Sys2Proof.Machine.execNegEb e s
  | .negEv e => Sys2Proof.Machine.execNegEv e s
  | .mulEb e => Sys2Proof.Machine.execMulEb e s
  | .mulEv e => Sys2Proof.Machine.execMulEv e s
  | .imulEb e => Sys2Proof.Machine.execImulEb e s
  | .imulEv e => Sys2Proof.Machine.execImulEv e s
  | .divEb e => Sys2Proof.Machine.execDivEb e s
  | .divEv e => Sys2Proof.Machine.execDivEv e s
  | .idivEb e => Sys2Proof.Machine.execIdivEb e s
  | .idivEv e => Sys2Proof.Machine.execIdivEv e s
  | .clc => Sys2Proof.Machine.execClc s
  | .stc => Sys2Proof.Machine.execStc s
  | .cli => Sys2Proof.Machine.execCli s
  | .sti => Sys2Proof.Machine.execSti s
  | .cld => Sys2Proof.Machine.execCld s
  | .std => Sys2Proof.Machine.execStd s
  | .incEb e => Sys2Proof.Machine.execIncEb e s
  | .decEb e => Sys2Proof.Machine.execDecEb e s
  | .incEv e => Sys2Proof.Machine.execIncEv e s
  | .decEv e => Sys2Proof.Machine.execDecEv e s
  | .callNearEv e => Sys2Proof.Machine.execCallNearEv e s
  | .callFarMp m => Sys2Proof.Machine.execCallFarMp m s
  | .jmpNearEv e => Sys2Proof.Machine.execJmpNearEv e s
  | .jmpFarMp m => Sys2Proof.Machine.execJmpFarMp m s
  | .pushEv e => Sys2Proof.Machine.execPushEv e s
  | .sldtEw e => Sys2Proof.Machine.execSldtEw e s
  | .strEw e => Sys2Proof.Machine.execStrEw e s
  | .lldtEw e => Sys2Proof.Machine.execLldtEw e s
  | .ltrEw e => Sys2Proof.Machine.execLtrEw e s
  | .verrEw e => Sys2Proof.Machine.execVerrEw e s
  | .verwEw e => Sys2Proof.Machine.execVerwEw e s
  | .sgdtMs m => Sys2Proof.Machine.execSgdtMs m s
  | .sidtMs m => Sys2Proof.Machine.execSidtMs m s
  | .lgdtMs m => Sys2Proof.Machine.execLgdtMs m s
  | .lidtMs m => Sys2Proof.Machine.execLidtMs m s
  | .smswEw e => Sys2Proof.Machine.execSmswEw e s
  | .lmswEw e => Sys2Proof.Machine.execLmswEw e s
  | .larGvEw g e => Sys2Proof.Machine.execLarGvEw g e s
  | .lslGvEw g e => Sys2Proof.Machine.execLslGvEw g e s
  | .clts => Sys2Proof.Machine.execClts s
  | .movRCr md n r => Sys2Proof.Machine.execMovRCr md n r s
  | .movCrR md n r => Sys2Proof.Machine.execMovCrR md n r s
  | .movRDr md n r => Sys2Proof.Machine.execMovRDr md n r s
  | .movDrR md n r => Sys2Proof.Machine.execMovDrR md n r s
  | .movRTr md n r => Sys2Proof.Machine.execMovRTr md n r s
  | .movTrR md n r => Sys2Proof.Machine.execMovTrR md n r s
  | .jccRel cc rel => Sys2Proof.Machine.execJccRel cc rel s
  | .setccEb cc x e => Sys2Proof.Machine.execSetccEb cc x e s
  | .btEvGv e g => Sys2Proof.Machine.execBtEvGv e g s
  | .btsEvGv e g => Sys2Proof.Machine.execBtsEvGv e g s
  | .btrEvGv e g => Sys2Proof.Machine.execBtrEvGv e g s
  | .btcEvGv e g => Sys2Proof.Machine.execBtcEvGv e g s
  | .shldEvGvIb e g imm => Sys2Proof.Machine.execShldEvGvIb e g imm s
  | .shldEvGvCl e g => Sys2Proof.Machine.execShldEvGvCl e g s
  | .shrdEvGvIb e g imm => Sys2Proof.Machine.execShrdEvGvIb e g imm s
  | .shrdEvGvCl e g => Sys2Proof.Machine.execShrdEvGvCl e g s
  | .imulGvEv g e => Sys2Proof.Machine.execImulGvEv g e s
  | .lssGvMp g m => Sys2Proof.Machine.execLssGvMp g m s
  | .lfsGvMp g m => Sys2Proof.Machine.execLfsGvMp g m s
  | .lgsGvMp g m => Sys2Proof.Machine.execLgsGvMp g m s
  | .movzxGvEb g e => Sys2Proof.Machine.execMovzxGvEb g e s
  | .movzxGvEw g e => Sys2Proof.Machine.execMovzxGvEw g e s
  | .btEvIb e imm => Sys2Proof.Machine.execBtEvIb e imm s
  | .btsEvIb e imm => Sys2Proof.Machine.execBtsEvIb e imm s
  | .btrEvIb e imm => Sys2Proof.Machine.execBtrEvIb e imm s
  | .btcEvIb e imm => Sys2Proof.Machine.execBtcEvIb e imm s
  | .bsfGvEv g e => Sys2Proof.Machine.execBsfGvEv g e s
  | .bsrGvEv g e => Sys2Proof.Machine.execBsrGvEv g e s
  | .movsxGvEb g e => Sys2Proof.Machine.execMovsxGvEb g e s
  | .movsxGvEw g e => Sys2Proof.Machine.execMovsxGvEw g e s
  | .ud82 => Sys2Proof.Machine.execUd82 s
  | .udD6 => Sys2Proof.Machine.execUdD6 s
  | .udF1 => Sys2Proof.Machine.execUdF1 s
  | .udC0s6 => Sys2Proof.Machine.execUdC0s6 s
  | .udC1s6 => Sys2Proof.Machine.execUdC1s6 s
  | .udD0s6 => Sys2Proof.Machine.execUdD0s6 s
  | .udD1s6 => Sys2Proof.Machine.execUdD1s6 s
  | .udD2s6 => Sys2Proof.Machine.execUdD2s6 s
  | .udD3s6 => Sys2Proof.Machine.execUdD3s6 s
  | .udF6s1 => Sys2Proof.Machine.execUdF6s1 s
  | .udF7s1 => Sys2Proof.Machine.execUdF7s1 s
  | .udFEs2 => Sys2Proof.Machine.execUdFEs2 s
  | .udFEs3 => Sys2Proof.Machine.execUdFEs3 s
  | .udFEs4 => Sys2Proof.Machine.execUdFEs4 s
  | .udFEs5 => Sys2Proof.Machine.execUdFEs5 s
  | .udFEs6 => Sys2Proof.Machine.execUdFEs6 s
  | .udFEs7 => Sys2Proof.Machine.execUdFEs7 s
  | .udFFs7 => Sys2Proof.Machine.execUdFFs7 s
  | .ud8Fs1 => Sys2Proof.Machine.execUd8Fs1 s
  | .udC6s1 => Sys2Proof.Machine.execUdC6s1 s
  | .udC7s1 => Sys2Proof.Machine.execUdC7s1 s
  | .ud8Fs2 => Sys2Proof.Machine.execUd8Fs2 s
  | .udC6s2 => Sys2Proof.Machine.execUdC6s2 s
  | .udC7s2 => Sys2Proof.Machine.execUdC7s2 s
  | .ud8Fs3 => Sys2Proof.Machine.execUd8Fs3 s
  | .udC6s3 => Sys2Proof.Machine.execUdC6s3 s
  | .udC7s3 => Sys2Proof.Machine.execUdC7s3 s
  | .ud8Fs4 => Sys2Proof.Machine.execUd8Fs4 s
  | .udC6s4 => Sys2Proof.Machine.execUdC6s4 s
  | .udC7s4 => Sys2Proof.Machine.execUdC7s4 s
  | .ud8Fs5 => Sys2Proof.Machine.execUd8Fs5 s
  | .udC6s5 => Sys2Proof.Machine.execUdC6s5 s
  | .udC7s5 => Sys2Proof.Machine.execUdC7s5 s
  | .ud8Fs6 => Sys2Proof.Machine.execUd8Fs6 s
  | .udC6s6 => Sys2Proof.Machine.execUdC6s6 s
  | .udC7s6 => Sys2Proof.Machine.execUdC7s6 s
  | .ud8Fs7 => Sys2Proof.Machine.execUd8Fs7 s
  | .udC6s7 => Sys2Proof.Machine.execUdC6s7 s
  | .udC7s7 => Sys2Proof.Machine.execUdC7s7 s
  | .ud0F00s6 => Sys2Proof.Machine.execUd0F00s6 s
  | .ud0F00s7 => Sys2Proof.Machine.execUd0F00s7 s
  | .ud0F01s5 => Sys2Proof.Machine.execUd0F01s5 s
  | .ud0F01s7 => Sys2Proof.Machine.execUd0F01s7 s
  | .ud0FBAs0 => Sys2Proof.Machine.execUd0FBAs0 s
  | .ud0FBAs1 => Sys2Proof.Machine.execUd0FBAs1 s
  | .ud0FBAs2 => Sys2Proof.Machine.execUd0FBAs2 s
  | .ud0FBAs3 => Sys2Proof.Machine.execUd0FBAs3 s
  | .ud0FA6 => Sys2Proof.Machine.execUd0FA6 s
  | .ud0FA7 => Sys2Proof.Machine.execUd0FA7 s

end Sys2Proof.Machine
end

