-- ==== Sys2Proof/WellFormed.lean ====
section
/-! DEFINITION. When a term of `Instr` stands for an encoding at a given operand and address size (30_encoding.md R279 to R288). -/

namespace Sys2Proof

/-- An `OS`-bit immediate held in 32 bits. -/
def wfSized (c : Ctx) (v : Word32) : Bool := c.os32 || v.toNat < 0x10000

/-- An `AS`-bit offset held in 32 bits. -/
def wfOffset (c : Ctx) (v : Word32) : Bool := c.as32 || v.toNat < 0x10000

/-- A memory form exists at the address size in force, and its displacement has an encoding (30_encoding.md R279, R280). -/
def wfMem (c : Ctx) : Mem → Bool
  | .direct16 _ => !c.as32
  | .based16 b d => !c.as32 && (b != .bp || d != .none)
  | .direct32 _ => c.as32
  | .based32 b d => c.as32 && b != .esp && (b != .ebp || d != .none)
  | .sib _ _ b d => c.as32 && (b != .ebp || d != .none)
  | .sibNoBase _ _ _ => c.as32

/-- A register operand always exists; a memory operand by `wfMem`. -/
def wfRm {α : Type} (c : Ctx) : Rm α → Bool
  | .reg _ => true
  | .mem m => wfMem c m

/-- The well-formed instructions at operand size and address size `c`. -/
def Instr.wf (c : Ctx) (i : Instr) : Bool :=
  match i with
  | .addEbGb e _ => wfRm c e
  | .addEvGv e _ => wfRm c e
  | .addGbEb _ e => wfRm c e
  | .addGvEv _ e => wfRm c e
  | .addAlIb _ => true
  | .addEaxIv imm => wfSized c imm
  | .addEbIb e _ => wfRm c e
  | .addEvIv e imm => wfRm c e && wfSized c imm
  | .addEvIbs e _ => wfRm c e
  | .orEbGb e _ => wfRm c e
  | .orEvGv e _ => wfRm c e
  | .orGbEb _ e => wfRm c e
  | .orGvEv _ e => wfRm c e
  | .orAlIb _ => true
  | .orEaxIv imm => wfSized c imm
  | .orEbIb e _ => wfRm c e
  | .orEvIv e imm => wfRm c e && wfSized c imm
  | .orEvIbs e _ => wfRm c e
  | .adcEbGb e _ => wfRm c e
  | .adcEvGv e _ => wfRm c e
  | .adcGbEb _ e => wfRm c e
  | .adcGvEv _ e => wfRm c e
  | .adcAlIb _ => true
  | .adcEaxIv imm => wfSized c imm
  | .adcEbIb e _ => wfRm c e
  | .adcEvIv e imm => wfRm c e && wfSized c imm
  | .adcEvIbs e _ => wfRm c e
  | .sbbEbGb e _ => wfRm c e
  | .sbbEvGv e _ => wfRm c e
  | .sbbGbEb _ e => wfRm c e
  | .sbbGvEv _ e => wfRm c e
  | .sbbAlIb _ => true
  | .sbbEaxIv imm => wfSized c imm
  | .sbbEbIb e _ => wfRm c e
  | .sbbEvIv e imm => wfRm c e && wfSized c imm
  | .sbbEvIbs e _ => wfRm c e
  | .andEbGb e _ => wfRm c e
  | .andEvGv e _ => wfRm c e
  | .andGbEb _ e => wfRm c e
  | .andGvEv _ e => wfRm c e
  | .andAlIb _ => true
  | .andEaxIv imm => wfSized c imm
  | .andEbIb e _ => wfRm c e
  | .andEvIv e imm => wfRm c e && wfSized c imm
  | .andEvIbs e _ => wfRm c e
  | .subEbGb e _ => wfRm c e
  | .subEvGv e _ => wfRm c e
  | .subGbEb _ e => wfRm c e
  | .subGvEv _ e => wfRm c e
  | .subAlIb _ => true
  | .subEaxIv imm => wfSized c imm
  | .subEbIb e _ => wfRm c e
  | .subEvIv e imm => wfRm c e && wfSized c imm
  | .subEvIbs e _ => wfRm c e
  | .xorEbGb e _ => wfRm c e
  | .xorEvGv e _ => wfRm c e
  | .xorGbEb _ e => wfRm c e
  | .xorGvEv _ e => wfRm c e
  | .xorAlIb _ => true
  | .xorEaxIv imm => wfSized c imm
  | .xorEbIb e _ => wfRm c e
  | .xorEvIv e imm => wfRm c e && wfSized c imm
  | .xorEvIbs e _ => wfRm c e
  | .cmpEbGb e _ => wfRm c e
  | .cmpEvGv e _ => wfRm c e
  | .cmpGbEb _ e => wfRm c e
  | .cmpGvEv _ e => wfRm c e
  | .cmpAlIb _ => true
  | .cmpEaxIv imm => wfSized c imm
  | .cmpEbIb e _ => wfRm c e
  | .cmpEvIv e imm => wfRm c e && wfSized c imm
  | .cmpEvIbs e _ => wfRm c e
  | .pushEs => true
  | .pushCs => true
  | .pushSs => true
  | .pushDs => true
  | .popEs => true
  | .popSs => true
  | .popDs => true
  | .pushFs => true
  | .popFs => true
  | .pushGs => true
  | .popGs => true
  | .segEs => true
  | .segCs => true
  | .segSs => true
  | .segDs => true
  | .segFs => true
  | .segGs => true
  | .opSize => true
  | .adSize => true
  | .lock => true
  | .repne => true
  | .rep => true
  | .daa => true
  | .das => true
  | .aaa => true
  | .aas => true
  | .aamIb _ => true
  | .aadIb _ => true
  | .incR _ => true
  | .decR _ => true
  | .pushR _ => true
  | .popR _ => true
  | .pusha => true
  | .popa => true
  | .boundGvMa _ m => wfMem c m
  | .arplEwGw e _ => wfRm c e
  | .pushIv imm => wfSized c imm
  | .pushIbs _ => true
  | .imulGvEvIv _ e imm => wfRm c e && wfSized c imm
  | .imulGvEvIb _ e _ => wfRm c e
  | .insb => true
  | .insw => true
  | .outsb => true
  | .outsw => true
  | .jccRel8 _ _ => true
  | .testEbGb e _ => wfRm c e
  | .testEvGv e _ => wfRm c e
  | .xchgEbGb e _ => wfRm c e
  | .xchgEvGv e _ => wfRm c e
  | .movEbGb e _ => wfRm c e
  | .movEvGv e _ => wfRm c e
  | .movGbEb _ e => wfRm c e
  | .movGvEv _ e => wfRm c e
  | .movEwSreg e _ => wfRm c e
  | .leaGvM _ m => wfMem c m
  | .movSregEw sr e => wfRm c e && sr != .cs
  | .popEv e => wfRm c e
  | .nop => true
  | .xchgEaxR r => r != .eax
  | .cbw => true
  | .cwd => true
  | .callFar off _ => wfSized c off
  | .wait => true
  | .pushf => true
  | .popf => true
  | .sahf => true
  | .lahf => true
  | .movAlOb off => wfOffset c off
  | .movEaxOv off => wfOffset c off
  | .movObAl off => wfOffset c off
  | .movOvEax off => wfOffset c off
  | .movsb => true
  | .movsw => true
  | .cmpsb => true
  | .cmpsw => true
  | .testAlIb _ => true
  | .testEaxIv imm => wfSized c imm
  | .stosb => true
  | .stosw => true
  | .lodsb => true
  | .lodsw => true
  | .scasb => true
  | .scasw => true
  | .movR8Ib _ _ => true
  | .movRIv _ imm => wfSized c imm
  | .rolEbIb e _ => wfRm c e
  | .rolEvIb e _ => wfRm c e
  | .rolEb1 e => wfRm c e
  | .rolEv1 e => wfRm c e
  | .rolEbCl e => wfRm c e
  | .rolEvCl e => wfRm c e
  | .rorEbIb e _ => wfRm c e
  | .rorEvIb e _ => wfRm c e
  | .rorEb1 e => wfRm c e
  | .rorEv1 e => wfRm c e
  | .rorEbCl e => wfRm c e
  | .rorEvCl e => wfRm c e
  | .rclEbIb e _ => wfRm c e
  | .rclEvIb e _ => wfRm c e
  | .rclEb1 e => wfRm c e
  | .rclEv1 e => wfRm c e
  | .rclEbCl e => wfRm c e
  | .rclEvCl e => wfRm c e
  | .rcrEbIb e _ => wfRm c e
  | .rcrEvIb e _ => wfRm c e
  | .rcrEb1 e => wfRm c e
  | .rcrEv1 e => wfRm c e
  | .rcrEbCl e => wfRm c e
  | .rcrEvCl e => wfRm c e
  | .shlEbIb e _ => wfRm c e
  | .shlEvIb e _ => wfRm c e
  | .shlEb1 e => wfRm c e
  | .shlEv1 e => wfRm c e
  | .shlEbCl e => wfRm c e
  | .shlEvCl e => wfRm c e
  | .shrEbIb e _ => wfRm c e
  | .shrEvIb e _ => wfRm c e
  | .shrEb1 e => wfRm c e
  | .shrEv1 e => wfRm c e
  | .shrEbCl e => wfRm c e
  | .shrEvCl e => wfRm c e
  | .sarEbIb e _ => wfRm c e
  | .sarEvIb e _ => wfRm c e
  | .sarEb1 e => wfRm c e
  | .sarEv1 e => wfRm c e
  | .sarEbCl e => wfRm c e
  | .sarEvCl e => wfRm c e
  | .retNearIw _ => true
  | .retNear => true
  | .lesGvMp _ m => wfMem c m
  | .ldsGvMp _ m => wfMem c m
  | .movEbIb e _ => wfRm c e
  | .movEvIv e imm => wfRm c e && wfSized c imm
  | .enterIwIb _ _ => true
  | .leave => true
  | .retFarIw _ => true
  | .retFar => true
  | .int3 => true
  | .intIb _ => true
  | .into => true
  | .iret => true
  | .xlat => true
  | .esc _ _ e => wfRm c e
  | .loopneRel8 _ => true
  | .loopeRel8 _ => true
  | .loopRel8 _ => true
  | .jcxzRel8 _ => true
  | .inAlIb _ => true
  | .inEaxIb _ => true
  | .outIbAl _ => true
  | .outIbEax _ => true
  | .callRel rel => wfSized c rel
  | .jmpRel rel => wfSized c rel
  | .jmpFar off _ => wfSized c off
  | .jmpRel8 _ => true
  | .inAlDx => true
  | .inEaxDx => true
  | .outDxAl => true
  | .outDxEax => true
  | .hlt => true
  | .cmc => true
  | .testEbIb e _ => wfRm c e
  | .testEvIv e imm => wfRm c e && wfSized c imm
  | .notEb e => wfRm c e
  | .notEv e => wfRm c e
  | .negEb e => wfRm c e
  | .negEv e => wfRm c e
  | .mulEb e => wfRm c e
  | .mulEv e => wfRm c e
  | .imulEb e => wfRm c e
  | .imulEv e => wfRm c e
  | .divEb e => wfRm c e
  | .divEv e => wfRm c e
  | .idivEb e => wfRm c e
  | .idivEv e => wfRm c e
  | .clc => true
  | .stc => true
  | .cli => true
  | .sti => true
  | .cld => true
  | .std => true
  | .incEb e => wfRm c e
  | .decEb e => wfRm c e
  | .incEv e => wfRm c e
  | .decEv e => wfRm c e
  | .callNearEv e => wfRm c e
  | .callFarMp m => wfMem c m
  | .jmpNearEv e => wfRm c e
  | .jmpFarMp m => wfMem c m
  | .pushEv e => wfRm c e
  | .sldtEw e => wfRm c e
  | .strEw e => wfRm c e
  | .lldtEw e => wfRm c e
  | .ltrEw e => wfRm c e
  | .verrEw e => wfRm c e
  | .verwEw e => wfRm c e
  | .sgdtMs m => wfMem c m
  | .sidtMs m => wfMem c m
  | .lgdtMs m => wfMem c m
  | .lidtMs m => wfMem c m
  | .smswEw e => wfRm c e
  | .lmswEw e => wfRm c e
  | .larGvEw _ e => wfRm c e
  | .lslGvEw _ e => wfRm c e
  | .clts => true
  | .movRCr _ _ _ => true
  | .movCrR _ _ _ => true
  | .movRDr _ _ _ => true
  | .movDrR _ _ _ => true
  | .movRTr _ _ _ => true
  | .movTrR _ _ _ => true
  | .jccRel _ rel => wfSized c rel
  | .setccEb _ _ e => wfRm c e
  | .btEvGv e _ => wfRm c e
  | .btsEvGv e _ => wfRm c e
  | .btrEvGv e _ => wfRm c e
  | .btcEvGv e _ => wfRm c e
  | .shldEvGvIb e _ _ => wfRm c e
  | .shldEvGvCl e _ => wfRm c e
  | .shrdEvGvIb e _ _ => wfRm c e
  | .shrdEvGvCl e _ => wfRm c e
  | .imulGvEv _ e => wfRm c e
  | .lssGvMp _ m => wfMem c m
  | .lfsGvMp _ m => wfMem c m
  | .lgsGvMp _ m => wfMem c m
  | .movzxGvEb _ e => wfRm c e
  | .movzxGvEw _ e => wfRm c e
  | .btEvIb e _ => wfRm c e
  | .btsEvIb e _ => wfRm c e
  | .btrEvIb e _ => wfRm c e
  | .btcEvIb e _ => wfRm c e
  | .bsfGvEv _ e => wfRm c e
  | .bsrGvEv _ e => wfRm c e
  | .movsxGvEb _ e => wfRm c e
  | .movsxGvEw _ e => wfRm c e
  | .ud82 => true
  | .udD6 => true
  | .udF1 => true
  | .udC0s6 => true
  | .udC1s6 => true
  | .udD0s6 => true
  | .udD1s6 => true
  | .udD2s6 => true
  | .udD3s6 => true
  | .udF6s1 => true
  | .udF7s1 => true
  | .udFEs2 => true
  | .udFEs3 => true
  | .udFEs4 => true
  | .udFEs5 => true
  | .udFEs6 => true
  | .udFEs7 => true
  | .udFFs7 => true
  | .ud8Fs1 => true
  | .udC6s1 => true
  | .udC7s1 => true
  | .ud8Fs2 => true
  | .udC6s2 => true
  | .udC7s2 => true
  | .ud8Fs3 => true
  | .udC6s3 => true
  | .udC7s3 => true
  | .ud8Fs4 => true
  | .udC6s4 => true
  | .udC7s4 => true
  | .ud8Fs5 => true
  | .udC6s5 => true
  | .udC7s5 => true
  | .ud8Fs6 => true
  | .udC6s6 => true
  | .udC7s6 => true
  | .ud8Fs7 => true
  | .udC6s7 => true
  | .udC7s7 => true
  | .ud0F00s6 => true
  | .ud0F00s7 => true
  | .ud0F01s5 => true
  | .ud0F01s7 => true
  | .ud0FBAs0 => true
  | .ud0FBAs1 => true
  | .ud0FBAs2 => true
  | .ud0FBAs3 => true
  | .ud0FA6 => true
  | .ud0FA7 => true

end Sys2Proof
end

