-- ==== Sys2Proof/Decode.lean ====
section
/-! DEFINITION. The decoder, total on any bytes, and the encoder, both written from 30_encoding.md R265 to R291. A decoder that needs one more byte says so (`Dec.need`), so the machine can fetch an instruction byte by byte and fault at the byte the spec says. -/

namespace Sys2Proof

/-- A decoder in progress: an instruction, one more byte wanted, or an encoding that is not assigned (30_encoding.md R295). -/
inductive Dec where
  | done (i : Instr)
  | need (k : Byte → Dec)
  | bad

/-- Run a decoder on bytes: the instruction and the bytes after it. -/
def Dec.run : Dec → List Byte → Option (Instr × List Byte)
  | .done i, bs => some (i, bs)
  | .need k, b :: bs => (k b).run bs
  | .need _, [] => none
  | .bad, _ => none

/-- The register with an encoding number (10_state.md R31). -/
def Reg.ofCode (x : BitVec 3) : Reg :=
  match x.toNat with
  | 0 => .eax | 1 => .ecx | 2 => .edx | 3 => .ebx | 4 => .esp | 5 => .ebp | 6 => .esi | _ => .edi

/-- The encoding number of a register. -/
def Reg.code : Reg → BitVec 3
  | .eax => 0 | .ecx => 1 | .edx => 2 | .ebx => 3 | .esp => 4 | .ebp => 5 | .esi => 6 | .edi => 7

/-- The 8-bit view with an encoding number (10_state.md R31). -/
def Reg8.ofCode (x : BitVec 3) : Reg8 :=
  match x.toNat with
  | 0 => .al | 1 => .cl | 2 => .dl | 3 => .bl | 4 => .ah | 5 => .ch | 6 => .dh | _ => .bh

/-- The encoding number of an 8-bit view. -/
def Reg8.code : Reg8 → BitVec 3
  | .al => 0 | .cl => 1 | .dl => 2 | .bl => 3 | .ah => 4 | .ch => 5 | .dh => 6 | .bh => 7

/-- The segment register with a number; 6 and 7 name none (30_encoding.md R288). -/
def SegReg.ofCode? (x : BitVec 3) : Option SegReg :=
  match x.toNat with
  | 0 => some .es | 1 => some .cs | 2 => some .ss | 3 => some .ds | 4 => some .fs | 5 => some .gs | _ => none

/-- The number of a segment register. -/
def SegReg.code : SegReg → BitVec 3
  | .es => 0 | .cs => 1 | .ss => 2 | .ds => 3 | .fs => 4 | .gs => 5

/-- The field `tttn` of a condition (45_control_transfer.md R492). -/
def Cond.code : Cond → BitVec 4
  | .o => 0 | .no => 1 | .b => 2 | .nb => 3 | .z => 4 | .nz => 5 | .be => 6 | .nbe => 7
  | .s => 8 | .ns => 9 | .p => 10 | .np => 11 | .l => 12 | .nl => 13 | .le => 14 | .nle => 15

/-- The 16-bit base and index combination of an `rm` field (30_encoding.md R279). -/
def Base16.ofCode (x : BitVec 3) : Base16 :=
  match x.toNat with
  | 0 => .bxSi | 1 => .bxDi | 2 => .bpSi | 3 => .bpDi | 4 => .si | 5 => .di | 6 => .bp | _ => .bx

/-- The `rm` field of a 16-bit base and index combination. -/
def Base16.code : Base16 → BitVec 3
  | .bxSi => 0 | .bxDi => 1 | .bpSi => 2 | .bpDi => 3 | .si => 4 | .di => 5 | .bp => 6 | .bx => 7

/-- A 16-bit value, low byte first (20_memory.md R101). -/
def imm16 (k : Word16 → Dec) : Dec := .need fun b0 => .need fun b1 => k (b1 ++ b0)

/-- A 32-bit value, low byte first. -/
def imm32 (k : Word32 → Dec) : Dec :=
  .need fun b0 => .need fun b1 => .need fun b2 => .need fun b3 => k (b3 ++ b2 ++ b1 ++ b0)

/-- An `OS`-bit immediate (30_encoding.md R285). -/
def immV (c : Ctx) (k : Word32 → Dec) : Dec :=
  if c.os32 then imm32 k else imm16 fun v => k (v.setWidth 32)

/-- An `AS`-bit direct offset (30_encoding.md R286). -/
def offV (c : Ctx) (k : Word32 → Dec) : Dec :=
  if c.as32 then imm32 k else imm16 fun v => k (v.setWidth 32)

/-- The ModRM byte as `mod`, `reg`, `rm` (30_encoding.md R277). -/
def modrm (k : BitVec 2 → BitVec 3 → BitVec 3 → Dec) : Dec :=
  .need fun b => k (b.extractLsb' 6 2) (b.extractLsb' 3 3) (b.extractLsb' 0 3)

/-- The memory operand of 16-bit addressing (30_encoding.md R279). -/
def mem16 (md : BitVec 2) (rm : BitVec 3) (k : Mem → Dec) : Dec :=
  match md.toNat with
  | 0 => if rm = 6 then imm16 fun d => k (.direct16 d) else k (.based16 (Base16.ofCode rm) .none)
  | 1 => .need fun d => k (.based16 (Base16.ofCode rm) (.d8 d))
  | _ => imm16 fun d => k (.based16 (Base16.ofCode rm) (.d16 d))

/-- The displacement that `mod` announces in 32-bit addressing. -/
def disp32 (md : BitVec 2) (k : Disp32 → Dec) : Dec :=
  match md.toNat with
  | 0 => k .none
  | 1 => .need fun d => k (.d8 d)
  | _ => imm32 fun d => k (.d32 d)

/-- The SIB byte and what follows it (30_encoding.md R280). -/
def sibByte (md : BitVec 2) (k : Mem → Dec) : Dec :=
  .need fun b =>
    let index := Reg.ofCode (b.extractLsb' 3 3)
    if md = 0 ∧ b.extractLsb' 0 3 = 5 then
      imm32 fun d => k (.sibNoBase (b.extractLsb' 6 2) index d)
    else
      disp32 md fun d => k (.sib (b.extractLsb' 6 2) index (Reg.ofCode (b.extractLsb' 0 3)) d)

/-- The memory operand of 32-bit addressing (30_encoding.md R280). -/
def mem32 (md : BitVec 2) (rm : BitVec 3) (k : Mem → Dec) : Dec :=
  if rm = 4 then sibByte md k
  else if md = 0 ∧ rm = 5 then imm32 fun d => k (.direct32 d)
  else disp32 md fun d => k (.based32 (Reg.ofCode rm) d)

/-- The memory operand of a ModRM byte; a register form raises UD (30_encoding.md R283). -/
def withMem (c : Ctx) (md : BitVec 2) (rm : BitVec 3) (k : Mem → Dec) : Dec :=
  if md = 3 then .bad else if c.as32 then mem32 md rm k else mem16 md rm k

/-- The register or memory operand of a ModRM byte. -/
def withRm {α : Type} (c : Ctx) (ofCode : BitVec 3 → α) (md : BitVec 2) (rm : BitVec 3) (k : Rm α → Dec) : Dec :=
  if md = 3 then k (.reg (ofCode rm))
  else if c.as32 then mem32 md rm fun m => k (.mem m) else mem16 md rm fun m => k (.mem m)

/-- A segment register in the `reg` field; 6 and 7 raise UD (30_encoding.md R288). -/
def withSreg (reg : BitVec 3) (k : SegReg → Dec) : Dec :=
  match SegReg.ofCode? reg with
  | some r => k r
  | none => .bad

/-- A segment register that MOV can load: CS raises UD too (40_data_transfer.md R327). -/
def withLoadSreg (reg : BitVec 3) (k : SegReg → Dec) : Dec :=
  withSreg reg fun r => if r = .cs then .bad else k r

/-- The decoder of an opcode byte in a table of sixteen rows of sixteen. -/
def entry (rows : List (List (Ctx → Dec))) (b : Byte) : Ctx → Dec :=
  (rows.getD (b.toNat / 16) []).getD (b.toNat % 16) fun _ => .bad

/-- The group of opcode 0Fh 00h, by the ModRM `reg` field. -/
def group0F00 (c : Ctx) : Dec := modrm fun md reg rm =>
  match reg.toNat with
  | 0 => withRm c Reg.ofCode md rm fun e => .done (.sldtEw e)
  | 1 => withRm c Reg.ofCode md rm fun e => .done (.strEw e)
  | 2 => withRm c Reg.ofCode md rm fun e => .done (.lldtEw e)
  | 3 => withRm c Reg.ofCode md rm fun e => .done (.ltrEw e)
  | 4 => withRm c Reg.ofCode md rm fun e => .done (.verrEw e)
  | 5 => withRm c Reg.ofCode md rm fun e => .done (.verwEw e)
  | 6 => .done .ud0F00s6
  | _ => .done .ud0F00s7

/-- The group of opcode 0Fh 01h, by the ModRM `reg` field. -/
def group0F01 (c : Ctx) : Dec := modrm fun md reg rm =>
  match reg.toNat with
  | 0 => withMem c md rm fun m => .done (.sgdtMs m)
  | 1 => withMem c md rm fun m => .done (.sidtMs m)
  | 2 => withMem c md rm fun m => .done (.lgdtMs m)
  | 3 => withMem c md rm fun m => .done (.lidtMs m)
  | 4 => withRm c Reg.ofCode md rm fun e => .done (.smswEw e)
  | 5 => .done .ud0F01s5
  | 6 => withRm c Reg.ofCode md rm fun e => .done (.lmswEw e)
  | _ => .done .ud0F01s7

/-- The group of opcode 0Fh BAh, by the ModRM `reg` field. -/
def group0FBA (c : Ctx) : Dec := modrm fun md reg rm =>
  match reg.toNat with
  | 0 => .done .ud0FBAs0
  | 1 => .done .ud0FBAs1
  | 2 => .done .ud0FBAs2
  | 3 => .done .ud0FBAs3
  | 4 => withRm c Reg.ofCode md rm fun e => .need fun v => .done (.btEvIb e v)
  | 5 => withRm c Reg.ofCode md rm fun e => .need fun v => .done (.btsEvIb e v)
  | 6 => withRm c Reg.ofCode md rm fun e => .need fun v => .done (.btrEvIb e v)
  | _ => withRm c Reg.ofCode md rm fun e => .need fun v => .done (.btcEvIb e v)

/-- The group of opcode 80h, by the ModRM `reg` field. -/
def group80 (c : Ctx) : Dec := modrm fun md reg rm =>
  match reg.toNat with
  | 0 => withRm c Reg8.ofCode md rm fun e => .need fun v => .done (.addEbIb e v)
  | 1 => withRm c Reg8.ofCode md rm fun e => .need fun v => .done (.orEbIb e v)
  | 2 => withRm c Reg8.ofCode md rm fun e => .need fun v => .done (.adcEbIb e v)
  | 3 => withRm c Reg8.ofCode md rm fun e => .need fun v => .done (.sbbEbIb e v)
  | 4 => withRm c Reg8.ofCode md rm fun e => .need fun v => .done (.andEbIb e v)
  | 5 => withRm c Reg8.ofCode md rm fun e => .need fun v => .done (.subEbIb e v)
  | 6 => withRm c Reg8.ofCode md rm fun e => .need fun v => .done (.xorEbIb e v)
  | _ => withRm c Reg8.ofCode md rm fun e => .need fun v => .done (.cmpEbIb e v)

/-- The group of opcode 81h, by the ModRM `reg` field. -/
def group81 (c : Ctx) : Dec := modrm fun md reg rm =>
  match reg.toNat with
  | 0 => withRm c Reg.ofCode md rm fun e => immV c fun v => .done (.addEvIv e v)
  | 1 => withRm c Reg.ofCode md rm fun e => immV c fun v => .done (.orEvIv e v)
  | 2 => withRm c Reg.ofCode md rm fun e => immV c fun v => .done (.adcEvIv e v)
  | 3 => withRm c Reg.ofCode md rm fun e => immV c fun v => .done (.sbbEvIv e v)
  | 4 => withRm c Reg.ofCode md rm fun e => immV c fun v => .done (.andEvIv e v)
  | 5 => withRm c Reg.ofCode md rm fun e => immV c fun v => .done (.subEvIv e v)
  | 6 => withRm c Reg.ofCode md rm fun e => immV c fun v => .done (.xorEvIv e v)
  | _ => withRm c Reg.ofCode md rm fun e => immV c fun v => .done (.cmpEvIv e v)

/-- The group of opcode 83h, by the ModRM `reg` field. -/
def group83 (c : Ctx) : Dec := modrm fun md reg rm =>
  match reg.toNat with
  | 0 => withRm c Reg.ofCode md rm fun e => .need fun v => .done (.addEvIbs e v)
  | 1 => withRm c Reg.ofCode md rm fun e => .need fun v => .done (.orEvIbs e v)
  | 2 => withRm c Reg.ofCode md rm fun e => .need fun v => .done (.adcEvIbs e v)
  | 3 => withRm c Reg.ofCode md rm fun e => .need fun v => .done (.sbbEvIbs e v)
  | 4 => withRm c Reg.ofCode md rm fun e => .need fun v => .done (.andEvIbs e v)
  | 5 => withRm c Reg.ofCode md rm fun e => .need fun v => .done (.subEvIbs e v)
  | 6 => withRm c Reg.ofCode md rm fun e => .need fun v => .done (.xorEvIbs e v)
  | _ => withRm c Reg.ofCode md rm fun e => .need fun v => .done (.cmpEvIbs e v)

/-- The group of opcode 8Fh, by the ModRM `reg` field. -/
def group8F (c : Ctx) : Dec := modrm fun md reg rm =>
  match reg.toNat with
  | 0 => withRm c Reg.ofCode md rm fun e => .done (.popEv e)
  | 1 => .done .ud8Fs1
  | 2 => .done .ud8Fs2
  | 3 => .done .ud8Fs3
  | 4 => .done .ud8Fs4
  | 5 => .done .ud8Fs5
  | 6 => .done .ud8Fs6
  | _ => .done .ud8Fs7

/-- The group of opcode C0h, by the ModRM `reg` field. -/
def groupC0 (c : Ctx) : Dec := modrm fun md reg rm =>
  match reg.toNat with
  | 0 => withRm c Reg8.ofCode md rm fun e => .need fun v => .done (.rolEbIb e v)
  | 1 => withRm c Reg8.ofCode md rm fun e => .need fun v => .done (.rorEbIb e v)
  | 2 => withRm c Reg8.ofCode md rm fun e => .need fun v => .done (.rclEbIb e v)
  | 3 => withRm c Reg8.ofCode md rm fun e => .need fun v => .done (.rcrEbIb e v)
  | 4 => withRm c Reg8.ofCode md rm fun e => .need fun v => .done (.shlEbIb e v)
  | 5 => withRm c Reg8.ofCode md rm fun e => .need fun v => .done (.shrEbIb e v)
  | 6 => .done .udC0s6
  | _ => withRm c Reg8.ofCode md rm fun e => .need fun v => .done (.sarEbIb e v)

/-- The group of opcode C1h, by the ModRM `reg` field. -/
def groupC1 (c : Ctx) : Dec := modrm fun md reg rm =>
  match reg.toNat with
  | 0 => withRm c Reg.ofCode md rm fun e => .need fun v => .done (.rolEvIb e v)
  | 1 => withRm c Reg.ofCode md rm fun e => .need fun v => .done (.rorEvIb e v)
  | 2 => withRm c Reg.ofCode md rm fun e => .need fun v => .done (.rclEvIb e v)
  | 3 => withRm c Reg.ofCode md rm fun e => .need fun v => .done (.rcrEvIb e v)
  | 4 => withRm c Reg.ofCode md rm fun e => .need fun v => .done (.shlEvIb e v)
  | 5 => withRm c Reg.ofCode md rm fun e => .need fun v => .done (.shrEvIb e v)
  | 6 => .done .udC1s6
  | _ => withRm c Reg.ofCode md rm fun e => .need fun v => .done (.sarEvIb e v)

/-- The group of opcode C6h, by the ModRM `reg` field. -/
def groupC6 (c : Ctx) : Dec := modrm fun md reg rm =>
  match reg.toNat with
  | 0 => withRm c Reg8.ofCode md rm fun e => .need fun v => .done (.movEbIb e v)
  | 1 => .done .udC6s1
  | 2 => .done .udC6s2
  | 3 => .done .udC6s3
  | 4 => .done .udC6s4
  | 5 => .done .udC6s5
  | 6 => .done .udC6s6
  | _ => .done .udC6s7

/-- The group of opcode C7h, by the ModRM `reg` field. -/
def groupC7 (c : Ctx) : Dec := modrm fun md reg rm =>
  match reg.toNat with
  | 0 => withRm c Reg.ofCode md rm fun e => immV c fun v => .done (.movEvIv e v)
  | 1 => .done .udC7s1
  | 2 => .done .udC7s2
  | 3 => .done .udC7s3
  | 4 => .done .udC7s4
  | 5 => .done .udC7s5
  | 6 => .done .udC7s6
  | _ => .done .udC7s7

/-- The group of opcode D0h, by the ModRM `reg` field. -/
def groupD0 (c : Ctx) : Dec := modrm fun md reg rm =>
  match reg.toNat with
  | 0 => withRm c Reg8.ofCode md rm fun e => .done (.rolEb1 e)
  | 1 => withRm c Reg8.ofCode md rm fun e => .done (.rorEb1 e)
  | 2 => withRm c Reg8.ofCode md rm fun e => .done (.rclEb1 e)
  | 3 => withRm c Reg8.ofCode md rm fun e => .done (.rcrEb1 e)
  | 4 => withRm c Reg8.ofCode md rm fun e => .done (.shlEb1 e)
  | 5 => withRm c Reg8.ofCode md rm fun e => .done (.shrEb1 e)
  | 6 => .done .udD0s6
  | _ => withRm c Reg8.ofCode md rm fun e => .done (.sarEb1 e)

/-- The group of opcode D1h, by the ModRM `reg` field. -/
def groupD1 (c : Ctx) : Dec := modrm fun md reg rm =>
  match reg.toNat with
  | 0 => withRm c Reg.ofCode md rm fun e => .done (.rolEv1 e)
  | 1 => withRm c Reg.ofCode md rm fun e => .done (.rorEv1 e)
  | 2 => withRm c Reg.ofCode md rm fun e => .done (.rclEv1 e)
  | 3 => withRm c Reg.ofCode md rm fun e => .done (.rcrEv1 e)
  | 4 => withRm c Reg.ofCode md rm fun e => .done (.shlEv1 e)
  | 5 => withRm c Reg.ofCode md rm fun e => .done (.shrEv1 e)
  | 6 => .done .udD1s6
  | _ => withRm c Reg.ofCode md rm fun e => .done (.sarEv1 e)

/-- The group of opcode D2h, by the ModRM `reg` field. -/
def groupD2 (c : Ctx) : Dec := modrm fun md reg rm =>
  match reg.toNat with
  | 0 => withRm c Reg8.ofCode md rm fun e => .done (.rolEbCl e)
  | 1 => withRm c Reg8.ofCode md rm fun e => .done (.rorEbCl e)
  | 2 => withRm c Reg8.ofCode md rm fun e => .done (.rclEbCl e)
  | 3 => withRm c Reg8.ofCode md rm fun e => .done (.rcrEbCl e)
  | 4 => withRm c Reg8.ofCode md rm fun e => .done (.shlEbCl e)
  | 5 => withRm c Reg8.ofCode md rm fun e => .done (.shrEbCl e)
  | 6 => .done .udD2s6
  | _ => withRm c Reg8.ofCode md rm fun e => .done (.sarEbCl e)

/-- The group of opcode D3h, by the ModRM `reg` field. -/
def groupD3 (c : Ctx) : Dec := modrm fun md reg rm =>
  match reg.toNat with
  | 0 => withRm c Reg.ofCode md rm fun e => .done (.rolEvCl e)
  | 1 => withRm c Reg.ofCode md rm fun e => .done (.rorEvCl e)
  | 2 => withRm c Reg.ofCode md rm fun e => .done (.rclEvCl e)
  | 3 => withRm c Reg.ofCode md rm fun e => .done (.rcrEvCl e)
  | 4 => withRm c Reg.ofCode md rm fun e => .done (.shlEvCl e)
  | 5 => withRm c Reg.ofCode md rm fun e => .done (.shrEvCl e)
  | 6 => .done .udD3s6
  | _ => withRm c Reg.ofCode md rm fun e => .done (.sarEvCl e)

/-- The group of opcode F6h, by the ModRM `reg` field. -/
def groupF6 (c : Ctx) : Dec := modrm fun md reg rm =>
  match reg.toNat with
  | 0 => withRm c Reg8.ofCode md rm fun e => .need fun v => .done (.testEbIb e v)
  | 1 => .done .udF6s1
  | 2 => withRm c Reg8.ofCode md rm fun e => .done (.notEb e)
  | 3 => withRm c Reg8.ofCode md rm fun e => .done (.negEb e)
  | 4 => withRm c Reg8.ofCode md rm fun e => .done (.mulEb e)
  | 5 => withRm c Reg8.ofCode md rm fun e => .done (.imulEb e)
  | 6 => withRm c Reg8.ofCode md rm fun e => .done (.divEb e)
  | _ => withRm c Reg8.ofCode md rm fun e => .done (.idivEb e)

/-- The group of opcode F7h, by the ModRM `reg` field. -/
def groupF7 (c : Ctx) : Dec := modrm fun md reg rm =>
  match reg.toNat with
  | 0 => withRm c Reg.ofCode md rm fun e => immV c fun v => .done (.testEvIv e v)
  | 1 => .done .udF7s1
  | 2 => withRm c Reg.ofCode md rm fun e => .done (.notEv e)
  | 3 => withRm c Reg.ofCode md rm fun e => .done (.negEv e)
  | 4 => withRm c Reg.ofCode md rm fun e => .done (.mulEv e)
  | 5 => withRm c Reg.ofCode md rm fun e => .done (.imulEv e)
  | 6 => withRm c Reg.ofCode md rm fun e => .done (.divEv e)
  | _ => withRm c Reg.ofCode md rm fun e => .done (.idivEv e)

/-- The group of opcode FEh, by the ModRM `reg` field. -/
def groupFE (c : Ctx) : Dec := modrm fun md reg rm =>
  match reg.toNat with
  | 0 => withRm c Reg8.ofCode md rm fun e => .done (.incEb e)
  | 1 => withRm c Reg8.ofCode md rm fun e => .done (.decEb e)
  | 2 => .done .udFEs2
  | 3 => .done .udFEs3
  | 4 => .done .udFEs4
  | 5 => .done .udFEs5
  | 6 => .done .udFEs6
  | _ => .done .udFEs7

/-- The group of opcode FFh, by the ModRM `reg` field. -/
def groupFF (c : Ctx) : Dec := modrm fun md reg rm =>
  match reg.toNat with
  | 0 => withRm c Reg.ofCode md rm fun e => .done (.incEv e)
  | 1 => withRm c Reg.ofCode md rm fun e => .done (.decEv e)
  | 2 => withRm c Reg.ofCode md rm fun e => .done (.callNearEv e)
  | 3 => withMem c md rm fun m => .done (.callFarMp m)
  | 4 => withRm c Reg.ofCode md rm fun e => .done (.jmpNearEv e)
  | 5 => withMem c md rm fun m => .done (.jmpFarMp m)
  | 6 => withRm c Reg.ofCode md rm fun e => .done (.pushEv e)
  | _ => .done .udFFs7

/-- Opcodes 0Fh 00h to 0Fh 0Fh. -/
def two0 : List (Ctx → Dec) := [
  group0F00,
  group0F01,
  fun c => modrm fun md reg rm => withRm c Reg.ofCode md rm fun e => .done (.larGvEw (Reg.ofCode reg) e),
  fun c => modrm fun md reg rm => withRm c Reg.ofCode md rm fun e => .done (.lslGvEw (Reg.ofCode reg) e),
  fun _ => .bad,
  fun _ => .bad,
  fun _ => .done .clts,
  fun _ => .bad,
  fun _ => .bad,
  fun _ => .bad,
  fun _ => .bad,
  fun _ => .bad,
  fun _ => .bad,
  fun _ => .bad,
  fun _ => .bad,
  fun _ => .bad]

/-- Opcodes 0Fh 10h to 0Fh 1Fh. -/
def two1 : List (Ctx → Dec) := [
  fun _ => .bad,
  fun _ => .bad,
  fun _ => .bad,
  fun _ => .bad,
  fun _ => .bad,
  fun _ => .bad,
  fun _ => .bad,
  fun _ => .bad,
  fun _ => .bad,
  fun _ => .bad,
  fun _ => .bad,
  fun _ => .bad,
  fun _ => .bad,
  fun _ => .bad,
  fun _ => .bad,
  fun _ => .bad]

/-- Opcodes 0Fh 20h to 0Fh 2Fh. The moves of control, debug and test registers ignore `mod` (47_os_support.md R552 and
the notes of their rows in spec/opcode_table.json). -/
def two2 : List (Ctx → Dec) := [
  fun _ => modrm fun md reg rm => .done (.movRCr md reg (Reg.ofCode rm)),
  fun _ => modrm fun md reg rm => .done (.movRDr md reg (Reg.ofCode rm)),
  fun _ => modrm fun md reg rm => .done (.movCrR md reg (Reg.ofCode rm)),
  fun _ => modrm fun md reg rm => .done (.movDrR md reg (Reg.ofCode rm)),
  fun _ => modrm fun md reg rm => .done (.movRTr md reg (Reg.ofCode rm)),
  fun _ => .bad,
  fun _ => modrm fun md reg rm => .done (.movTrR md reg (Reg.ofCode rm)),
  fun _ => .bad,
  fun _ => .bad,
  fun _ => .bad,
  fun _ => .bad,
  fun _ => .bad,
  fun _ => .bad,
  fun _ => .bad,
  fun _ => .bad,
  fun _ => .bad]

/-- Opcodes 0Fh 30h to 0Fh 3Fh. -/
def two3 : List (Ctx → Dec) := [
  fun _ => .bad,
  fun _ => .bad,
  fun _ => .bad,
  fun _ => .bad,
  fun _ => .bad,
  fun _ => .bad,
  fun _ => .bad,
  fun _ => .bad,
  fun _ => .bad,
  fun _ => .bad,
  fun _ => .bad,
  fun _ => .bad,
  fun _ => .bad,
  fun _ => .bad,
  fun _ => .bad,
  fun _ => .bad]

/-- Opcodes 0Fh 40h to 0Fh 4Fh. -/
def two4 : List (Ctx → Dec) := [
  fun _ => .bad,
  fun _ => .bad,
  fun _ => .bad,
  fun _ => .bad,
  fun _ => .bad,
  fun _ => .bad,
  fun _ => .bad,
  fun _ => .bad,
  fun _ => .bad,
  fun _ => .bad,
  fun _ => .bad,
  fun _ => .bad,
  fun _ => .bad,
  fun _ => .bad,
  fun _ => .bad,
  fun _ => .bad]

/-- Opcodes 0Fh 50h to 0Fh 5Fh. -/
def two5 : List (Ctx → Dec) := [
  fun _ => .bad,
  fun _ => .bad,
  fun _ => .bad,
  fun _ => .bad,
  fun _ => .bad,
  fun _ => .bad,
  fun _ => .bad,
  fun _ => .bad,
  fun _ => .bad,
  fun _ => .bad,
  fun _ => .bad,
  fun _ => .bad,
  fun _ => .bad,
  fun _ => .bad,
  fun _ => .bad,
  fun _ => .bad]

/-- Opcodes 0Fh 60h to 0Fh 6Fh. -/
def two6 : List (Ctx → Dec) := [
  fun _ => .bad,
  fun _ => .bad,
  fun _ => .bad,
  fun _ => .bad,
  fun _ => .bad,
  fun _ => .bad,
  fun _ => .bad,
  fun _ => .bad,
  fun _ => .bad,
  fun _ => .bad,
  fun _ => .bad,
  fun _ => .bad,
  fun _ => .bad,
  fun _ => .bad,
  fun _ => .bad,
  fun _ => .bad]

/-- Opcodes 0Fh 70h to 0Fh 7Fh. -/
def two7 : List (Ctx → Dec) := [
  fun _ => .bad,
  fun _ => .bad,
  fun _ => .bad,
  fun _ => .bad,
  fun _ => .bad,
  fun _ => .bad,
  fun _ => .bad,
  fun _ => .bad,
  fun _ => .bad,
  fun _ => .bad,
  fun _ => .bad,
  fun _ => .bad,
  fun _ => .bad,
  fun _ => .bad,
  fun _ => .bad,
  fun _ => .bad]

/-- Opcodes 0Fh 80h to 0Fh 8Fh. -/
def two8 : List (Ctx → Dec) := [
  fun c => immV c fun v => .done (.jccRel .o v),
  fun c => immV c fun v => .done (.jccRel .no v),
  fun c => immV c fun v => .done (.jccRel .b v),
  fun c => immV c fun v => .done (.jccRel .nb v),
  fun c => immV c fun v => .done (.jccRel .z v),
  fun c => immV c fun v => .done (.jccRel .nz v),
  fun c => immV c fun v => .done (.jccRel .be v),
  fun c => immV c fun v => .done (.jccRel .nbe v),
  fun c => immV c fun v => .done (.jccRel .s v),
  fun c => immV c fun v => .done (.jccRel .ns v),
  fun c => immV c fun v => .done (.jccRel .p v),
  fun c => immV c fun v => .done (.jccRel .np v),
  fun c => immV c fun v => .done (.jccRel .l v),
  fun c => immV c fun v => .done (.jccRel .nl v),
  fun c => immV c fun v => .done (.jccRel .le v),
  fun c => immV c fun v => .done (.jccRel .nle v)]

/-- Opcodes 0Fh 90h to 0Fh 9Fh. -/
def two9 : List (Ctx → Dec) := [
  fun c => modrm fun md reg rm => withRm c Reg8.ofCode md rm fun e => .done (.setccEb .o reg e),
  fun c => modrm fun md reg rm => withRm c Reg8.ofCode md rm fun e => .done (.setccEb .no reg e),
  fun c => modrm fun md reg rm => withRm c Reg8.ofCode md rm fun e => .done (.setccEb .b reg e),
  fun c => modrm fun md reg rm => withRm c Reg8.ofCode md rm fun e => .done (.setccEb .nb reg e),
  fun c => modrm fun md reg rm => withRm c Reg8.ofCode md rm fun e => .done (.setccEb .z reg e),
  fun c => modrm fun md reg rm => withRm c Reg8.ofCode md rm fun e => .done (.setccEb .nz reg e),
  fun c => modrm fun md reg rm => withRm c Reg8.ofCode md rm fun e => .done (.setccEb .be reg e),
  fun c => modrm fun md reg rm => withRm c Reg8.ofCode md rm fun e => .done (.setccEb .nbe reg e),
  fun c => modrm fun md reg rm => withRm c Reg8.ofCode md rm fun e => .done (.setccEb .s reg e),
  fun c => modrm fun md reg rm => withRm c Reg8.ofCode md rm fun e => .done (.setccEb .ns reg e),
  fun c => modrm fun md reg rm => withRm c Reg8.ofCode md rm fun e => .done (.setccEb .p reg e),
  fun c => modrm fun md reg rm => withRm c Reg8.ofCode md rm fun e => .done (.setccEb .np reg e),
  fun c => modrm fun md reg rm => withRm c Reg8.ofCode md rm fun e => .done (.setccEb .l reg e),
  fun c => modrm fun md reg rm => withRm c Reg8.ofCode md rm fun e => .done (.setccEb .nl reg e),
  fun c => modrm fun md reg rm => withRm c Reg8.ofCode md rm fun e => .done (.setccEb .le reg e),
  fun c => modrm fun md reg rm => withRm c Reg8.ofCode md rm fun e => .done (.setccEb .nle reg e)]

/-- Opcodes 0Fh A0h to 0Fh AFh. -/
def twoA : List (Ctx → Dec) := [
  fun _ => .done .pushFs,
  fun _ => .done .popFs,
  fun _ => .bad,
  fun c => modrm fun md reg rm => withRm c Reg.ofCode md rm fun e => .done (.btEvGv e (Reg.ofCode reg)),
  fun c => modrm fun md reg rm => withRm c Reg.ofCode md rm fun e => .need fun v => .done (.shldEvGvIb e (Reg.ofCode reg) v),
  fun c => modrm fun md reg rm => withRm c Reg.ofCode md rm fun e => .done (.shldEvGvCl e (Reg.ofCode reg)),
  fun _ => .done .ud0FA6,
  fun _ => .done .ud0FA7,
  fun _ => .done .pushGs,
  fun _ => .done .popGs,
  fun _ => .bad,
  fun c => modrm fun md reg rm => withRm c Reg.ofCode md rm fun e => .done (.btsEvGv e (Reg.ofCode reg)),
  fun c => modrm fun md reg rm => withRm c Reg.ofCode md rm fun e => .need fun v => .done (.shrdEvGvIb e (Reg.ofCode reg) v),
  fun c => modrm fun md reg rm => withRm c Reg.ofCode md rm fun e => .done (.shrdEvGvCl e (Reg.ofCode reg)),
  fun _ => .bad,
  fun c => modrm fun md reg rm => withRm c Reg.ofCode md rm fun e => .done (.imulGvEv (Reg.ofCode reg) e)]

/-- Opcodes 0Fh B0h to 0Fh BFh. -/
def twoB : List (Ctx → Dec) := [
  fun _ => .bad,
  fun _ => .bad,
  fun c => modrm fun md reg rm => withMem c md rm fun m => .done (.lssGvMp (Reg.ofCode reg) m),
  fun c => modrm fun md reg rm => withRm c Reg.ofCode md rm fun e => .done (.btrEvGv e (Reg.ofCode reg)),
  fun c => modrm fun md reg rm => withMem c md rm fun m => .done (.lfsGvMp (Reg.ofCode reg) m),
  fun c => modrm fun md reg rm => withMem c md rm fun m => .done (.lgsGvMp (Reg.ofCode reg) m),
  fun c => modrm fun md reg rm => withRm c Reg8.ofCode md rm fun e => .done (.movzxGvEb (Reg.ofCode reg) e),
  fun c => modrm fun md reg rm => withRm c Reg.ofCode md rm fun e => .done (.movzxGvEw (Reg.ofCode reg) e),
  fun _ => .bad,
  fun _ => .bad,
  group0FBA,
  fun c => modrm fun md reg rm => withRm c Reg.ofCode md rm fun e => .done (.btcEvGv e (Reg.ofCode reg)),
  fun c => modrm fun md reg rm => withRm c Reg.ofCode md rm fun e => .done (.bsfGvEv (Reg.ofCode reg) e),
  fun c => modrm fun md reg rm => withRm c Reg.ofCode md rm fun e => .done (.bsrGvEv (Reg.ofCode reg) e),
  fun c => modrm fun md reg rm => withRm c Reg8.ofCode md rm fun e => .done (.movsxGvEb (Reg.ofCode reg) e),
  fun c => modrm fun md reg rm => withRm c Reg.ofCode md rm fun e => .done (.movsxGvEw (Reg.ofCode reg) e)]

/-- Opcodes 0Fh C0h to 0Fh CFh. -/
def twoC : List (Ctx → Dec) := [
  fun _ => .bad,
  fun _ => .bad,
  fun _ => .bad,
  fun _ => .bad,
  fun _ => .bad,
  fun _ => .bad,
  fun _ => .bad,
  fun _ => .bad,
  fun _ => .bad,
  fun _ => .bad,
  fun _ => .bad,
  fun _ => .bad,
  fun _ => .bad,
  fun _ => .bad,
  fun _ => .bad,
  fun _ => .bad]

/-- Opcodes 0Fh D0h to 0Fh DFh. -/
def twoD : List (Ctx → Dec) := [
  fun _ => .bad,
  fun _ => .bad,
  fun _ => .bad,
  fun _ => .bad,
  fun _ => .bad,
  fun _ => .bad,
  fun _ => .bad,
  fun _ => .bad,
  fun _ => .bad,
  fun _ => .bad,
  fun _ => .bad,
  fun _ => .bad,
  fun _ => .bad,
  fun _ => .bad,
  fun _ => .bad,
  fun _ => .bad]

/-- Opcodes 0Fh E0h to 0Fh EFh. -/
def twoE : List (Ctx → Dec) := [
  fun _ => .bad,
  fun _ => .bad,
  fun _ => .bad,
  fun _ => .bad,
  fun _ => .bad,
  fun _ => .bad,
  fun _ => .bad,
  fun _ => .bad,
  fun _ => .bad,
  fun _ => .bad,
  fun _ => .bad,
  fun _ => .bad,
  fun _ => .bad,
  fun _ => .bad,
  fun _ => .bad,
  fun _ => .bad]

/-- Opcodes 0Fh F0h to 0Fh FFh. -/
def twoF : List (Ctx → Dec) := [
  fun _ => .bad,
  fun _ => .bad,
  fun _ => .bad,
  fun _ => .bad,
  fun _ => .bad,
  fun _ => .bad,
  fun _ => .bad,
  fun _ => .bad,
  fun _ => .bad,
  fun _ => .bad,
  fun _ => .bad,
  fun _ => .bad,
  fun _ => .bad,
  fun _ => .bad,
  fun _ => .bad,
  fun _ => .bad]

/-- The second byte of a two-byte opcode (30_encoding.md R291). -/
def twoByte : List (List (Ctx → Dec)) :=
  [two0, two1, two2, two3, two4, two5, two6, two7, two8, two9, twoA, twoB, twoC, twoD, twoE, twoF]

/-- Opcodes 00h to 0Fh. -/
def one0 : List (Ctx → Dec) := [
  fun c => modrm fun md reg rm => withRm c Reg8.ofCode md rm fun e => .done (.addEbGb e (Reg8.ofCode reg)),
  fun c => modrm fun md reg rm => withRm c Reg.ofCode md rm fun e => .done (.addEvGv e (Reg.ofCode reg)),
  fun c => modrm fun md reg rm => withRm c Reg8.ofCode md rm fun e => .done (.addGbEb (Reg8.ofCode reg) e),
  fun c => modrm fun md reg rm => withRm c Reg.ofCode md rm fun e => .done (.addGvEv (Reg.ofCode reg) e),
  fun _ => .need fun b => .done (.addAlIb b),
  fun c => immV c fun v => .done (.addEaxIv v),
  fun _ => .done .pushEs,
  fun _ => .done .popEs,
  fun c => modrm fun md reg rm => withRm c Reg8.ofCode md rm fun e => .done (.orEbGb e (Reg8.ofCode reg)),
  fun c => modrm fun md reg rm => withRm c Reg.ofCode md rm fun e => .done (.orEvGv e (Reg.ofCode reg)),
  fun c => modrm fun md reg rm => withRm c Reg8.ofCode md rm fun e => .done (.orGbEb (Reg8.ofCode reg) e),
  fun c => modrm fun md reg rm => withRm c Reg.ofCode md rm fun e => .done (.orGvEv (Reg.ofCode reg) e),
  fun _ => .need fun b => .done (.orAlIb b),
  fun c => immV c fun v => .done (.orEaxIv v),
  fun _ => .done .pushCs,
  fun c => .need fun b => entry twoByte b c]

/-- Opcodes 10h to 1Fh. -/
def one1 : List (Ctx → Dec) := [
  fun c => modrm fun md reg rm => withRm c Reg8.ofCode md rm fun e => .done (.adcEbGb e (Reg8.ofCode reg)),
  fun c => modrm fun md reg rm => withRm c Reg.ofCode md rm fun e => .done (.adcEvGv e (Reg.ofCode reg)),
  fun c => modrm fun md reg rm => withRm c Reg8.ofCode md rm fun e => .done (.adcGbEb (Reg8.ofCode reg) e),
  fun c => modrm fun md reg rm => withRm c Reg.ofCode md rm fun e => .done (.adcGvEv (Reg.ofCode reg) e),
  fun _ => .need fun b => .done (.adcAlIb b),
  fun c => immV c fun v => .done (.adcEaxIv v),
  fun _ => .done .pushSs,
  fun _ => .done .popSs,
  fun c => modrm fun md reg rm => withRm c Reg8.ofCode md rm fun e => .done (.sbbEbGb e (Reg8.ofCode reg)),
  fun c => modrm fun md reg rm => withRm c Reg.ofCode md rm fun e => .done (.sbbEvGv e (Reg.ofCode reg)),
  fun c => modrm fun md reg rm => withRm c Reg8.ofCode md rm fun e => .done (.sbbGbEb (Reg8.ofCode reg) e),
  fun c => modrm fun md reg rm => withRm c Reg.ofCode md rm fun e => .done (.sbbGvEv (Reg.ofCode reg) e),
  fun _ => .need fun b => .done (.sbbAlIb b),
  fun c => immV c fun v => .done (.sbbEaxIv v),
  fun _ => .done .pushDs,
  fun _ => .done .popDs]

/-- Opcodes 20h to 2Fh. -/
def one2 : List (Ctx → Dec) := [
  fun c => modrm fun md reg rm => withRm c Reg8.ofCode md rm fun e => .done (.andEbGb e (Reg8.ofCode reg)),
  fun c => modrm fun md reg rm => withRm c Reg.ofCode md rm fun e => .done (.andEvGv e (Reg.ofCode reg)),
  fun c => modrm fun md reg rm => withRm c Reg8.ofCode md rm fun e => .done (.andGbEb (Reg8.ofCode reg) e),
  fun c => modrm fun md reg rm => withRm c Reg.ofCode md rm fun e => .done (.andGvEv (Reg.ofCode reg) e),
  fun _ => .need fun b => .done (.andAlIb b),
  fun c => immV c fun v => .done (.andEaxIv v),
  fun _ => .done .segEs,
  fun _ => .done .daa,
  fun c => modrm fun md reg rm => withRm c Reg8.ofCode md rm fun e => .done (.subEbGb e (Reg8.ofCode reg)),
  fun c => modrm fun md reg rm => withRm c Reg.ofCode md rm fun e => .done (.subEvGv e (Reg.ofCode reg)),
  fun c => modrm fun md reg rm => withRm c Reg8.ofCode md rm fun e => .done (.subGbEb (Reg8.ofCode reg) e),
  fun c => modrm fun md reg rm => withRm c Reg.ofCode md rm fun e => .done (.subGvEv (Reg.ofCode reg) e),
  fun _ => .need fun b => .done (.subAlIb b),
  fun c => immV c fun v => .done (.subEaxIv v),
  fun _ => .done .segCs,
  fun _ => .done .das]

/-- Opcodes 30h to 3Fh. -/
def one3 : List (Ctx → Dec) := [
  fun c => modrm fun md reg rm => withRm c Reg8.ofCode md rm fun e => .done (.xorEbGb e (Reg8.ofCode reg)),
  fun c => modrm fun md reg rm => withRm c Reg.ofCode md rm fun e => .done (.xorEvGv e (Reg.ofCode reg)),
  fun c => modrm fun md reg rm => withRm c Reg8.ofCode md rm fun e => .done (.xorGbEb (Reg8.ofCode reg) e),
  fun c => modrm fun md reg rm => withRm c Reg.ofCode md rm fun e => .done (.xorGvEv (Reg.ofCode reg) e),
  fun _ => .need fun b => .done (.xorAlIb b),
  fun c => immV c fun v => .done (.xorEaxIv v),
  fun _ => .done .segSs,
  fun _ => .done .aaa,
  fun c => modrm fun md reg rm => withRm c Reg8.ofCode md rm fun e => .done (.cmpEbGb e (Reg8.ofCode reg)),
  fun c => modrm fun md reg rm => withRm c Reg.ofCode md rm fun e => .done (.cmpEvGv e (Reg.ofCode reg)),
  fun c => modrm fun md reg rm => withRm c Reg8.ofCode md rm fun e => .done (.cmpGbEb (Reg8.ofCode reg) e),
  fun c => modrm fun md reg rm => withRm c Reg.ofCode md rm fun e => .done (.cmpGvEv (Reg.ofCode reg) e),
  fun _ => .need fun b => .done (.cmpAlIb b),
  fun c => immV c fun v => .done (.cmpEaxIv v),
  fun _ => .done .segDs,
  fun _ => .done .aas]

/-- Opcodes 40h to 4Fh. -/
def one4 : List (Ctx → Dec) := [
  fun _ => .done (.incR .eax),
  fun _ => .done (.incR .ecx),
  fun _ => .done (.incR .edx),
  fun _ => .done (.incR .ebx),
  fun _ => .done (.incR .esp),
  fun _ => .done (.incR .ebp),
  fun _ => .done (.incR .esi),
  fun _ => .done (.incR .edi),
  fun _ => .done (.decR .eax),
  fun _ => .done (.decR .ecx),
  fun _ => .done (.decR .edx),
  fun _ => .done (.decR .ebx),
  fun _ => .done (.decR .esp),
  fun _ => .done (.decR .ebp),
  fun _ => .done (.decR .esi),
  fun _ => .done (.decR .edi)]

/-- Opcodes 50h to 5Fh. -/
def one5 : List (Ctx → Dec) := [
  fun _ => .done (.pushR .eax),
  fun _ => .done (.pushR .ecx),
  fun _ => .done (.pushR .edx),
  fun _ => .done (.pushR .ebx),
  fun _ => .done (.pushR .esp),
  fun _ => .done (.pushR .ebp),
  fun _ => .done (.pushR .esi),
  fun _ => .done (.pushR .edi),
  fun _ => .done (.popR .eax),
  fun _ => .done (.popR .ecx),
  fun _ => .done (.popR .edx),
  fun _ => .done (.popR .ebx),
  fun _ => .done (.popR .esp),
  fun _ => .done (.popR .ebp),
  fun _ => .done (.popR .esi),
  fun _ => .done (.popR .edi)]

/-- Opcodes 60h to 6Fh. -/
def one6 : List (Ctx → Dec) := [
  fun _ => .done .pusha,
  fun _ => .done .popa,
  fun c => modrm fun md reg rm => withMem c md rm fun m => .done (.boundGvMa (Reg.ofCode reg) m),
  fun c => modrm fun md reg rm => withRm c Reg.ofCode md rm fun e => .done (.arplEwGw e (Reg.ofCode reg)),
  fun _ => .done .segFs,
  fun _ => .done .segGs,
  fun _ => .done .opSize,
  fun _ => .done .adSize,
  fun c => immV c fun v => .done (.pushIv v),
  fun c => modrm fun md reg rm => withRm c Reg.ofCode md rm fun e => immV c fun v => .done (.imulGvEvIv (Reg.ofCode reg) e v),
  fun _ => .need fun b => .done (.pushIbs b),
  fun c => modrm fun md reg rm => withRm c Reg.ofCode md rm fun e => .need fun v => .done (.imulGvEvIb (Reg.ofCode reg) e v),
  fun _ => .done .insb,
  fun _ => .done .insw,
  fun _ => .done .outsb,
  fun _ => .done .outsw]

/-- Opcodes 70h to 7Fh. -/
def one7 : List (Ctx → Dec) := [
  fun _ => .need fun b => .done (.jccRel8 .o b),
  fun _ => .need fun b => .done (.jccRel8 .no b),
  fun _ => .need fun b => .done (.jccRel8 .b b),
  fun _ => .need fun b => .done (.jccRel8 .nb b),
  fun _ => .need fun b => .done (.jccRel8 .z b),
  fun _ => .need fun b => .done (.jccRel8 .nz b),
  fun _ => .need fun b => .done (.jccRel8 .be b),
  fun _ => .need fun b => .done (.jccRel8 .nbe b),
  fun _ => .need fun b => .done (.jccRel8 .s b),
  fun _ => .need fun b => .done (.jccRel8 .ns b),
  fun _ => .need fun b => .done (.jccRel8 .p b),
  fun _ => .need fun b => .done (.jccRel8 .np b),
  fun _ => .need fun b => .done (.jccRel8 .l b),
  fun _ => .need fun b => .done (.jccRel8 .nl b),
  fun _ => .need fun b => .done (.jccRel8 .le b),
  fun _ => .need fun b => .done (.jccRel8 .nle b)]

/-- Opcodes 80h to 8Fh. -/
def one8 : List (Ctx → Dec) := [
  group80,
  group81,
  fun _ => .done .ud82,
  group83,
  fun c => modrm fun md reg rm => withRm c Reg8.ofCode md rm fun e => .done (.testEbGb e (Reg8.ofCode reg)),
  fun c => modrm fun md reg rm => withRm c Reg.ofCode md rm fun e => .done (.testEvGv e (Reg.ofCode reg)),
  fun c => modrm fun md reg rm => withRm c Reg8.ofCode md rm fun e => .done (.xchgEbGb e (Reg8.ofCode reg)),
  fun c => modrm fun md reg rm => withRm c Reg.ofCode md rm fun e => .done (.xchgEvGv e (Reg.ofCode reg)),
  fun c => modrm fun md reg rm => withRm c Reg8.ofCode md rm fun e => .done (.movEbGb e (Reg8.ofCode reg)),
  fun c => modrm fun md reg rm => withRm c Reg.ofCode md rm fun e => .done (.movEvGv e (Reg.ofCode reg)),
  fun c => modrm fun md reg rm => withRm c Reg8.ofCode md rm fun e => .done (.movGbEb (Reg8.ofCode reg) e),
  fun c => modrm fun md reg rm => withRm c Reg.ofCode md rm fun e => .done (.movGvEv (Reg.ofCode reg) e),
  fun c => modrm fun md reg rm => withSreg reg fun sr => withRm c Reg.ofCode md rm fun e => .done (.movEwSreg e sr),
  fun c => modrm fun md reg rm => withMem c md rm fun m => .done (.leaGvM (Reg.ofCode reg) m),
  fun c => modrm fun md reg rm => withLoadSreg reg fun sr => withRm c Reg.ofCode md rm fun e => .done (.movSregEw sr e),
  group8F]

/-- Opcodes 90h to 9Fh. -/
def one9 : List (Ctx → Dec) := [
  fun _ => .done .nop,
  fun _ => .done (.xchgEaxR .ecx),
  fun _ => .done (.xchgEaxR .edx),
  fun _ => .done (.xchgEaxR .ebx),
  fun _ => .done (.xchgEaxR .esp),
  fun _ => .done (.xchgEaxR .ebp),
  fun _ => .done (.xchgEaxR .esi),
  fun _ => .done (.xchgEaxR .edi),
  fun _ => .done .cbw,
  fun _ => .done .cwd,
  fun c => immV c fun v => imm16 fun w => .done (.callFar v w),
  fun _ => .done .wait,
  fun _ => .done .pushf,
  fun _ => .done .popf,
  fun _ => .done .sahf,
  fun _ => .done .lahf]

/-- Opcodes A0h to AFh. -/
def oneA : List (Ctx → Dec) := [
  fun c => offV c fun v => .done (.movAlOb v),
  fun c => offV c fun v => .done (.movEaxOv v),
  fun c => offV c fun v => .done (.movObAl v),
  fun c => offV c fun v => .done (.movOvEax v),
  fun _ => .done .movsb,
  fun _ => .done .movsw,
  fun _ => .done .cmpsb,
  fun _ => .done .cmpsw,
  fun _ => .need fun b => .done (.testAlIb b),
  fun c => immV c fun v => .done (.testEaxIv v),
  fun _ => .done .stosb,
  fun _ => .done .stosw,
  fun _ => .done .lodsb,
  fun _ => .done .lodsw,
  fun _ => .done .scasb,
  fun _ => .done .scasw]

/-- Opcodes B0h to BFh. -/
def oneB : List (Ctx → Dec) := [
  fun _ => .need fun b => .done (.movR8Ib .al b),
  fun _ => .need fun b => .done (.movR8Ib .cl b),
  fun _ => .need fun b => .done (.movR8Ib .dl b),
  fun _ => .need fun b => .done (.movR8Ib .bl b),
  fun _ => .need fun b => .done (.movR8Ib .ah b),
  fun _ => .need fun b => .done (.movR8Ib .ch b),
  fun _ => .need fun b => .done (.movR8Ib .dh b),
  fun _ => .need fun b => .done (.movR8Ib .bh b),
  fun c => immV c fun v => .done (.movRIv .eax v),
  fun c => immV c fun v => .done (.movRIv .ecx v),
  fun c => immV c fun v => .done (.movRIv .edx v),
  fun c => immV c fun v => .done (.movRIv .ebx v),
  fun c => immV c fun v => .done (.movRIv .esp v),
  fun c => immV c fun v => .done (.movRIv .ebp v),
  fun c => immV c fun v => .done (.movRIv .esi v),
  fun c => immV c fun v => .done (.movRIv .edi v)]

/-- Opcodes C0h to CFh. -/
def oneC : List (Ctx → Dec) := [
  groupC0,
  groupC1,
  fun _ => imm16 fun v => .done (.retNearIw v),
  fun _ => .done .retNear,
  fun c => modrm fun md reg rm => withMem c md rm fun m => .done (.lesGvMp (Reg.ofCode reg) m),
  fun c => modrm fun md reg rm => withMem c md rm fun m => .done (.ldsGvMp (Reg.ofCode reg) m),
  groupC6,
  groupC7,
  fun _ => imm16 fun v => .need fun b => .done (.enterIwIb v b),
  fun _ => .done .leave,
  fun _ => imm16 fun v => .done (.retFarIw v),
  fun _ => .done .retFar,
  fun _ => .done .int3,
  fun _ => .need fun b => .done (.intIb b),
  fun _ => .done .into,
  fun _ => .done .iret]

/-- Opcodes D0h to DFh. -/
def oneD : List (Ctx → Dec) := [
  groupD0,
  groupD1,
  groupD2,
  groupD3,
  fun _ => .need fun b => .done (.aamIb b),
  fun _ => .need fun b => .done (.aadIb b),
  fun _ => .done .udD6,
  fun _ => .done .xlat,
  fun c => modrm fun md reg rm => withRm c Reg.ofCode md rm fun e => .done (.esc 0 reg e),
  fun c => modrm fun md reg rm => withRm c Reg.ofCode md rm fun e => .done (.esc 1 reg e),
  fun c => modrm fun md reg rm => withRm c Reg.ofCode md rm fun e => .done (.esc 2 reg e),
  fun c => modrm fun md reg rm => withRm c Reg.ofCode md rm fun e => .done (.esc 3 reg e),
  fun c => modrm fun md reg rm => withRm c Reg.ofCode md rm fun e => .done (.esc 4 reg e),
  fun c => modrm fun md reg rm => withRm c Reg.ofCode md rm fun e => .done (.esc 5 reg e),
  fun c => modrm fun md reg rm => withRm c Reg.ofCode md rm fun e => .done (.esc 6 reg e),
  fun c => modrm fun md reg rm => withRm c Reg.ofCode md rm fun e => .done (.esc 7 reg e)]

/-- Opcodes E0h to EFh. -/
def oneE : List (Ctx → Dec) := [
  fun _ => .need fun b => .done (.loopneRel8 b),
  fun _ => .need fun b => .done (.loopeRel8 b),
  fun _ => .need fun b => .done (.loopRel8 b),
  fun _ => .need fun b => .done (.jcxzRel8 b),
  fun _ => .need fun b => .done (.inAlIb b),
  fun _ => .need fun b => .done (.inEaxIb b),
  fun _ => .need fun b => .done (.outIbAl b),
  fun _ => .need fun b => .done (.outIbEax b),
  fun c => immV c fun v => .done (.callRel v),
  fun c => immV c fun v => .done (.jmpRel v),
  fun c => immV c fun v => imm16 fun w => .done (.jmpFar v w),
  fun _ => .need fun b => .done (.jmpRel8 b),
  fun _ => .done .inAlDx,
  fun _ => .done .inEaxDx,
  fun _ => .done .outDxAl,
  fun _ => .done .outDxEax]

/-- Opcodes F0h to FFh. -/
def oneF : List (Ctx → Dec) := [
  fun _ => .done .lock,
  fun _ => .done .udF1,
  fun _ => .done .repne,
  fun _ => .done .rep,
  fun _ => .done .hlt,
  fun _ => .done .cmc,
  groupF6,
  groupF7,
  fun _ => .done .clc,
  fun _ => .done .stc,
  fun _ => .done .cli,
  fun _ => .done .sti,
  fun _ => .done .cld,
  fun _ => .done .std,
  groupFE,
  groupFF]

/-- The first byte of an instruction or a prefix (30_encoding.md R265, R290). -/
def oneByte : List (List (Ctx → Dec)) :=
  [one0, one1, one2, one3, one4, one5, one6, one7, one8, one9, oneA, oneB, oneC, oneD, oneE, oneF]

/-- Decode one instruction, or one prefix byte, which is an item of its own (30_encoding.md R292). -/
def decode (c : Ctx) : Dec := .need fun b => entry oneByte b c

/-- The bytes of a 16-bit value. -/
def enc16 (v : Word16) : List Byte := [v.extractLsb' 0 8, v.extractLsb' 8 8]

/-- The bytes of a 32-bit value. -/
def enc32 (v : Word32) : List Byte :=
  [v.extractLsb' 0 8, v.extractLsb' 8 8, v.extractLsb' 16 8, v.extractLsb' 24 8]

/-- The bytes of an `OS`-bit immediate. -/
def encV (c : Ctx) (v : Word32) : List Byte := if c.os32 then enc32 v else enc16 (v.setWidth 16)

/-- The bytes of an `AS`-bit direct offset. -/
def encO (c : Ctx) (v : Word32) : List Byte := if c.as32 then enc32 v else enc16 (v.setWidth 16)

/-- A ModRM or SIB byte from its three fields. -/
def modrmByte (md : BitVec 2) (reg rm : BitVec 3) : Byte := md ++ reg ++ rm

/-- `mod` and the displacement bytes of a 16-bit displacement. -/
def encDisp16 : Disp16 → BitVec 2 × List Byte
  | .none => (0, [])
  | .d8 d => (1, [d])
  | .d16 d => (2, enc16 d)

/-- `mod` and the displacement bytes of a 32-bit displacement. -/
def encDisp32 : Disp32 → BitVec 2 × List Byte
  | .none => (0, [])
  | .d8 d => (1, [d])
  | .d32 d => (2, enc32 d)

/-- ModRM, SIB and displacement of a memory operand (30_encoding.md R279, R280). -/
def encMem (reg : BitVec 3) : Mem → List Byte
  | .direct16 d => modrmByte 0 reg 6 :: enc16 d
  | .based16 b d => modrmByte (encDisp16 d).1 reg b.code :: (encDisp16 d).2
  | .direct32 d => modrmByte 0 reg 5 :: enc32 d
  | .based32 b d => modrmByte (encDisp32 d).1 reg b.code :: (encDisp32 d).2
  | .sib ss x b d => modrmByte (encDisp32 d).1 reg 4 :: modrmByte ss x.code b.code :: (encDisp32 d).2
  | .sibNoBase ss x d => modrmByte 0 reg 4 :: modrmByte ss x.code 5 :: enc32 d

/-- ModRM and what follows it for a register or memory operand. -/
def encRm {α : Type} (code : α → BitVec 3) (reg : BitVec 3) : Rm α → List Byte
  | .reg r => [modrmByte 3 reg (code r)]
  | .mem m => encMem reg m

/-- An opcode whose low three bits are a register number. -/
def opPlus (op : Byte) (code : BitVec 3) : Byte := op ||| code.setWidth 8

/-- An opcode whose low four bits are a condition. -/
def opCond (op : Byte) (cc : Cond) : Byte := op ||| cc.code.setWidth 8

/-- The bytes of a well-formed instruction at operand and address size `c` (30_encoding.md R277 to R291). -/
def encode (c : Ctx) (i : Instr) : List Byte :=
  match i with
  | .addEbGb e g => 0x00 :: encRm Reg8.code g.code e
  | .addEvGv e g => 0x01 :: encRm Reg.code g.code e
  | .addGbEb g e => 0x02 :: encRm Reg8.code g.code e
  | .addGvEv g e => 0x03 :: encRm Reg.code g.code e
  | .addAlIb imm => [0x04, imm]
  | .addEaxIv imm => 0x05 :: encV c imm
  | .addEbIb e imm => 0x80 :: (encRm Reg8.code 0 e ++ [imm])
  | .addEvIv e imm => 0x81 :: (encRm Reg.code 0 e ++ encV c imm)
  | .addEvIbs e imm => 0x83 :: (encRm Reg.code 0 e ++ [imm])
  | .orEbGb e g => 0x08 :: encRm Reg8.code g.code e
  | .orEvGv e g => 0x09 :: encRm Reg.code g.code e
  | .orGbEb g e => 0x0A :: encRm Reg8.code g.code e
  | .orGvEv g e => 0x0B :: encRm Reg.code g.code e
  | .orAlIb imm => [0x0C, imm]
  | .orEaxIv imm => 0x0D :: encV c imm
  | .orEbIb e imm => 0x80 :: (encRm Reg8.code 1 e ++ [imm])
  | .orEvIv e imm => 0x81 :: (encRm Reg.code 1 e ++ encV c imm)
  | .orEvIbs e imm => 0x83 :: (encRm Reg.code 1 e ++ [imm])
  | .adcEbGb e g => 0x10 :: encRm Reg8.code g.code e
  | .adcEvGv e g => 0x11 :: encRm Reg.code g.code e
  | .adcGbEb g e => 0x12 :: encRm Reg8.code g.code e
  | .adcGvEv g e => 0x13 :: encRm Reg.code g.code e
  | .adcAlIb imm => [0x14, imm]
  | .adcEaxIv imm => 0x15 :: encV c imm
  | .adcEbIb e imm => 0x80 :: (encRm Reg8.code 2 e ++ [imm])
  | .adcEvIv e imm => 0x81 :: (encRm Reg.code 2 e ++ encV c imm)
  | .adcEvIbs e imm => 0x83 :: (encRm Reg.code 2 e ++ [imm])
  | .sbbEbGb e g => 0x18 :: encRm Reg8.code g.code e
  | .sbbEvGv e g => 0x19 :: encRm Reg.code g.code e
  | .sbbGbEb g e => 0x1A :: encRm Reg8.code g.code e
  | .sbbGvEv g e => 0x1B :: encRm Reg.code g.code e
  | .sbbAlIb imm => [0x1C, imm]
  | .sbbEaxIv imm => 0x1D :: encV c imm
  | .sbbEbIb e imm => 0x80 :: (encRm Reg8.code 3 e ++ [imm])
  | .sbbEvIv e imm => 0x81 :: (encRm Reg.code 3 e ++ encV c imm)
  | .sbbEvIbs e imm => 0x83 :: (encRm Reg.code 3 e ++ [imm])
  | .andEbGb e g => 0x20 :: encRm Reg8.code g.code e
  | .andEvGv e g => 0x21 :: encRm Reg.code g.code e
  | .andGbEb g e => 0x22 :: encRm Reg8.code g.code e
  | .andGvEv g e => 0x23 :: encRm Reg.code g.code e
  | .andAlIb imm => [0x24, imm]
  | .andEaxIv imm => 0x25 :: encV c imm
  | .andEbIb e imm => 0x80 :: (encRm Reg8.code 4 e ++ [imm])
  | .andEvIv e imm => 0x81 :: (encRm Reg.code 4 e ++ encV c imm)
  | .andEvIbs e imm => 0x83 :: (encRm Reg.code 4 e ++ [imm])
  | .subEbGb e g => 0x28 :: encRm Reg8.code g.code e
  | .subEvGv e g => 0x29 :: encRm Reg.code g.code e
  | .subGbEb g e => 0x2A :: encRm Reg8.code g.code e
  | .subGvEv g e => 0x2B :: encRm Reg.code g.code e
  | .subAlIb imm => [0x2C, imm]
  | .subEaxIv imm => 0x2D :: encV c imm
  | .subEbIb e imm => 0x80 :: (encRm Reg8.code 5 e ++ [imm])
  | .subEvIv e imm => 0x81 :: (encRm Reg.code 5 e ++ encV c imm)
  | .subEvIbs e imm => 0x83 :: (encRm Reg.code 5 e ++ [imm])
  | .xorEbGb e g => 0x30 :: encRm Reg8.code g.code e
  | .xorEvGv e g => 0x31 :: encRm Reg.code g.code e
  | .xorGbEb g e => 0x32 :: encRm Reg8.code g.code e
  | .xorGvEv g e => 0x33 :: encRm Reg.code g.code e
  | .xorAlIb imm => [0x34, imm]
  | .xorEaxIv imm => 0x35 :: encV c imm
  | .xorEbIb e imm => 0x80 :: (encRm Reg8.code 6 e ++ [imm])
  | .xorEvIv e imm => 0x81 :: (encRm Reg.code 6 e ++ encV c imm)
  | .xorEvIbs e imm => 0x83 :: (encRm Reg.code 6 e ++ [imm])
  | .cmpEbGb e g => 0x38 :: encRm Reg8.code g.code e
  | .cmpEvGv e g => 0x39 :: encRm Reg.code g.code e
  | .cmpGbEb g e => 0x3A :: encRm Reg8.code g.code e
  | .cmpGvEv g e => 0x3B :: encRm Reg.code g.code e
  | .cmpAlIb imm => [0x3C, imm]
  | .cmpEaxIv imm => 0x3D :: encV c imm
  | .cmpEbIb e imm => 0x80 :: (encRm Reg8.code 7 e ++ [imm])
  | .cmpEvIv e imm => 0x81 :: (encRm Reg.code 7 e ++ encV c imm)
  | .cmpEvIbs e imm => 0x83 :: (encRm Reg.code 7 e ++ [imm])
  | .pushEs => [0x06]
  | .pushCs => [0x0E]
  | .pushSs => [0x16]
  | .pushDs => [0x1E]
  | .popEs => [0x07]
  | .popSs => [0x17]
  | .popDs => [0x1F]
  | .pushFs => [0x0F, 0xA0]
  | .popFs => [0x0F, 0xA1]
  | .pushGs => [0x0F, 0xA8]
  | .popGs => [0x0F, 0xA9]
  | .segEs => [0x26]
  | .segCs => [0x2E]
  | .segSs => [0x36]
  | .segDs => [0x3E]
  | .segFs => [0x64]
  | .segGs => [0x65]
  | .opSize => [0x66]
  | .adSize => [0x67]
  | .lock => [0xF0]
  | .repne => [0xF2]
  | .rep => [0xF3]
  | .daa => [0x27]
  | .das => [0x2F]
  | .aaa => [0x37]
  | .aas => [0x3F]
  | .aamIb imm => [0xD4, imm]
  | .aadIb imm => [0xD5, imm]
  | .incR r => [opPlus 0x40 r.code]
  | .decR r => [opPlus 0x48 r.code]
  | .pushR r => [opPlus 0x50 r.code]
  | .popR r => [opPlus 0x58 r.code]
  | .pusha => [0x60]
  | .popa => [0x61]
  | .boundGvMa g m => 0x62 :: encMem g.code m
  | .arplEwGw e g => 0x63 :: encRm Reg.code g.code e
  | .pushIv imm => 0x68 :: encV c imm
  | .pushIbs imm => [0x6A, imm]
  | .imulGvEvIv g e imm => 0x69 :: (encRm Reg.code g.code e ++ encV c imm)
  | .imulGvEvIb g e imm => 0x6B :: (encRm Reg.code g.code e ++ [imm])
  | .insb => [0x6C]
  | .insw => [0x6D]
  | .outsb => [0x6E]
  | .outsw => [0x6F]
  | .jccRel8 cc rel => [opCond 0x70 cc, rel]
  | .testEbGb e g => 0x84 :: encRm Reg8.code g.code e
  | .testEvGv e g => 0x85 :: encRm Reg.code g.code e
  | .xchgEbGb e g => 0x86 :: encRm Reg8.code g.code e
  | .xchgEvGv e g => 0x87 :: encRm Reg.code g.code e
  | .movEbGb e g => 0x88 :: encRm Reg8.code g.code e
  | .movEvGv e g => 0x89 :: encRm Reg.code g.code e
  | .movGbEb g e => 0x8A :: encRm Reg8.code g.code e
  | .movGvEv g e => 0x8B :: encRm Reg.code g.code e
  | .movEwSreg e sr => 0x8C :: encRm Reg.code sr.code e
  | .leaGvM g m => 0x8D :: encMem g.code m
  | .movSregEw sr e => 0x8E :: encRm Reg.code sr.code e
  | .popEv e => 0x8F :: encRm Reg.code 0 e
  | .nop => [0x90]
  | .xchgEaxR r => [opPlus 0x90 r.code]
  | .cbw => [0x98]
  | .cwd => [0x99]
  | .callFar off sel => 0x9A :: (encV c off ++ enc16 sel)
  | .wait => [0x9B]
  | .pushf => [0x9C]
  | .popf => [0x9D]
  | .sahf => [0x9E]
  | .lahf => [0x9F]
  | .movAlOb off => 0xA0 :: encO c off
  | .movEaxOv off => 0xA1 :: encO c off
  | .movObAl off => 0xA2 :: encO c off
  | .movOvEax off => 0xA3 :: encO c off
  | .movsb => [0xA4]
  | .movsw => [0xA5]
  | .cmpsb => [0xA6]
  | .cmpsw => [0xA7]
  | .testAlIb imm => [0xA8, imm]
  | .testEaxIv imm => 0xA9 :: encV c imm
  | .stosb => [0xAA]
  | .stosw => [0xAB]
  | .lodsb => [0xAC]
  | .lodsw => [0xAD]
  | .scasb => [0xAE]
  | .scasw => [0xAF]
  | .movR8Ib r imm => [opPlus 0xB0 r.code, imm]
  | .movRIv r imm => opPlus 0xB8 r.code :: encV c imm
  | .rolEbIb e imm => 0xC0 :: (encRm Reg8.code 0 e ++ [imm])
  | .rolEvIb e imm => 0xC1 :: (encRm Reg.code 0 e ++ [imm])
  | .rolEb1 e => 0xD0 :: encRm Reg8.code 0 e
  | .rolEv1 e => 0xD1 :: encRm Reg.code 0 e
  | .rolEbCl e => 0xD2 :: encRm Reg8.code 0 e
  | .rolEvCl e => 0xD3 :: encRm Reg.code 0 e
  | .rorEbIb e imm => 0xC0 :: (encRm Reg8.code 1 e ++ [imm])
  | .rorEvIb e imm => 0xC1 :: (encRm Reg.code 1 e ++ [imm])
  | .rorEb1 e => 0xD0 :: encRm Reg8.code 1 e
  | .rorEv1 e => 0xD1 :: encRm Reg.code 1 e
  | .rorEbCl e => 0xD2 :: encRm Reg8.code 1 e
  | .rorEvCl e => 0xD3 :: encRm Reg.code 1 e
  | .rclEbIb e imm => 0xC0 :: (encRm Reg8.code 2 e ++ [imm])
  | .rclEvIb e imm => 0xC1 :: (encRm Reg.code 2 e ++ [imm])
  | .rclEb1 e => 0xD0 :: encRm Reg8.code 2 e
  | .rclEv1 e => 0xD1 :: encRm Reg.code 2 e
  | .rclEbCl e => 0xD2 :: encRm Reg8.code 2 e
  | .rclEvCl e => 0xD3 :: encRm Reg.code 2 e
  | .rcrEbIb e imm => 0xC0 :: (encRm Reg8.code 3 e ++ [imm])
  | .rcrEvIb e imm => 0xC1 :: (encRm Reg.code 3 e ++ [imm])
  | .rcrEb1 e => 0xD0 :: encRm Reg8.code 3 e
  | .rcrEv1 e => 0xD1 :: encRm Reg.code 3 e
  | .rcrEbCl e => 0xD2 :: encRm Reg8.code 3 e
  | .rcrEvCl e => 0xD3 :: encRm Reg.code 3 e
  | .shlEbIb e imm => 0xC0 :: (encRm Reg8.code 4 e ++ [imm])
  | .shlEvIb e imm => 0xC1 :: (encRm Reg.code 4 e ++ [imm])
  | .shlEb1 e => 0xD0 :: encRm Reg8.code 4 e
  | .shlEv1 e => 0xD1 :: encRm Reg.code 4 e
  | .shlEbCl e => 0xD2 :: encRm Reg8.code 4 e
  | .shlEvCl e => 0xD3 :: encRm Reg.code 4 e
  | .shrEbIb e imm => 0xC0 :: (encRm Reg8.code 5 e ++ [imm])
  | .shrEvIb e imm => 0xC1 :: (encRm Reg.code 5 e ++ [imm])
  | .shrEb1 e => 0xD0 :: encRm Reg8.code 5 e
  | .shrEv1 e => 0xD1 :: encRm Reg.code 5 e
  | .shrEbCl e => 0xD2 :: encRm Reg8.code 5 e
  | .shrEvCl e => 0xD3 :: encRm Reg.code 5 e
  | .sarEbIb e imm => 0xC0 :: (encRm Reg8.code 7 e ++ [imm])
  | .sarEvIb e imm => 0xC1 :: (encRm Reg.code 7 e ++ [imm])
  | .sarEb1 e => 0xD0 :: encRm Reg8.code 7 e
  | .sarEv1 e => 0xD1 :: encRm Reg.code 7 e
  | .sarEbCl e => 0xD2 :: encRm Reg8.code 7 e
  | .sarEvCl e => 0xD3 :: encRm Reg.code 7 e
  | .retNearIw imm => 0xC2 :: enc16 imm
  | .retNear => [0xC3]
  | .lesGvMp g m => 0xC4 :: encMem g.code m
  | .ldsGvMp g m => 0xC5 :: encMem g.code m
  | .movEbIb e imm => 0xC6 :: (encRm Reg8.code 0 e ++ [imm])
  | .movEvIv e imm => 0xC7 :: (encRm Reg.code 0 e ++ encV c imm)
  | .enterIwIb size level => 0xC8 :: (enc16 size ++ [level])
  | .leave => [0xC9]
  | .retFarIw imm => 0xCA :: enc16 imm
  | .retFar => [0xCB]
  | .int3 => [0xCC]
  | .intIb imm => [0xCD, imm]
  | .into => [0xCE]
  | .iret => [0xCF]
  | .xlat => [0xD7]
  | .esc hi op e => opPlus 0xD8 hi :: encRm Reg.code op e
  | .loopneRel8 rel => [0xE0, rel]
  | .loopeRel8 rel => [0xE1, rel]
  | .loopRel8 rel => [0xE2, rel]
  | .jcxzRel8 rel => [0xE3, rel]
  | .inAlIb imm => [0xE4, imm]
  | .inEaxIb imm => [0xE5, imm]
  | .outIbAl imm => [0xE6, imm]
  | .outIbEax imm => [0xE7, imm]
  | .callRel rel => 0xE8 :: encV c rel
  | .jmpRel rel => 0xE9 :: encV c rel
  | .jmpFar off sel => 0xEA :: (encV c off ++ enc16 sel)
  | .jmpRel8 rel => [0xEB, rel]
  | .inAlDx => [0xEC]
  | .inEaxDx => [0xED]
  | .outDxAl => [0xEE]
  | .outDxEax => [0xEF]
  | .hlt => [0xF4]
  | .cmc => [0xF5]
  | .testEbIb e imm => 0xF6 :: (encRm Reg8.code 0 e ++ [imm])
  | .testEvIv e imm => 0xF7 :: (encRm Reg.code 0 e ++ encV c imm)
  | .notEb e => 0xF6 :: encRm Reg8.code 2 e
  | .notEv e => 0xF7 :: encRm Reg.code 2 e
  | .negEb e => 0xF6 :: encRm Reg8.code 3 e
  | .negEv e => 0xF7 :: encRm Reg.code 3 e
  | .mulEb e => 0xF6 :: encRm Reg8.code 4 e
  | .mulEv e => 0xF7 :: encRm Reg.code 4 e
  | .imulEb e => 0xF6 :: encRm Reg8.code 5 e
  | .imulEv e => 0xF7 :: encRm Reg.code 5 e
  | .divEb e => 0xF6 :: encRm Reg8.code 6 e
  | .divEv e => 0xF7 :: encRm Reg.code 6 e
  | .idivEb e => 0xF6 :: encRm Reg8.code 7 e
  | .idivEv e => 0xF7 :: encRm Reg.code 7 e
  | .clc => [0xF8]
  | .stc => [0xF9]
  | .cli => [0xFA]
  | .sti => [0xFB]
  | .cld => [0xFC]
  | .std => [0xFD]
  | .incEb e => 0xFE :: encRm Reg8.code 0 e
  | .decEb e => 0xFE :: encRm Reg8.code 1 e
  | .incEv e => 0xFF :: encRm Reg.code 0 e
  | .decEv e => 0xFF :: encRm Reg.code 1 e
  | .callNearEv e => 0xFF :: encRm Reg.code 2 e
  | .callFarMp m => 0xFF :: encMem 3 m
  | .jmpNearEv e => 0xFF :: encRm Reg.code 4 e
  | .jmpFarMp m => 0xFF :: encMem 5 m
  | .pushEv e => 0xFF :: encRm Reg.code 6 e
  | .sldtEw e => 0x0F :: 0x00 :: encRm Reg.code 0 e
  | .strEw e => 0x0F :: 0x00 :: encRm Reg.code 1 e
  | .lldtEw e => 0x0F :: 0x00 :: encRm Reg.code 2 e
  | .ltrEw e => 0x0F :: 0x00 :: encRm Reg.code 3 e
  | .verrEw e => 0x0F :: 0x00 :: encRm Reg.code 4 e
  | .verwEw e => 0x0F :: 0x00 :: encRm Reg.code 5 e
  | .sgdtMs m => 0x0F :: 0x01 :: encMem 0 m
  | .sidtMs m => 0x0F :: 0x01 :: encMem 1 m
  | .lgdtMs m => 0x0F :: 0x01 :: encMem 2 m
  | .lidtMs m => 0x0F :: 0x01 :: encMem 3 m
  | .smswEw e => 0x0F :: 0x01 :: encRm Reg.code 4 e
  | .lmswEw e => 0x0F :: 0x01 :: encRm Reg.code 6 e
  | .larGvEw g e => 0x0F :: 0x02 :: encRm Reg.code g.code e
  | .lslGvEw g e => 0x0F :: 0x03 :: encRm Reg.code g.code e
  | .clts => [0x0F, 0x06]
  | .movRCr md n r => 0x0F :: 0x20 :: [modrmByte md n r.code]
  | .movCrR md n r => 0x0F :: 0x22 :: [modrmByte md n r.code]
  | .movRDr md n r => 0x0F :: 0x21 :: [modrmByte md n r.code]
  | .movDrR md n r => 0x0F :: 0x23 :: [modrmByte md n r.code]
  | .movRTr md n r => 0x0F :: 0x24 :: [modrmByte md n r.code]
  | .movTrR md n r => 0x0F :: 0x26 :: [modrmByte md n r.code]
  | .jccRel cc rel => 0x0F :: opCond 0x80 cc :: encV c rel
  | .setccEb cc x e => 0x0F :: opCond 0x90 cc :: encRm Reg8.code x e
  | .btEvGv e g => 0x0F :: 0xA3 :: encRm Reg.code g.code e
  | .btsEvGv e g => 0x0F :: 0xAB :: encRm Reg.code g.code e
  | .btrEvGv e g => 0x0F :: 0xB3 :: encRm Reg.code g.code e
  | .btcEvGv e g => 0x0F :: 0xBB :: encRm Reg.code g.code e
  | .shldEvGvIb e g imm => 0x0F :: 0xA4 :: (encRm Reg.code g.code e ++ [imm])
  | .shldEvGvCl e g => 0x0F :: 0xA5 :: encRm Reg.code g.code e
  | .shrdEvGvIb e g imm => 0x0F :: 0xAC :: (encRm Reg.code g.code e ++ [imm])
  | .shrdEvGvCl e g => 0x0F :: 0xAD :: encRm Reg.code g.code e
  | .imulGvEv g e => 0x0F :: 0xAF :: encRm Reg.code g.code e
  | .lssGvMp g m => 0x0F :: 0xB2 :: encMem g.code m
  | .lfsGvMp g m => 0x0F :: 0xB4 :: encMem g.code m
  | .lgsGvMp g m => 0x0F :: 0xB5 :: encMem g.code m
  | .movzxGvEb g e => 0x0F :: 0xB6 :: encRm Reg8.code g.code e
  | .movzxGvEw g e => 0x0F :: 0xB7 :: encRm Reg.code g.code e
  | .btEvIb e imm => 0x0F :: 0xBA :: (encRm Reg.code 4 e ++ [imm])
  | .btsEvIb e imm => 0x0F :: 0xBA :: (encRm Reg.code 5 e ++ [imm])
  | .btrEvIb e imm => 0x0F :: 0xBA :: (encRm Reg.code 6 e ++ [imm])
  | .btcEvIb e imm => 0x0F :: 0xBA :: (encRm Reg.code 7 e ++ [imm])
  | .bsfGvEv g e => 0x0F :: 0xBC :: encRm Reg.code g.code e
  | .bsrGvEv g e => 0x0F :: 0xBD :: encRm Reg.code g.code e
  | .movsxGvEb g e => 0x0F :: 0xBE :: encRm Reg8.code g.code e
  | .movsxGvEw g e => 0x0F :: 0xBF :: encRm Reg.code g.code e
  | .ud82 => [0x82]
  | .udD6 => [0xD6]
  | .udF1 => [0xF1]
  | .udC0s6 => 0xC0 :: [modrmByte 3 6 0]
  | .udC1s6 => 0xC1 :: [modrmByte 3 6 0]
  | .udD0s6 => 0xD0 :: [modrmByte 3 6 0]
  | .udD1s6 => 0xD1 :: [modrmByte 3 6 0]
  | .udD2s6 => 0xD2 :: [modrmByte 3 6 0]
  | .udD3s6 => 0xD3 :: [modrmByte 3 6 0]
  | .udF6s1 => 0xF6 :: [modrmByte 3 1 0]
  | .udF7s1 => 0xF7 :: [modrmByte 3 1 0]
  | .udFEs2 => 0xFE :: [modrmByte 3 2 0]
  | .udFEs3 => 0xFE :: [modrmByte 3 3 0]
  | .udFEs4 => 0xFE :: [modrmByte 3 4 0]
  | .udFEs5 => 0xFE :: [modrmByte 3 5 0]
  | .udFEs6 => 0xFE :: [modrmByte 3 6 0]
  | .udFEs7 => 0xFE :: [modrmByte 3 7 0]
  | .udFFs7 => 0xFF :: [modrmByte 3 7 0]
  | .ud8Fs1 => 0x8F :: [modrmByte 3 1 0]
  | .udC6s1 => 0xC6 :: [modrmByte 3 1 0]
  | .udC7s1 => 0xC7 :: [modrmByte 3 1 0]
  | .ud8Fs2 => 0x8F :: [modrmByte 3 2 0]
  | .udC6s2 => 0xC6 :: [modrmByte 3 2 0]
  | .udC7s2 => 0xC7 :: [modrmByte 3 2 0]
  | .ud8Fs3 => 0x8F :: [modrmByte 3 3 0]
  | .udC6s3 => 0xC6 :: [modrmByte 3 3 0]
  | .udC7s3 => 0xC7 :: [modrmByte 3 3 0]
  | .ud8Fs4 => 0x8F :: [modrmByte 3 4 0]
  | .udC6s4 => 0xC6 :: [modrmByte 3 4 0]
  | .udC7s4 => 0xC7 :: [modrmByte 3 4 0]
  | .ud8Fs5 => 0x8F :: [modrmByte 3 5 0]
  | .udC6s5 => 0xC6 :: [modrmByte 3 5 0]
  | .udC7s5 => 0xC7 :: [modrmByte 3 5 0]
  | .ud8Fs6 => 0x8F :: [modrmByte 3 6 0]
  | .udC6s6 => 0xC6 :: [modrmByte 3 6 0]
  | .udC7s6 => 0xC7 :: [modrmByte 3 6 0]
  | .ud8Fs7 => 0x8F :: [modrmByte 3 7 0]
  | .udC6s7 => 0xC6 :: [modrmByte 3 7 0]
  | .udC7s7 => 0xC7 :: [modrmByte 3 7 0]
  | .ud0F00s6 => 0x0F :: 0x00 :: [modrmByte 3 6 0]
  | .ud0F00s7 => 0x0F :: 0x00 :: [modrmByte 3 7 0]
  | .ud0F01s5 => 0x0F :: 0x01 :: [modrmByte 3 5 0]
  | .ud0F01s7 => 0x0F :: 0x01 :: [modrmByte 3 7 0]
  | .ud0FBAs0 => 0x0F :: 0xBA :: [modrmByte 3 0 0]
  | .ud0FBAs1 => 0x0F :: 0xBA :: [modrmByte 3 1 0]
  | .ud0FBAs2 => 0x0F :: 0xBA :: [modrmByte 3 2 0]
  | .ud0FBAs3 => 0x0F :: 0xBA :: [modrmByte 3 3 0]
  | .ud0FA6 => [0x0F, 0xA6]
  | .ud0FA7 => [0x0F, 0xA7]

/-- The bytes of the opcodes that are followed by a ModRM byte whose `reg` field extends them (30_encoding.md R290). -/
def isGroup (b : Nat) : Bool :=
  b == 0x80 || b == 0x81 || b == 0x83 || b == 0x8F || b == 0xC0 || b == 0xC1 || b == 0xC6 || b == 0xC7
    || b == 0xD0 || b == 0xD1 || b == 0xD2 || b == 0xD3 || b == 0xF6 || b == 0xF7 || b == 0xFE || b == 0xFF

/-- The two bytes `first`, `second` are exactly the fixed bytes of a two-byte row of the table. -/
def fixedPair (first second : Nat) : Bool :=
  second == 0 || (isGroup first && second &&& 0xC7 == 0) || first == 0x0F

/-- The bytes, in instruction-stream order, of a word that stands for an opcode-table row. The table's own numbering
puts the first byte at the top of the word; a word that is a row's pattern only when its first byte is at the
bottom is read that way (assumption log 10). -/
def wordBytes (nbits w : Nat) : List Byte :=
  let b0 := BitVec.ofNat 8 w
  let b1 := BitVec.ofNat 8 (w >>> 8)
  let b2 := BitVec.ofNat 8 (w >>> 16)
  if nbits ≤ 8 then [b0]
  else if nbits ≤ 16 then
    if fixedPair b1.toNat b0.toNat then [b1, b0]
    else if fixedPair b0.toNat b1.toNat then [b0, b1]
    else [b1, b0]
  else if b2 = 0x0F then [b2, b1, b0]
  else if b0 = 0x0F then [b0, b1, b2]
  else [b2, b1, b0]

/-- The bytes of a table word followed by zeros up to the longest instruction, 15 bytes (30_encoding.md R261). -/
def instructionBytes (nbits w : Nat) : List Byte :=
  let bs := wordBytes nbits w
  bs ++ List.replicate (15 - bs.length) 0

/-- The instruction the decoder reads from the bits `w` of an opcode-table row, at the operand and address size of
16-bit code, which is what the machine has after reset. -/
def decodeTableWord (nbits w : Nat) : Option Instr :=
  ((decode ⟨false, false⟩).run (instructionBytes nbits w)).map Prod.fst

end Sys2Proof
end

