-- ==== Sys2Proof/Machine/Fetch.lean ====
section
/-! DEFINITION. Instruction fetch: 30_encoding.md R262, 20_memory.md R140. -/

namespace Sys2Proof.Machine

/-- Read an instruction byte from memory, through the code segment and the page tables; instruction fetch counts as a read
(22_paging.md R244). -/
def fetchMemory : M Byte := do
  let s ← get
  let lin ← linear .cs s.cur.npc 1 .execute
  let user ← reads State.user
  let p ← translate lin false user
  readByte p

/-- The values of the byte at a linear address that the prefetch queue may hold from before a store or a change of
translation. -/
def State.staleValues (s : State) (lin : Word32) : List Byte := (s.stale.filter (·.address == lin)).map (·.value)

/-- One byte of the instruction stream: fetched from memory or, where the prefetch queue may hold it from before, a free
choice between that byte, which passed the segment's tests and was translated when it was fetched, and a fetch now
(20_memory.md R140, 22_paging.md R255; assumption log 13). -/
def streamByte : M Byte := do
  let s ← get
  let old := s.staleValues s.queueStart
  if old.isEmpty then fetchMemory
  else do
    let d ← draw
    match old[d.toNat % (old.length + 1)]? with
    | some b => pure b
    | none => fetchMemory

/-- Fetch the next byte of the instruction. An instruction longer than 15 bytes raises GP(0) (30_encoding.md R261), before
the 16th byte is looked at: DESIGN CHOICE, assumption log 44. -/
def fetchByte : M Byte := do
  let s ← get
  raiseIf (decide (15 ≤ s.cur.count)) (.gp 0)
  let b ← streamByte
  update fun s => { s with cur := { s.cur with npc := s.cur.npc + 1, count := s.cur.count + 1 } }
  pure b

/-- Feed a decoder with fetched bytes. -/
def feed : Dec → M (Option Instr)
  | .done i => pure (some i)
  | .need k => do
    let b ← fetchByte
    feed (k b)
  | .bad => pure none

/-- The instruction that was decoded; an unassigned encoding raises UD (30_encoding.md R295). -/
def assigned : Option Instr → M Instr
  | some i => pure i
  | none => raise .ud

/-- The opcode of ESC, D8h to DFh (48_processor_control.md R590). -/
def isEscape (b : Byte) : Bool := b.extractLsb' 3 5 == 0b11011#5

/-- ESC tests EM and TS before its ModRM, SIB and displacement bytes are decoded (48_processor_control.md R590), so also
before they are fetched. With LOCK it raises UD whatever they are (DEDUCED, assumption log 52). -/
def escapeTest (b : Byte) : M Unit := do
  let s ← get
  raiseIf (isEscape b && !s.cur.lock && (s.cr0.em || s.cr0.ts)) .nm

/-- Feed a decoder with fetched bytes, the first of which is the opcode or its escape byte. -/
def feedOpcode : Dec → M (Option Instr)
  | .done i => pure (some i)
  | .need k => do
    let b ← fetchByte
    escapeTest b
    feed (k b)
  | .bad => pure none

/-- Fetch and decode by a decoder. -/
def drive (d : Dec) : M Instr := do
  let i ← feedOpcode d
  assigned i

/-- The prefixes (30_encoding.md R265). -/
def isPrefix : Instr → Bool
  | .segEs | .segCs | .segSs | .segDs | .segFs | .segGs | .opSize | .adSize | .lock | .repne | .rep => true
  | _ => false

/-- A memory operand. -/
def isMem {α : Type} : Rm α → Bool
  | .reg _ => false
  | .mem _ => true

/-- The instructions that accept LOCK: with a memory destination (20_memory.md R137). -/
def lockable : Instr → Bool
  | .addEbGb e _ | .orEbGb e _ | .adcEbGb e _ | .sbbEbGb e _ | .andEbGb e _ | .subEbGb e _ | .xorEbGb e _
  | .addEbIb e _ | .orEbIb e _ | .adcEbIb e _ | .sbbEbIb e _ | .andEbIb e _ | .subEbIb e _ | .xorEbIb e _
  | .xchgEbGb e _ | .notEb e | .negEb e | .incEb e | .decEb e => isMem e
  | .addEvGv e _ | .orEvGv e _ | .adcEvGv e _ | .sbbEvGv e _ | .andEvGv e _ | .subEvGv e _ | .xorEvGv e _
  | .addEvIv e _ | .orEvIv e _ | .adcEvIv e _ | .sbbEvIv e _ | .andEvIv e _ | .subEvIv e _ | .xorEvIv e _
  | .addEvIbs e _ | .orEvIbs e _ | .adcEvIbs e _ | .sbbEvIbs e _ | .andEvIbs e _ | .subEvIbs e _ | .xorEvIbs e _
  | .xchgEvGv e _ | .notEv e | .negEv e | .incEv e | .decEv e
  | .btsEvGv e _ | .btrEvGv e _ | .btcEvGv e _ | .btsEvIb e _ | .btrEvIb e _ | .btcEvIb e _ => isMem e
  | _ => false

/-- Note what a prefix means for the length of its instruction (30_encoding.md R270, R271). -/
def State.noteSizes (s : State) : Instr → State
  | .opSize => { s with cur := { s.cur with opSize := true } }
  | .adSize => { s with cur := { s.cur with adSize := true } }
  | _ => s

/-- The prefix LOCK. -/
def isLock : Instr → Bool
  | .lock => true
  | _ => false

/-- Note the sizes of a prefix that was decoded and go on to the rest; the bytes end with anything else. -/
def fetchOn (rest : M Unit) : Option Instr → M Unit
  | some i => do
    update fun s => s.noteSizes i
    if isPrefix i then rest else pure ()
  | none => pure ()

/-- Fetch the bytes of the instruction up to its last one, or up to where they are no instruction. -/
def fetchRest : Nat → M Unit
  | 0 => pure ()
  | fuel + 1 => do
    let s ← get
    let i ← feed (decode ⟨s.os32, s.as32⟩)
    fetchOn (fetchRest fuel) i

/-- A LOCK prefix that the IOPL test will end is fetched with the rest of its instruction, whose fetch faults come first, and
its UD after the test (60_exceptions.md R636, 48_processor_control.md R589; assumption log 49); the latch goes back to the end
of the prefix. -/
def fetchBeforeLockTest (i : Instr) : M Unit := do
  let s ← get
  whenever (isLock i && s.cr0.pe && s.flags.iopl < s.level) (do
    fetchRest 16
    update fun t => { t with cur := { s.cur with walk := t.cur.walk } })

/-- Fetch and decode one item of the instruction stream: a prefix, or the rest of an instruction. LOCK before an
instruction that does not accept it raises UD (30_encoding.md R296). The whole instruction is fetched before any exception of
its meaning is tested (60_exceptions.md R636), but for NM of ESC (48_processor_control.md R590). -/
def fetchItem : M Instr := do
  let s ← get
  let i ← drive (decode ⟨s.os32, s.as32⟩)
  raiseIf (s.cur.lock && !isPrefix i && !lockable i) .ud
  fetchBeforeLockTest i
  pure i

/-- The latch of an instruction about to be fetched at `pc` (92_eei_decisions.md D1). -/
def State.begin (s : State) : State := { s with cur := { Latch.idle with npc := s.pc } }

/-- Breakpoint `i` is an instruction breakpoint at the instruction to be fetched; its length must be one byte
(60_exceptions.md R661). -/
def State.breaksAt (s : State) (i : Nat) : Bool :=
  !s.flags.rf && s.breakKind i == 0 && s.breakLength i == 1 && s.breakpoint i == s.segs.cs.base + s.pc

/-- Record the instruction breakpoints at `pc` in B0..B3 of DR6 (60_exceptions.md R661). -/
def State.noteBreaks (s : State) : State :=
  { s with dr6 := s.dr6 ||| (BitVec.ofBool (s.breaksAt 3) ++ BitVec.ofBool (s.breaksAt 2) ++ BitVec.ofBool (s.breaksAt 1)
                              ++ BitVec.ofBool (s.breaksAt 0)).setWidth 32 }

/-- An enabled instruction breakpoint at the instruction to be fetched. -/
def State.breaks (s : State) : Bool :=
  (s.breaksAt 0 && s.breakEnabled 0) || (s.breaksAt 1 && s.breakEnabled 1) || (s.breaksAt 2 && s.breakEnabled 2)
    || (s.breaksAt 3 && s.breakEnabled 3)

/-- The debug exception at `pc` (60_exceptions.md R660, R661). -/
def debugEvent (s : State) : Event := { vec := 1, kind := .exception, err := none, ret := s.pc, rf := some false }

/-- An external interrupt at `pc` (60_exceptions.md R625, R630, R662). -/
def externalEvent (s : State) (v : Byte) : Event :=
  { vec := v, kind := .external, err := none, ret := s.pc, rf := some s.repActive }

/-- An NMI can be taken (60_exceptions.md R630). -/
def State.nmiReady (s : State) : Bool := s.nmiPending && !s.nmiInService

/-- The NMI is being taken (60_exceptions.md R630). -/
def State.takeNmi (s : State) : State := { s with nmiPending := false, nmiInService := true }

/-- The event at the boundary before the instruction at `pc`, with the state in which it is delivered
(60_exceptions.md R635 a to d). It no longer waits in that state, and is not put back where its delivery raises an exception,
a page fault included (60_exceptions.md R668): DESIGN CHOICE, assumption log 56. -/
def boundaryEvent (s : State) : Option (State × Event) :=
  if s.dbgPending then some ({ s with dbgPending := false }, debugEvent s)
  else if s.breaks then some (s.noteBreaks, debugEvent s)
  else if s.nmiReady then some (s.noteBreaks.takeNmi, externalEvent s 2)
  else match s.flags.ie, s.intr with
    | true, some v => some ({ s.noteBreaks with intr := none }, externalEvent s v)
    | true, none => none
    | false, _ => none

/-- HALTED is left on NMI, and on INTR with IF = 1 (48_processor_control.md R585). -/
def State.wakes (s : State) : Bool := s.nmiReady || (s.flags.ie && s.intr.isSome)

/-- SHUTDOWN in real mode is left on NMI when the vector is in the table and the stack has room
(60_exceptions.md R672). -/
def State.canLeaveShutdown (s : State) : Bool := decide (0x0F ≤ s.idtr.limit.toNat) && decide (5 < (s.reg .esp &&& 0xFFFF).toNat)

/-- One step in SHUTDOWN: an NMI that can be delivered leaves it, else nothing changes (60_exceptions.md R672). In protected
mode it leaves it too, as the text of R672 says and its pseudocode and 93_implementation_defined.md U22 do not; and while an
NMI is in service another one waits, SHUTDOWN lasting: DESIGN CHOICE, assumption log 31. -/
def shutdownStep (s : State) : Host.Outcome State Fault Refusal :=
  let t := { s.takeNmi with run := .running }
  if !s.nmiReady then .next s
  else if !s.cr0.pe && !s.canLeaveShutdown then .next s
  else match deliver (externalEvent s 2) t with
    | .ok _ s1 => .next s1.settle
    | .error _ _ => .next s

end Sys2Proof.Machine
end

