-- ==== Sys2Proof/Machine/Step.lean ====
section
/-! DEFINITION. One step of the machine: 60_exceptions.md R635. -/

namespace Sys2Proof.Machine

/-- Fetch and run the items of one instruction: its prefixes, then the instruction itself. -/
def runItems : Nat → State → Host.Outcome State Fault Refusal
  | 0, s => takeExc s s (.gp 0)
  | fuel + 1, s =>
    match fetchItem s with
    | .error x s1 => takeExc s s1 x
    | .ok i s1 =>
      match exec i s1 with
      | .next t => if t.cur.inPrefix then runItems fuel t else .next t
      | .fault r => .fault r
      | .refused r => .refused r

/-- More items than an instruction can have: it has at most 15 bytes (30_encoding.md R261). -/
def maxItems : Nat := 16

/-- A step of a running processor: the event at the boundary, or one instruction. -/
def runningStep (s : State) : Host.Outcome State Fault Refusal :=
  match boundaryEvent s with
  | some (t, e) => deliverEvent t e
  | none => runItems maxItems s.noteBreaks.begin

/-- One step of the machine (60_exceptions.md R635). -/
def step (s : State) : Host.Outcome State Fault Refusal :=
  match s.run with
  | .shutdown => shutdownStep s
  | .halted => if s.wakes then runningStep { s with run := .running } else .next s
  | .running => runningStep s

/-- Write bytes at consecutive linear addresses. -/
def State.place (s : State) : Word32 → List Byte → State
  | _, [] => s
  | lin, b :: bs =>
    State.place { s with mem := Memory.set s.mem ((s.peekPhysical lin).getD lin.toNat) b } (lin + 1) bs

/-- The state with the instruction of an opcode-table word stored where the next instruction is fetched
(assumption log 10). -/
def State.withFetchWord (s : State) (nbits w : Nat) : State :=
  { s.place (s.segs.cs.base + s.pc) (instructionBytes nbits w) with stale := [] }

end Sys2Proof.Machine
end

