-- ==== Sys2Proof/Machine/Environment.lean ====
section
/-! DEFINITION. The moves of the environment between two steps: RESET with its parameters, the NMI edge, the INTR pin, and the writes of another bus master or a device (70_reset_and_hazards.md R720 to R724, R746; 60_exceptions.md R625, R630). -/

namespace Sys2Proof.Machine

/-- RESET in any state, with the coprocessor present and whether a self-test was requested. What the reset table leaves
UNDEFINED is free; memory, devices and the pins are not changed (70_reset_and_hazards.md R720 to R724; 10_state.md R95;
92_eei_decisions.md D12; assumption log 30). -/
def State.afterReset (s : State) (cop : Coprocessor) (selfTest : Bool) : State :=
  let u (k : Nat) : Word32 := Config.draw (s.draws + k)
  { State.reset with
    gpr := { eax := if selfTest then 0 else u 0, edx := if selfTest then 0 else u 1, ecx := u 2, ebx := u 3, esp := u 4,
             ebp := u 5, esi := u 6, edi := u 7 }
    flags := { State.reset.flags with nt := bitAt (u 8) 0 }
    cr0 := { State.reset.cr0 with et := cop == .i80387 }
    cr2 := u 9
    cr3 := u 10 &&& 0xFFFFF000
    dr0 := u 11
    dr1 := u 12
    dr2 := u 13
    dr3 := u 14
    dr6 := u 15 &&& dr6Mask
    dr7 := u 16 &&& dr7Mask &&& 0xFFFFFF00
    tr6 := u 17 &&& tr6Mask
    tr7 := u 18 &&& tr7Mask
    gdtr := { base := u 19, limit := (u 20).setWidth 16 }
    ldtr := { State.reset.ldtr with sel := (u 21).setWidth 16 }
    tr := { State.reset.tr with sel := (u 22).setWidth 16 }
    mem := s.mem
    memMap := s.memMap
    intr := s.intr
    ioTrace := s.ioTrace
    draws := s.draws + 23 }

/-- An edge on the NMI pin; one is remembered while another is in service (60_exceptions.md R630). -/
def State.nmiEdge (s : State) : State := { s with nmiPending := true }

/-- The INTR pin becomes active with the vector its controller will supply, or inactive (60_exceptions.md R625). -/
def State.setIntr (s : State) (v : Option Byte) : State := { s with intr := v }

/-- Another bus master, or a device, writes memory between two steps, in one bus event of 1, 2 or 4 bytes
(70_reset_and_hazards.md R746, 92_eei_decisions.md D4, D10). The processor's queue may hold the bytes from before, as after
a store of its own; they are dropped where nothing or ROM answers, and are the device's business where a device does
(assumption logs 30 and 38). -/
def State.busWrite (s : State) (a : Nat) (vs : List Byte) : State :=
  if s.kindAt a = .ram then
    { s with mem := Memory.setRun s.mem a vs, stale := s.begin.overtaken a vs ++ s.stale }
  else s

/-- Another bus master, or a device, writes memory in several bus events. -/
def State.busWrites (s : State) : List (Nat × List Byte) → State
  | [] => s
  | (a, vs) :: es => (s.busWrite a vs).busWrites es

end Sys2Proof.Machine
end

