-- ==== Sys2Proof/Safety.lean ====
section
/-! DEFINITION. What counts as a safe state and a safe run, and the words in which claims speak of the machine: invariants, operands and their places, and the families of instructions that share a shape. -/

namespace Sys2Proof.Machine

/-! ### Invariants -/

/-- The latch of the instruction is idle, as it is between two steps. -/
def State.idle (s : State) : Bool := s.cur == Latch.idle

/-- The invariant of the machine between two steps: memory is in its canonical form, the low 12 bits of CR3 are 0
(10_state.md R71), and no instruction is half done. -/
def State.inv (s : State) : Bool := Memory.wf s.mem && s.cr3 &&& 0xFFF == 0 && s.idle

/-- The mode is one the processor has: V86 mode and paging exist inside protected mode only (10_state.md R53, R62), and
outside protected mode the level is 0 (21_segmentation_protection.md R190). -/
def State.legalMode (s : State) : Bool :=
  (!s.flags.vm || s.cr0.pe) && (!s.cr0.pg || s.cr0.pe) && (s.cr0.pe || s.cpl == 0)

/-- The reserved bits of the debug and test registers hold nothing (10_state.md R54; assumption log 3). -/
def State.reservedClear (s : State) : Bool :=
  s.dr6 &&& ~~~dr6Mask == 0 && s.dr7 &&& ~~~dr7Mask == 0 && s.tr6 &&& ~~~tr6Mask == 0 && s.tr7 &&& ~~~tr7Mask == 0

/-- Every step of the next `k` is taken, and the states it reaches satisfy `p`. -/
def safeFor (p : State → Bool) : Nat → State → Bool
  | 0, s => p s
  | k + 1, s =>
    p s && match step s with
    | .next t => safeFor p k t
    | .fault _ => false
    | .refused _ => false

/-! ### Values and operands -/

/-- The operand size in bits (30_encoding.md R270). -/
def State.osBits (s : State) : Nat := if s.os32 then 32 else 16

/-- The free value that is drawn next (assumption log 4). -/
def State.fresh (s : State) : Word32 := Config.draw s.draws

/-- The state after a free value was drawn. -/
def State.drawn (s : State) : State := { s with draws := s.draws + 1 }

/-- The state with other flags. -/
def State.withFlags (s : State) (f : Flags) : State := { s with flags := f }

/-- The bytes that an access to physical addresses reads. -/
def State.bytesAt (s : State) (ps : List Nat) : List Byte :=
  match readBytes ps s with
  | .ok bs _ => bs
  | .error _ _ => []

/-- The state after an access that reads physical addresses. -/
def State.afterReading (s : State) (ps : List Nat) : State :=
  match readBytes ps s with
  | .ok _ t => t
  | .error _ t => t

/-- The state after an access that writes bytes at physical addresses. -/
def State.afterWriting (s : State) (ps : List Nat) (bs : List Byte) : State :=
  match writeBytes ps bs s with
  | .ok _ t => t
  | .error _ t => t

/-- Where an operand lies: in a register, or at physical addresses, the least significant byte first. -/
inductive Place (α : Type) where
  | reg (r : α)
  | bytes (ps : List Nat)
  deriving DecidableEq, Repr

/-- The place of an operand of `n` bits that is to be written, once its checks have passed (40_data_transfer.md R320). -/
def openRm {α : Type} (n : Nat) : Rm α → M (Place α)
  | .reg r => pure (.reg r)
  | .mem m => do
    let s ← get
    let ps ← dataAddresses (s.memSegment m) (s.ea m) (n / 8) true
    pure (.bytes ps)

/-- The value of an operand at a place. -/
def Place.value (n : Nat) (p : Place Reg) (s : State) : BitVec n :=
  match p with
  | .reg r => s.regN n r
  | .bytes ps => BitVec.ofNat n (ofBytes (s.bytesAt ps))

/-- The value of a byte operand at a place. -/
def Place.byte (p : Place Reg8) (s : State) : Byte :=
  match p with
  | .reg r => s.reg8 r
  | .bytes ps => BitVec.ofNat 8 (ofBytes (s.bytesAt ps))

/-- The state after the value at a place was read. -/
def Place.seen {α : Type} (p : Place α) (s : State) : State :=
  match p with
  | .reg _ => s
  | .bytes ps => s.afterReading ps

/-- The state after an operand was written at a place. -/
def Place.put {n : Nat} (p : Place Reg) (v : BitVec n) (s : State) : State :=
  match p with
  | .reg r => s.setRegN r v
  | .bytes ps => s.afterWriting ps (toBytes (n / 8) v.toNat)

/-- The state after a byte operand was written at a place. -/
def Place.putByte (p : Place Reg8) (v : Byte) (s : State) : State :=
  match p with
  | .reg r => s.setReg8 r v
  | .bytes ps => s.afterWriting ps (toBytes 1 v.toNat)

/-- The instruction is a far JMP or, if `call`, a far CALL to `sel:off`, direct or through memory, whose operand is read from
`s` to `t` (45_control_transfer.md R486; the selector in memory lies at EA + OS/8 modulo 2^AS: assumption log 45). -/
def FarOperand (call : Bool) (i : Instr) (sel : Word16) (off : Word32) (s t : State) : Prop :=
  (i = (if call then .callFar off sel else .jmpFar off sel) ∧ t = s)
    ∨ ∃ (m : Mem) (s1 : State) (o v : Nat), i = (if call then .callFarMp m else .jmpFarMp m)
      ∧ segRead (s.memSegment m) (s.ea m) (s.osBits / 8) s = .ok o s1
      ∧ segRead (s.memSegment m) (sized s.as32 (s.ea m + BitVec.ofNat 32 (s.osBits / 8))) 2 s1 = .ok v t
      ∧ sel = BitVec.ofNat 16 v ∧ off = BitVec.ofNat 32 o

/-- The bytes of memory at a place. -/
def Place.addresses {α : Type} : Place α → List Nat
  | .reg _ => []
  | .bytes ps => ps

/-- Nothing but ordinary memory is in the way: paging is off and every physical address is RAM. -/
def State.flat (s : State) : Bool := !s.cr0.pg && s.memMap.isEmpty

/-- The addresses of `n` bytes from a linear address on, modulo 2^32. -/
def byteAddresses (lin : Word32) (n : Nat) : List Nat := (List.range n).map fun k => (lin + BitVec.ofNat 32 k).toNat

/-- The number that `n` bytes of memory from an address on hold, the lowest address least significant. -/
def State.numberAt (s : State) (a : Word32) (n : Nat) : Nat := ofBytes ((byteAddresses a n).map (Memory.get s.mem))

/-- The bits of a byte of memory that the page walker never sets: all but A and D (22_paging.md R239, R240). -/
def settled : Byte := 0x9F

/-- `t` is `s` after accesses to memory that stored nothing for the program: only what the page walker, the TLB, the
prefetch queue, a device, the debug registers and the free values record is different, and in memory only the bits A
and D, with paging on. -/
def Looked (s t : State) : Prop :=
  t = { s with mem := t.mem, tlb := t.tlb, stale := t.stale, ioTrace := t.ioTrace, dr6 := t.dr6, draws := t.draws,
               dbgPending := t.dbgPending, cur := { s.cur with walk := t.cur.walk } } ∧
    (∀ a, Memory.get t.mem a &&& settled = Memory.get s.mem a &&& settled) ∧ (s.cr0.pg = false → t.mem = s.mem)

/-- What an instruction that writes the bytes of memory at `ps` or registers leaves as it was: of memory every other byte, but
for the bits A and D of page entries with paging on; of the flags all but the six status flags and RF; and every
segment, control, debug-address, test, table and mode register. -/
def OperandFrame (ps : List Nat) (s t : State) : Prop :=
  t = { s with gpr := t.gpr, pc := t.pc, mem := t.mem, tlb := t.tlb, stale := t.stale, dr6 := t.dr6
               dbgPending := t.dbgPending, repActive := t.repActive, ioTrace := t.ioTrace, draws := t.draws
               cur := Latch.idle
               flags := { s.flags with cf := t.flags.cf, pf := t.flags.pf, af := t.flags.af, zf := t.flags.zf
                                       sf := t.flags.sf, ovf := t.flags.ovf, rf := t.flags.rf } }
    ∧ ∀ a : Nat, a ∉ ps → Memory.get t.mem a &&& settled = Memory.get s.mem a &&& settled
        ∧ (s.cr0.pg = false → Memory.get t.mem a = Memory.get s.mem a)

/-- The IOPL test of 21_segmentation_protection.md R194 passes. -/
def State.ioAllowed (s : State) : Bool := !(s.cr0.pe && decide (s.flags.iopl < s.level))

/-- `Privileged()` of 47_os_support.md R570 passes. -/
def State.privilegedOk (s : State) : Bool := !(s.cr0.pe && (s.flags.vm || s.cpl != 0))

/-- The state after a transfer to an offset in the code segment (45_control_transfer.md R480). -/
def State.jumped (s : State) (off : Word32) : State := { s with pc := off, cur := { s.cur with jumped := true } }

/-- The state after a transfer to a real-mode or V86 code segment (45_control_transfer.md R482). -/
def State.farJumped (s : State) (sel : Word16) (off : Word32) : State :=
  (s.setSeg .cs (SegCache.real sel (if s.v86 then 3 else 0))).jumped off

/-- The state at the first instruction of a real-mode handler (60_exceptions.md R641). -/
def State.inHandler (s : State) (sel : Word16) (off : Word32) : State :=
  { s.setSeg .cs (SegCache.real sel 0) with
    pc := off, flags := { s.flags with ie := false, tf := false }, cur := { s.cur with jumped := true, noTrap := true } }

/-- `t` is the state after an operand of `n` bits was checked for writing in `s` and then only read, as a shift by 0 does
(42_shift_rotate.md R421; assumption log 46). -/
def Touched {α : Type} (n : Nat) (e : Rm α) (s t : State) : Prop :=
  match e with
  | .reg _ => t = s
  | .mem m => ∃ (s1 : State) (v : Nat), segProbe (s.memSegment m) (s.ea m) (n / 8) true s = .ok () s1
      ∧ segRead (s.memSegment m) (s.ea m) (n / 8) s1 = .ok v t

/-- The state after a transfer to an offset in a protected-mode code segment at a level, which the RPL of CS holds
(45_control_transfer.md R483). -/
def State.inCode (s : State) (sel : Word16) (d : Desc) (level : BitVec 2) (off : Word32) : State :=
  { s.setSeg .cs (d.cache (selectorCode sel ||| level.setWidth 16)) with
    cpl := level, pc := off, cur := { s.cur with jumped := true } }

/-- A selector and its descriptor are those of a stack segment of a level (21_segmentation_protection.md R201). -/
def StackFits (sel : Word16) (d : Desc) (level : BitVec 2) : Prop :=
  isNull sel = false ∧ d.isWritable = true ∧ rpl sel = level ∧ d.dpl = level ∧ d.present = true

/-- A segment register that a return to an outer level does not let the program keep
(45_control_transfer.md R491). -/
def SegCache.leftBy (c : SegCache) (level : BitVec 2) : SegCache :=
  if c.valid = true ∧ ¬ (c.executable = true ∧ c.conforming = true) ∧ c.dpl < level then { c with sel := 0, valid := false }
  else c

/-- The return through the stack in protected mode to the selector and offset taken from it leads from `s` to `t`
(45_control_transfer.md R491, R496): at the same level past a frame of `frame` bytes and `imm` released ones; at an
outer level, with a stack pointer and a selector of `n` bytes from above them. -/
def ReturnsTo (sel : Word16) (off : Word32) (n frame : Nat) (imm : Word32) (s t : State) : Prop :=
  ∃ (d : Desc) (s1 : State), isNull sel = false ∧ readDesc sel .gp s = .ok d s1 ∧ d.isCode = true ∧ d.present = true
    ∧ (if d.isConforming then d.dpl ≤ rpl sel else d.dpl = rpl sel) ∧ off.toNat ≤ d.limit.toNat
    ∧ ((rpl sel = s.level ∧ ∃ s2 : State, markAccessed sel d s1 = .ok () s2
          ∧ let u := s2.inCode sel d (rpl sel) off
            t = u.withSp (u.stackOffset (u.sp + BitVec.ofNat 32 frame + imm)))
      ∨ (s.level < rpl sel ∧ ∃ (nsp nss : Nat) (sd : Desc) (s2 s3 s4 s5 s6 : State),
          segRead .ss (s1.stackOffset (s1.sp + BitVec.ofNat 32 frame + imm)) n s1 = .ok nsp s2
          ∧ segRead .ss (s1.stackOffset (s1.sp + BitVec.ofNat 32 (frame + n) + imm)) n s2 = .ok nss s3
          ∧ readDesc (BitVec.ofNat 16 nss) .gp s3 = .ok sd s4 ∧ StackFits (BitVec.ofNat 16 nss) sd (rpl sel)
          ∧ markAccessed sel d s4 = .ok () s5
          ∧ markAccessed (BitVec.ofNat 16 nss) sd (s5.inCode sel d (rpl sel) off) = .ok () s6
          ∧ let u := s6.setSeg .ss (sd.cache (BitVec.ofNat 16 nss))
            let w := u.withSp (u.stackOffset (BitVec.ofNat 32 nsp + imm))
            t = { w with segs := { w.segs with ds := w.segs.ds.leftBy (rpl sel), es := w.segs.es.leftBy (rpl sel),
                                               fs := w.segs.fs.leftBy (rpl sel), gs := w.segs.gs.leftBy (rpl sel) } }))

/-! ### Families of instructions -/

/-- The forms of a two-operand instruction at the operand size (41_arithmetic.md R371). -/
inductive WordForm where
  | evGv (e : Rm Reg) (g : Reg)
  | gvEv (g : Reg) (e : Rm Reg)
  | eaxIv (imm : Word32)
  | evIv (e : Rm Reg) (imm : Word32)
  | evIbs (e : Rm Reg) (imm : Byte)
  deriving DecidableEq, Repr

/-- The destination of a form. -/
def WordForm.dest : WordForm → Rm Reg
  | .evGv e _ => e
  | .gvEv g _ => .reg g
  | .eaxIv _ => .reg .eax
  | .evIv e _ => e
  | .evIbs e _ => e

/-- The source of a form, which is read first. -/
def WordForm.source (n : Nat) : WordForm → M (BitVec n)
  | .evGv _ g => readRm n (.reg g)
  | .gvEv _ e => readRm n e
  | .eaxIv imm => pure (imm.setWidth n)
  | .evIv _ imm => pure (imm.setWidth n)
  | .evIbs _ imm => pure (imm.signExtend n)

/-- The forms of a two-operand instruction on bytes (41_arithmetic.md R371). -/
inductive ByteForm where
  | ebGb (e : Rm Reg8) (g : Reg8)
  | gbEb (g : Reg8) (e : Rm Reg8)
  | alIb (imm : Byte)
  | ebIb (e : Rm Reg8) (imm : Byte)
  deriving DecidableEq, Repr

/-- The destination of a form. -/
def ByteForm.dest : ByteForm → Rm Reg8
  | .ebGb e _ => e
  | .gbEb g _ => .reg g
  | .alIb _ => .reg .al
  | .ebIb e _ => e

/-- The source of a form, which is read first. -/
def ByteForm.source : ByteForm → M Byte
  | .ebGb _ g => readRm8 (.reg g)
  | .gbEb _ e => readRm8 e
  | .alIb imm => pure imm
  | .ebIb _ imm => pure imm

/-- The instruction of an operation and a form at the operand size. -/
def Alu.word : Alu → WordForm → Instr
  | .add, .evGv e g => .addEvGv e g | .add, .gvEv g e => .addGvEv g e | .add, .eaxIv i => .addEaxIv i
  | .add, .evIv e i => .addEvIv e i | .add, .evIbs e i => .addEvIbs e i
  | .or, .evGv e g => .orEvGv e g | .or, .gvEv g e => .orGvEv g e | .or, .eaxIv i => .orEaxIv i
  | .or, .evIv e i => .orEvIv e i | .or, .evIbs e i => .orEvIbs e i
  | .adc, .evGv e g => .adcEvGv e g | .adc, .gvEv g e => .adcGvEv g e | .adc, .eaxIv i => .adcEaxIv i
  | .adc, .evIv e i => .adcEvIv e i | .adc, .evIbs e i => .adcEvIbs e i
  | .sbb, .evGv e g => .sbbEvGv e g | .sbb, .gvEv g e => .sbbGvEv g e | .sbb, .eaxIv i => .sbbEaxIv i
  | .sbb, .evIv e i => .sbbEvIv e i | .sbb, .evIbs e i => .sbbEvIbs e i
  | .and, .evGv e g => .andEvGv e g | .and, .gvEv g e => .andGvEv g e | .and, .eaxIv i => .andEaxIv i
  | .and, .evIv e i => .andEvIv e i | .and, .evIbs e i => .andEvIbs e i
  | .sub, .evGv e g => .subEvGv e g | .sub, .gvEv g e => .subGvEv g e | .sub, .eaxIv i => .subEaxIv i
  | .sub, .evIv e i => .subEvIv e i | .sub, .evIbs e i => .subEvIbs e i
  | .xor, .evGv e g => .xorEvGv e g | .xor, .gvEv g e => .xorGvEv g e | .xor, .eaxIv i => .xorEaxIv i
  | .xor, .evIv e i => .xorEvIv e i | .xor, .evIbs e i => .xorEvIbs e i
  | .cmp, .evGv e g => .cmpEvGv e g | .cmp, .gvEv g e => .cmpGvEv g e | .cmp, .eaxIv i => .cmpEaxIv i
  | .cmp, .evIv e i => .cmpEvIv e i | .cmp, .evIbs e i => .cmpEvIbs e i

/-- The instruction of an operation and a form on bytes. -/
def Alu.byte : Alu → ByteForm → Instr
  | .add, .ebGb e g => .addEbGb e g | .add, .gbEb g e => .addGbEb g e | .add, .alIb i => .addAlIb i
  | .add, .ebIb e i => .addEbIb e i
  | .or, .ebGb e g => .orEbGb e g | .or, .gbEb g e => .orGbEb g e | .or, .alIb i => .orAlIb i
  | .or, .ebIb e i => .orEbIb e i
  | .adc, .ebGb e g => .adcEbGb e g | .adc, .gbEb g e => .adcGbEb g e | .adc, .alIb i => .adcAlIb i
  | .adc, .ebIb e i => .adcEbIb e i
  | .sbb, .ebGb e g => .sbbEbGb e g | .sbb, .gbEb g e => .sbbGbEb g e | .sbb, .alIb i => .sbbAlIb i
  | .sbb, .ebIb e i => .sbbEbIb e i
  | .and, .ebGb e g => .andEbGb e g | .and, .gbEb g e => .andGbEb g e | .and, .alIb i => .andAlIb i
  | .and, .ebIb e i => .andEbIb e i
  | .sub, .ebGb e g => .subEbGb e g | .sub, .gbEb g e => .subGbEb g e | .sub, .alIb i => .subAlIb i
  | .sub, .ebIb e i => .subEbIb e i
  | .xor, .ebGb e g => .xorEbGb e g | .xor, .gbEb g e => .xorGbEb g e | .xor, .alIb i => .xorAlIb i
  | .xor, .ebIb e i => .xorEbIb e i
  | .cmp, .ebGb e g => .cmpEbGb e g | .cmp, .gbEb g e => .cmpGbEb g e | .cmp, .alIb i => .cmpAlIb i
  | .cmp, .ebIb e i => .cmpEbIb e i

/-- The instructions with one operand that is read and written (41_arithmetic.md R377 to R379, R387). -/
inductive Unary where
  | inc | dec | neg | not
  deriving DecidableEq, Repr

/-- The form at the operand size. -/
def Unary.word : Unary → Rm Reg → Instr
  | .inc, e => .incEv e | .dec, e => .decEv e | .neg, e => .negEv e | .not, e => .notEv e

/-- The form on bytes. -/
def Unary.byte : Unary → Rm Reg8 → Instr
  | .inc, e => .incEb e | .dec, e => .decEb e | .neg, e => .negEb e | .not, e => .notEb e

/-- The result (41_arithmetic.md R377 to R379, R387). -/
def Unary.result {n : Nat} : Unary → BitVec n → BitVec n
  | .inc, v => v + BitVec.ofNat n 1
  | .dec, v => v - BitVec.ofNat n 1
  | .neg, v => BitVec.ofNat n 0 - v
  | .not, v => ~~~v

/-- The flags: INC and DEC keep CF, NOT keeps all (41_arithmetic.md R377 to R379, R387). -/
def Unary.flags {n : Nat} : Unary → Flags → BitVec n → Flags
  | .inc, f, v => { f.add v (BitVec.ofNat n 1) false with cf := f.cf }
  | .dec, f, v => { f.sub v (BitVec.ofNat n 1) false with cf := f.cf }
  | .neg, f, v => f.sub (BitVec.ofNat n 0) v false
  | .not, f, _ => f

/-- The counts of a shift: an immediate, 1, or CL (42_shift_rotate.md R421). -/
inductive Count where
  | imm (c : Byte)
  | one
  | cl
  deriving DecidableEq, Repr

/-- The count that is used: its low 5 bits (42_shift_rotate.md R421). -/
def Count.value (c : Count) (s : State) : Nat :=
  match c with
  | .imm b => b.toNat % 32
  | .one => 1
  | .cl => (s.reg8 .cl).toNat % 32

/-- The shift or rotate at the operand size. -/
def Shift.word : Shift → Rm Reg → Count → Instr
  | .rol, e, .imm c => .rolEvIb e c | .rol, e, .one => .rolEv1 e | .rol, e, .cl => .rolEvCl e
  | .ror, e, .imm c => .rorEvIb e c | .ror, e, .one => .rorEv1 e | .ror, e, .cl => .rorEvCl e
  | .rcl, e, .imm c => .rclEvIb e c | .rcl, e, .one => .rclEv1 e | .rcl, e, .cl => .rclEvCl e
  | .rcr, e, .imm c => .rcrEvIb e c | .rcr, e, .one => .rcrEv1 e | .rcr, e, .cl => .rcrEvCl e
  | .shl, e, .imm c => .shlEvIb e c | .shl, e, .one => .shlEv1 e | .shl, e, .cl => .shlEvCl e
  | .shr, e, .imm c => .shrEvIb e c | .shr, e, .one => .shrEv1 e | .shr, e, .cl => .shrEvCl e
  | .sar, e, .imm c => .sarEvIb e c | .sar, e, .one => .sarEv1 e | .sar, e, .cl => .sarEvCl e

/-- The shift or rotate on bytes. -/
def Shift.byte : Shift → Rm Reg8 → Count → Instr
  | .rol, e, .imm c => .rolEbIb e c | .rol, e, .one => .rolEb1 e | .rol, e, .cl => .rolEbCl e
  | .ror, e, .imm c => .rorEbIb e c | .ror, e, .one => .rorEb1 e | .ror, e, .cl => .rorEbCl e
  | .rcl, e, .imm c => .rclEbIb e c | .rcl, e, .one => .rclEb1 e | .rcl, e, .cl => .rclEbCl e
  | .rcr, e, .imm c => .rcrEbIb e c | .rcr, e, .one => .rcrEb1 e | .rcr, e, .cl => .rcrEbCl e
  | .shl, e, .imm c => .shlEbIb e c | .shl, e, .one => .shlEb1 e | .shl, e, .cl => .shlEbCl e
  | .shr, e, .imm c => .shrEbIb e c | .shr, e, .one => .shrEb1 e | .shr, e, .cl => .shrEbCl e
  | .sar, e, .imm c => .sarEbIb e c | .sar, e, .one => .sarEb1 e | .sar, e, .cl => .sarEbCl e

/-- The bit-test instruction with a register offset (44_bit.md R461 to R464). -/
def BitOp.byRegister : BitOp → Rm Reg → Reg → Instr
  | .bt, e, g => .btEvGv e g | .bts, e, g => .btsEvGv e g | .btr, e, g => .btrEvGv e g | .btc, e, g => .btcEvGv e g

/-- The bit-test instruction with an immediate offset (44_bit.md R461 to R464). -/
def BitOp.byImmediate : BitOp → Rm Reg → Byte → Instr
  | .bt, e, i => .btEvIb e i | .bts, e, i => .btsEvIb e i | .btr, e, i => .btrEvIb e i | .btc, e, i => .btcEvIb e i

/-- The operand is a register. -/
def isRegister {α : Type} : Rm α → Bool
  | .reg _ => true
  | .mem _ => false

/-- SHLD, or SHRD when `right`, by an immediate or by CL (42_shift_rotate.md R429, R430). -/
def doubleShift (right : Bool) (e : Rm Reg) (g : Reg) : Option Byte → Instr
  | some c => if right then .shrdEvGvIb e g c else .shldEvGvIb e g c
  | none => if right then .shrdEvGvCl e g else .shldEvGvCl e g

/-- The count that SHLD and SHRD use. -/
def doubleCount (c : Option Byte) (s : State) : Nat := (c.getD (s.reg8 .cl)).toNat % 32

/-- The instruction writes the operand `e` of the operand size and the registers `other`; its source, if that is read
first, leads from `s` to `t`. -/
inductive WritesWord : Instr → Rm Reg → List Reg → State → State → Prop
  | alu (op : Alu) (f : WordForm) (s t : State) (b : BitVec s.osBits) (h : op ≠ .cmp)
      (hs : f.source s.osBits s = .ok b t) : WritesWord (op.word f) f.dest [] s t
  | unary (u : Unary) (e : Rm Reg) (s : State) : WritesWord (u.word e) e [] s s
  | incR (r : Reg) (s : State) : WritesWord (.incR r) (.reg r) [] s s
  | decR (r : Reg) (s : State) : WritesWord (.decR r) (.reg r) [] s s
  | shift (h : Shift) (e : Rm Reg) (c : Count) (s : State) (hc : c.value s = 0 → isRegister e = true) :
      WritesWord (h.word e c) e [] s s
  | shiftDouble (right : Bool) (e : Rm Reg) (g : Reg) (c : Option Byte) (s : State)
      (hc : doubleCount c s = 0 → isRegister e = true) : WritesWord (doubleShift right e g c) e [] s s
  | bitByRegister (op : BitOp) (r g : Reg) (s : State) : WritesWord (op.byRegister (.reg r) g) (.reg r) [] s s
  | bitByImmediate (op : BitOp) (e : Rm Reg) (imm : Byte) (s : State) (h : op = .bt → isRegister e = true) :
      WritesWord (op.byImmediate e imm) e [] s s
  | movEvGv (e : Rm Reg) (g : Reg) (s : State) : WritesWord (.movEvGv e g) e [] s s
  | movEvIv (e : Rm Reg) (imm : Word32) (s : State) : WritesWord (.movEvIv e imm) e [] s s
  | movRIv (r : Reg) (imm : Word32) (s : State) : WritesWord (.movRIv r imm) (.reg r) [] s s
  | movGvEv (g : Reg) (e : Rm Reg) (s t : State) (b : BitVec s.osBits) (h : readRm s.osBits e s = .ok b t) :
      WritesWord (.movGvEv g e) (.reg g) [] s t
  | xchgEvGv (e : Rm Reg) (g : Reg) (s : State) : WritesWord (.xchgEvGv e g) e [g] s s
  | xchgEaxR (r : Reg) (s : State) : WritesWord (.xchgEaxR r) (.reg r) [.eax] s s

/-- The instruction writes the byte operand `e` and the byte registers `other`; its source, if that is read first, leads
from `s` to `t`. -/
inductive WritesByte : Instr → Rm Reg8 → List Reg8 → State → State → Prop
  | alu (op : Alu) (f : ByteForm) (s t : State) (b : Byte) (h : op ≠ .cmp) (hs : f.source s = .ok b t) :
      WritesByte (op.byte f) f.dest [] s t
  | unary (u : Unary) (e : Rm Reg8) (s : State) : WritesByte (u.byte e) e [] s s
  | shift (h : Shift) (e : Rm Reg8) (c : Count) (s : State) (hc : c.value s = 0 → isRegister e = true) :
      WritesByte (h.byte e c) e [] s s
  | setcc (c : Cond) (x : BitVec 3) (e : Rm Reg8) (s : State) : WritesByte (.setccEb c x e) e [] s s
  | movEbGb (e : Rm Reg8) (g : Reg8) (s : State) : WritesByte (.movEbGb e g) e [] s s
  | movEbIb (e : Rm Reg8) (imm : Byte) (s : State) : WritesByte (.movEbIb e imm) e [] s s
  | movR8Ib (r : Reg8) (imm : Byte) (s : State) : WritesByte (.movR8Ib r imm) (.reg r) [] s s
  | movGbEb (g : Reg8) (e : Rm Reg8) (s t : State) (b : Byte) (h : readRm8 e s = .ok b t) :
      WritesByte (.movGbEb g e) (.reg g) [] s t
  | xchgEbGb (e : Rm Reg8) (g : Reg8) (s : State) : WritesByte (.xchgEbGb e g) e [g] s s

/-- The instruction reads its operand in memory and writes none: BT, and a shift or rotate by 0; its accesses lead from `s`
to `t`. -/
inductive ReadsMemory : Instr → State → State → Prop
  | btByRegister (m : Mem) (g : Reg) (s t : State) (v : Nat)
      (h : segRead (s.memSegment m) (s.bitAddress s.osBits m (s.regN s.osBits g).toInt) (s.osBits / 8) s = .ok v t) :
      ReadsMemory (.btEvGv (.mem m) g) s t
  | btByImmediate (m : Mem) (imm : Byte) (s t : State) (v : Nat)
      (h : segRead (s.memSegment m) (s.ea m) (s.osBits / 8) s = .ok v t) : ReadsMemory (.btEvIb (.mem m) imm) s t
  | shift (h : Shift) (m : Mem) (c : Count) (s t : State) (hc : c.value s = 0)
      (ht : Touched s.osBits (.mem m : Rm Reg) s t) : ReadsMemory (h.word (.mem m) c) s t
  | shiftByte (h : Shift) (m : Mem) (c : Count) (s t : State) (hc : c.value s = 0)
      (ht : Touched 8 (.mem m : Rm Reg8) s t) : ReadsMemory (h.byte (.mem m) c) s t
  | shiftDouble (right : Bool) (m : Mem) (g : Reg) (c : Option Byte) (s t : State) (hc : doubleCount c s = 0)
      (ht : Touched s.osBits (.mem m : Rm Reg) s t) : ReadsMemory (doubleShift right (.mem m) g c) s t

/-- The string instructions (43_string.md). -/
inductive StringOp where
  | movs | cmps | scas | lods | stos | ins | outs
  deriving DecidableEq, Repr

/-- The instruction on bytes. -/
def StringOp.byte : StringOp → Instr
  | .movs => .movsb | .cmps => .cmpsb | .scas => .scasb | .lods => .lodsb | .stos => .stosb | .ins => .insb
  | .outs => .outsb

/-- The instruction on words or double words. -/
def StringOp.word : StringOp → Instr
  | .movs => .movsw | .cmps => .cmpsw | .scas => .scasw | .lods => .lodsw | .stos => .stosw | .ins => .insw
  | .outs => .outsw

/-- One element of `n` bits. -/
def StringOp.element (n : Nat) : StringOp → M Unit
  | .movs => movsElement n
  | .cmps => cmpsElement n
  | .scas => scasElement n
  | .lods => lodsElement n
  | .stos => stosElement n
  | .ins => insElement n
  | .outs => outsElement n

/-- CMPS and SCAS, which a repeat prefix can end on ZF (43_string.md R441). -/
def StringOp.compares : StringOp → Bool
  | .cmps => true | .scas => true
  | .movs => false | .lods => false | .stos => false | .ins => false | .outs => false

/-- The rows of the opcode table that are not assigned (30_encoding.md R295). -/
def unassigned : List Instr :=
  [.ud82, .udD6, .udF1, .udC0s6, .udC1s6, .udD0s6, .udD1s6, .udD2s6, .udD3s6, .udF6s1, .udF7s1, .udFEs2, .udFEs3,
   .udFEs4, .udFEs5, .udFEs6, .udFEs7, .udFFs7, .ud8Fs1, .udC6s1, .udC7s1, .ud8Fs2, .udC6s2, .udC7s2, .ud8Fs3]
  ++ [.udC6s3, .udC7s3, .ud8Fs4, .udC6s4, .udC7s4, .ud8Fs5, .udC6s5, .udC7s5, .ud8Fs6, .udC6s6, .udC7s6, .ud8Fs7,
      .udC6s7, .udC7s7, .ud0F00s6, .ud0F00s7, .ud0F01s5, .ud0F01s7, .ud0FBAs0, .ud0FBAs1, .ud0FBAs2, .ud0FBAs3,
      .ud0FA6, .ud0FA7]

end Sys2Proof.Machine
end

