-- ==== Sys2Proof/Certificates/Slice0/Obligations.lean ====
section
/-! DEFINITION. The statements for the provers. -/

open Sys2Proof Sys2Proof.Machine

/-! ### Arithmetic and logic -/

/-- 41_arithmetic.md R370: the flags of additions, subtractions and logical results as exact arithmetic on the unsigned
and signed values. `u` is the free value from which the logical operations take AF.
10_state.md R42: PF is 1 when the low byte has an even number of 1 bits. -/
def Obligations.ArithmeticFlags : Prop :=
  (∀ (n : Nat) (f : Flags) (a b : BitVec n) (c : Bool) (u : Word32), 4 < n →
      let sum := f.add a b c
      let dif := f.sub a b c
      let log := f.logic a u
      (addResult a b c).toNat = (a.toNat + b.toNat + c.toNat) % 2 ^ n
        ∧ (sum.cf = true ↔ 2 ^ n ≤ a.toNat + b.toNat + c.toNat)
        ∧ (sum.ovf = true ↔ (addResult a b c).toInt ≠ a.toInt + b.toInt + c.toNat)
        ∧ (sum.af = true ↔ 16 ≤ a.toNat % 16 + b.toNat % 16 + c.toNat)
        ∧ (sum.zf = true ↔ addResult a b c = 0) ∧ sum.sf = (addResult a b c).msb
        ∧ sum.pf = evenParity ((addResult a b c).setWidth 8)
        ∧ ((subResult a b c).toNat : Int) = ((a.toNat : Int) - b.toNat - c.toNat) % 2 ^ n
        ∧ (dif.cf = true ↔ a.toNat < b.toNat + c.toNat)
        ∧ (dif.ovf = true ↔ (subResult a b c).toInt ≠ a.toInt - b.toInt - c.toNat)
        ∧ (dif.af = true ↔ a.toNat % 16 < b.toNat % 16 + c.toNat)
        ∧ (dif.zf = true ↔ subResult a b c = 0) ∧ dif.sf = (subResult a b c).msb
        ∧ dif.pf = evenParity ((subResult a b c).setWidth 8)
        ∧ log.cf = false ∧ log.ovf = false ∧ (log.zf = true ↔ a = 0) ∧ log.sf = a.msb
        ∧ log.pf = evenParity (a.setWidth 8) ∧ log.af = bitAt u 4
        ∧ sum = { f with cf := sum.cf, ovf := sum.ovf, af := sum.af, zf := sum.zf, sf := sum.sf, pf := sum.pf }
        ∧ dif = { f with cf := dif.cf, ovf := dif.ovf, af := dif.af, zf := dif.zf, sf := dif.sf, pf := dif.pf }
        ∧ log = { f with cf := log.cf, ovf := log.ovf, af := log.af, zf := log.zf, sf := log.sf, pf := log.pf })
  ∧ (∀ b : Byte, (evenParity b = true ↔ ((List.range 8).countP fun k => bitAt b k) % 2 = 0))

/-- 41_arithmetic.md R371 to R376, R384 to R386: ADD, OR, ADC, SBB, AND, SUB and XOR at the operand size, in every form.
The source is read, the destination opened for writing; the result and the flags are those of the operation on both
values, and nothing else changes.
41_arithmetic.md R371 to R376, R384 to R386: the same instructions on bytes. -/
def Obligations.TwoOperandFormsComplete : Prop :=
  (∀ (op : Alu) (f : WordForm) (s s0 s1 : State) (b : BitVec s.osBits) (p : Place Reg),
      op ≠ .cmp → f.source s.osBits s = .ok b s0 → openRm s.osBits f.dest s0 = .ok p s1 →
        let s2 := p.seen s1
        let u := if isLogical op then s2.fresh else 0
        let s3 := if isLogical op then s2.drawn else s2
        let r := aluCompute op s2.flags (p.value s.osBits s1) b u
        exec (op.word f) s = .next ((p.put r.1 (s3.withFlags r.2)).complete s.flags.tf))
  ∧ (∀ (op : Alu) (f : ByteForm) (s s0 s1 : State) (b : Byte) (p : Place Reg8),
      op ≠ .cmp → f.source s = .ok b s0 → openRm 8 f.dest s0 = .ok p s1 →
        let s2 := p.seen s1
        let u := if isLogical op then s2.fresh else 0
        let s3 := if isLogical op then s2.drawn else s2
        let r := aluCompute op s2.flags (p.byte s1) b u
        exec (op.byte f) s = .next ((p.putByte r.1 (s3.withFlags r.2)).complete s.flags.tf))

/-- 41_arithmetic.md R376, R388: CMP and TEST only read their operands; the flags are those of the difference and of the
logical product. -/
def Obligations.CompareAndTestComplete : Prop :=
  (∀ (f : WordForm) (s s0 s1 : State) (a b : BitVec s.osBits),
    f.source s.osBits s = .ok b s0 → readRm s.osBits f.dest s0 = .ok a s1 →
      exec (Alu.cmp.word f) s = .next ((s1.withFlags (s1.flags.sub a b false)).complete s.flags.tf))
  ∧ (∀ (f : ByteForm) (s s0 s1 : State) (a b : Byte),
    f.source s = .ok b s0 → readRm8 f.dest s0 = .ok a s1 →
      exec (Alu.cmp.byte f) s = .next ((s1.withFlags (s1.flags.sub a b false)).complete s.flags.tf))
  ∧ (∀ (e : Rm Reg) (g : Reg) (s s1 : State) (a : BitVec s.osBits), readRm s.osBits e s = .ok a s1 →
      exec (.testEvGv e g) s
        = .next ((s1.drawn.withFlags (s1.flags.logic (a &&& s1.regN s.osBits g) s1.fresh)).complete s.flags.tf))
  ∧ (∀ (e : Rm Reg) (imm : Word32) (s s1 : State) (a : BitVec s.osBits), readRm s.osBits e s = .ok a s1 →
      exec (.testEvIv e imm) s
        = .next ((s1.drawn.withFlags (s1.flags.logic (a &&& imm.setWidth s.osBits) s1.fresh)).complete s.flags.tf))
  ∧ (∀ (imm : Word32) (s : State), exec (.testEaxIv imm) s
      = .next ((s.drawn.withFlags (s.flags.logic (s.regN s.osBits .eax &&& imm.setWidth s.osBits) s.fresh)).complete s.flags.tf))
  ∧ (∀ (e : Rm Reg8) (g : Reg8) (s s1 : State) (a : Byte), readRm8 e s = .ok a s1 →
      exec (.testEbGb e g) s = .next ((s1.drawn.withFlags (s1.flags.logic (a &&& s1.reg8 g) s1.fresh)).complete s.flags.tf))
  ∧ (∀ (e : Rm Reg8) (imm : Byte) (s s1 : State) (a : Byte), readRm8 e s = .ok a s1 →
      exec (.testEbIb e imm) s = .next ((s1.drawn.withFlags (s1.flags.logic (a &&& imm) s1.fresh)).complete s.flags.tf))
  ∧ (∀ (imm : Byte) (s : State), exec (.testAlIb imm) s
      = .next ((s.drawn.withFlags (s.flags.logic (s.reg8 .al &&& imm) s.fresh)).complete s.flags.tf))

/-- 41_arithmetic.md R377 to R379, R387: INC, DEC, NEG and NOT in every form. -/
def Obligations.OneOperandFormsComplete : Prop :=
  (∀ (op : Unary) (e : Rm Reg) (s s1 : State) (p : Place Reg), openRm s.osBits e s = .ok p s1 →
      let s2 := p.seen s1
      let v := p.value s.osBits s1
      exec (op.word e) s = .next ((p.put (op.result v) (s2.withFlags (op.flags s2.flags v))).complete s.flags.tf))
  ∧ (∀ (op : Unary) (e : Rm Reg8) (s s1 : State) (p : Place Reg8), openRm 8 e s = .ok p s1 →
      let s2 := p.seen s1
      let v := p.byte s1
      exec (op.byte e) s = .next ((p.putByte (op.result v) (s2.withFlags (op.flags s2.flags v))).complete s.flags.tf))
  ∧ (∀ (r : Reg) (s : State), exec (.incR r) s = exec (Unary.inc.word (.reg r)) s
      ∧ exec (.decR r) s = exec (Unary.dec.word (.reg r)) s)

/-- 41_arithmetic.md R380, R381: MUL and IMUL. The product is exact: both halves are stored by the one-operand forms, and
the lower half by the others; CF and OF say whether the product exceeds its lower half, read without sign for MUL and
with sign for IMUL; the other status flags are free values. -/
def Obligations.MultiplyComplete : Prop :=
  (∀ (e : Rm Reg) (s s1 : State) (b : BitVec s.osBits), readRm s.osBits e s = .ok b s1 →
      let n := s.osBits
      let a := s1.regN n .eax
      let done (p : Nat) (big : Bool) : State :=
        let t := (s1.setRegN .eax (BitVec.ofNat n p)).setRegN .edx (BitVec.ofNat n (p / 2 ^ n))
        t.drawn.withFlags { t.flags.undefined t.fresh with cf := big, ovf := big }
      let q := a.toInt * b.toInt
      exec (.mulEv e) s
          = .next ((done (a.toNat * b.toNat) (decide (2 ^ n ≤ a.toNat * b.toNat))).complete s.flags.tf)
        ∧ exec (.imulEv e) s
          = .next ((done (q % (2 ^ (2 * n) : Nat)).toNat (decide ((BitVec.ofInt n q).toInt ≠ q))).complete s.flags.tf))
  ∧ (∀ (e : Rm Reg8) (s s1 : State) (b : Byte), readRm8 e s = .ok b s1 →
      let a := s1.reg8 .al
      let done (p : Nat) (big : Bool) : State :=
        let t := s1.setRegN .eax (BitVec.ofNat 16 p)
        t.drawn.withFlags { t.flags.undefined t.fresh with cf := big, ovf := big }
      let q := a.toInt * b.toInt
      exec (.mulEb e) s = .next ((done (a.toNat * b.toNat) (decide (256 ≤ a.toNat * b.toNat))).complete s.flags.tf)
        ∧ exec (.imulEb e) s
          = .next ((done (q % 65536).toNat (decide ((BitVec.ofInt 8 q).toInt ≠ q))).complete s.flags.tf))
  ∧ (∀ (g : Reg) (e : Rm Reg) (imm : Word32) (imm8 : Byte) (s s1 : State) (a : BitVec s.osBits),
      readRm s.osBits e s = .ok a s1 →
      let n := s.osBits
      let done (b : BitVec n) : State :=
        let q := a.toInt * b.toInt
        let big := decide ((BitVec.ofInt n q).toInt ≠ q)
        let t := s1.setRegN g (BitVec.ofInt n q)
        t.drawn.withFlags { t.flags.undefined t.fresh with cf := big, ovf := big }
      exec (.imulGvEv g e) s = .next ((done (s1.regN n g)).complete s.flags.tf)
        ∧ exec (.imulGvEvIv g e imm) s = .next ((done (imm.setWidth n)).complete s.flags.tf)
        ∧ exec (.imulGvEvIb g e imm8) s = .next ((done (imm8.signExtend n)).complete s.flags.tf))

/-- 41_arithmetic.md R382, R383: DIV and IDIV with a divisor that is not 0 and a quotient that fits. The quotient is the
one with `dividend = divisor * quotient + remainder`, for DIV with `remainder < divisor`, and for IDIV with
`|remainder| < |divisor|` and the sign of the dividend; the status flags are free values.
41_arithmetic.md R382, R383, R393: the divide error, vector 0, of a zero divisor, of an unsigned or signed quotient that
does not fit, and of AAM with 0. -/
def Obligations.DivideFormsComplete : Prop :=
  ((∀ (e : Rm Reg) (s s1 : State) (v : BitVec s.osBits) (q r : Nat), readRm s.osBits e s = .ok v s1 →
        let n := s.osBits
        (s1.regN n .edx).toNat * 2 ^ n + (s1.regN n .eax).toNat = v.toNat * q + r → r < v.toNat → q < 2 ^ n →
          let t := (s1.setRegN .eax (BitVec.ofNat n q)).setRegN .edx (BitVec.ofNat n r)
          exec (.divEv e) s = .next ((t.drawn.withFlags (t.flags.undefined t.fresh)).complete s.flags.tf))
    ∧ (∀ (e : Rm Reg8) (s s1 : State) (v : Byte) (q r : Nat), readRm8 e s = .ok v s1 →
        (s1.regN 16 .eax).toNat = v.toNat * q + r → r < v.toNat → q < 256 →
          let t := (s1.setReg8 .al (BitVec.ofNat 8 q)).setReg8 .ah (BitVec.ofNat 8 r)
          exec (.divEb e) s = .next ((t.drawn.withFlags (t.flags.undefined t.fresh)).complete s.flags.tf))
    ∧ (∀ (e : Rm Reg) (s s1 : State) (v : BitVec s.osBits) (q r : Int), readRm s.osBits e s = .ok v s1 →
        let n := s.osBits
        let d := (s1.regN n .edx).toInt * 2 ^ n + (s1.regN n .eax).toNat
        d = v.toInt * q + r → r.natAbs < v.toInt.natAbs → (0 ≤ d → 0 ≤ r) → (d ≤ 0 → r ≤ 0) →
        -(2 ^ (n - 1)) ≤ q → q < 2 ^ (n - 1) →
          let t := (s1.setRegN .eax (BitVec.ofInt n q)).setRegN .edx (BitVec.ofInt n r)
          exec (.idivEv e) s = .next ((t.drawn.withFlags (t.flags.undefined t.fresh)).complete s.flags.tf))
    ∧ (∀ (e : Rm Reg8) (s s1 : State) (v : Byte) (q r : Int), readRm8 e s = .ok v s1 →
        let d := (s1.regN 16 .eax).toInt
        d = v.toInt * q + r → r.natAbs < v.toInt.natAbs → (0 ≤ d → 0 ≤ r) → (d ≤ 0 → r ≤ 0) → -128 ≤ q → q < 128 →
          let t := (s1.setReg8 .al (BitVec.ofInt 8 q)).setReg8 .ah (BitVec.ofInt 8 r)
          exec (.idivEb e) s = .next ((t.drawn.withFlags (t.flags.undefined t.fresh)).complete s.flags.tf)))
  ∧ ((∀ (e : Rm Reg) (s s1 : State) (v : BitVec s.osBits), readRm s.osBits e s = .ok v s1 →
        let n := s.osBits
        (v = 0 → exec (.divEv e) s = takeExc s s1 (.vector 0 none) ∧ exec (.idivEv e) s = takeExc s s1 (.vector 0 none))
          ∧ (v.toNat ≤ (s1.regN n .edx).toNat → exec (.divEv e) s = takeExc s s1 (.vector 0 none))
          ∧ (∀ q r : Int,
              let d := (s1.regN n .edx).toInt * 2 ^ n + (s1.regN n .eax).toNat
              d = v.toInt * q + r → r.natAbs < v.toInt.natAbs → (0 ≤ d → 0 ≤ r) → (d ≤ 0 → r ≤ 0) →
              (q < -(2 ^ (n - 1)) ∨ 2 ^ (n - 1) ≤ q) → exec (.idivEv e) s = takeExc s s1 (.vector 0 none)))
    ∧ (∀ (e : Rm Reg8) (s s1 : State) (v : Byte), readRm8 e s = .ok v s1 →
        (v = 0 → exec (.divEb e) s = takeExc s s1 (.vector 0 none) ∧ exec (.idivEb e) s = takeExc s s1 (.vector 0 none))
          ∧ (v.toNat ≤ (s1.reg8 .ah).toNat → exec (.divEb e) s = takeExc s s1 (.vector 0 none))
          ∧ (∀ q r : Int,
              let d := (s1.regN 16 .eax).toInt
              d = v.toInt * q + r → r.natAbs < v.toInt.natAbs → (0 ≤ d → 0 ≤ r) → (d ≤ 0 → r ≤ 0) →
              (q < -128 ∨ 128 ≤ q) → exec (.idivEb e) s = takeExc s s1 (.vector 0 none)))
    ∧ (∀ s : State, exec (.aamIb 0) s = takeExc s s (.vector 0 none)))

/-- 41_arithmetic.md R389 to R394: the decimal adjustments. DAA and DAS correct each digit that exceeds 9 or whose carry
is set; AAA and AAS correct AL by 6 and AH by 1 (by 1 or 2, a free choice, where AL itself wraps: assumption log 24);
AAM and AAD divide and multiply by their operand. The flags a rule leaves undefined are free values. -/
def Obligations.DecimalAdjustComplete : Prop :=
  ∀ (s : State),
    let al := s.reg8 .al
    let ah := s.reg8 .ah
    let f := s.flags
    let u := s.fresh
    let low := decide (9 < al.toNat % 16) || f.af
    let high := decide (0x99 < al.toNat) || f.cf
    let d : Byte := (if low then 6 else 0) + (if high then 0x60 else 0)
    let done (r : Byte) : State :=
      ((s.setReg8 .al r).drawn.withFlags { f.ofResult r with cf := high, af := low, ovf := bitAt u 11 })
    let ascii (v : Byte) (h : Byte) : State :=
      (((s.setReg8 .al (v &&& 0x0F)).setReg8 .ah h).drawn.withFlags { f.undefined u with cf := low, af := low })
    exec .daa s = .next ((done (al + d)).complete f.tf)
      ∧ exec .das s = .next ((done (al - d)).complete f.tf)
      ∧ (low = false → exec .aaa s = .next ((ascii al ah).complete f.tf)
          ∧ exec .aas s = .next ((ascii al ah).complete f.tf))
      ∧ (low = true →
          (al.toNat ≤ 0xF9 → exec .aaa s = .next ((ascii (al + 6) (ah + 1)).complete f.tf))
          ∧ (0xF9 < al.toNat →
              exec .aaa s = .next ((ascii (al + 6) (ah + (if bitAt u 16 then 2 else 1))).complete f.tf))
          ∧ (6 ≤ al.toNat → exec .aas s = .next ((ascii (al - 6) (ah - 1)).complete f.tf))
          ∧ (al.toNat < 6 →
              exec .aas s = .next ((ascii (al - 6) (ah - (if bitAt u 16 then 2 else 1))).complete f.tf)))
      ∧ (∀ imm : Byte, imm ≠ 0 → exec (.aamIb imm) s
          = .next (((((s.setReg8 .ah (al / imm)).setReg8 .al (al % imm))).drawn.withFlags
              ((f.undefined u).ofResult (al % imm))).complete f.tf))
      ∧ (∀ imm : Byte, exec (.aadIb imm) s
          = .next (((((s.setReg8 .al (al + ah * imm)).setReg8 .ah 0)).drawn.withFlags
              ((f.undefined u).ofResult (al + ah * imm))).complete f.tf))

/-! ### Shifts, rotates and bits -/

/-- 42_shift_rotate.md R421 to R428: the shifts and rotates in every form. With a count of 0 nothing changes but what
checking a memory operand for writing and reading it does (that the breakpoints see a read and page bit D is set is the
model's choice, assumption log 46); else the result and the flags are those of `shiftCompute`. -/
def Obligations.ShiftFormsComplete : Prop :=
  (∀ (op : Shift) (e : Rm Reg) (c : Count) (s : State),
      (c.value s = 0 → ∀ t : State, Touched s.osBits e s t → exec (op.word e c) s = .next (t.complete s.flags.tf))
        ∧ (c.value s ≠ 0 → ∀ (s1 : State) (p : Place Reg), openRm s.osBits e s = .ok p s1 →
            let s2 := p.seen s1
            let r := shiftCompute op s2.flags (p.value s.osBits s1) (c.value s) s2.fresh
            exec (op.word e c) s = .next ((p.put r.1 (s2.drawn.withFlags r.2)).complete s.flags.tf)))
  ∧ (∀ (op : Shift) (e : Rm Reg8) (c : Count) (s : State),
      (c.value s = 0 → ∀ t : State, Touched 8 e s t → exec (op.byte e c) s = .next (t.complete s.flags.tf))
        ∧ (c.value s ≠ 0 → ∀ (s1 : State) (p : Place Reg8), openRm 8 e s = .ok p s1 →
            let s2 := p.seen s1
            let r := shiftCompute op s2.flags (p.byte s1) (c.value s) s2.fresh
            exec (op.byte e c) s = .next ((p.putByte r.1 (s2.drawn.withFlags r.2)).complete s.flags.tf)))

/-- 42_shift_rotate.md R422 to R428: what the shifts and rotates compute, for a count of 1 to 31. SHL multiplies and SHR
and SAR divide by a power of 2, CF being the last bit shifted out and ZF, SF and PF those of the result; ROL and ROR
move each bit round the operand, RCL and RCR round CF and the operand together, and all four write only CF and OF. -/
def Obligations.ShiftResults : Prop :=
  ∀ (n : Nat) (f : Flags) (a : BitVec n) (cnt : Nat) (u : Word32), 1 < n → 0 < cnt →
    let shl := shiftCompute .shl f a cnt u
    let shr := shiftCompute .shr f a cnt u
    let sar := shiftCompute .sar f a cnt u
    let rol := shiftCompute .rol f a cnt u
    let ror := shiftCompute .ror f a cnt u
    let rcl := shiftCompute .rcl f a cnt u
    let rcr := shiftCompute .rcr f a cnt u
    shl.1.toNat = a.toNat * 2 ^ cnt % 2 ^ n
      ∧ (cnt ≤ n → shl.2.cf = decide (a.toNat / 2 ^ (n - cnt) % 2 = 1))
      ∧ (cnt = 1 → (shl.2.ovf = true ↔ shl.1.toInt ≠ 2 * a.toInt))
      ∧ shr.1.toNat = a.toNat / 2 ^ cnt
      ∧ (cnt ≤ n → shr.2.cf = decide (a.toNat / 2 ^ (cnt - 1) % 2 = 1))
      ∧ (cnt = 1 → shr.2.ovf = a.msb)
      ∧ sar.1.toInt = a.toInt / 2 ^ cnt
      ∧ sar.2.cf = decide (a.toInt / 2 ^ (cnt - 1) % 2 = 1)
      ∧ (cnt = 1 → sar.2.ovf = false)
      ∧ (∀ i, i < n → bitAt rol.1 ((i + cnt) % n) = bitAt a i)
      ∧ rol.2.cf = bitAt rol.1 0 ∧ (cnt = 1 → rol.2.ovf = (rol.1.msb ^^ rol.2.cf))
      ∧ (∀ i, i < n → bitAt ror.1 i = bitAt a ((i + cnt) % n))
      ∧ ror.2.cf = ror.1.msb ∧ (cnt = 1 → ror.2.ovf = (ror.1.msb ^^ bitAt ror.1 (n - 2)))
      ∧ (∀ i, i ≤ n → bitAt (withCarry rcl.2.cf rcl.1) ((i + cnt) % (n + 1)) = bitAt (withCarry f.cf a) i)
      ∧ (cnt = 1 → rcl.2.ovf = (rcl.1.msb ^^ rcl.2.cf))
      ∧ (∀ i, i ≤ n → bitAt (withCarry rcr.2.cf rcr.1) i = bitAt (withCarry f.cf a) ((i + cnt) % (n + 1)))
      ∧ (cnt = 1 → rcr.2.ovf = (rcr.1.msb ^^ bitAt rcr.1 (n - 2)))
      ∧ (∀ x ∈ [shl, shr, sar],
          (x.2.zf = true ↔ x.1 = 0) ∧ x.2.sf = x.1.msb ∧ x.2.pf = evenParity (x.1.setWidth 8)
            ∧ x.2 = { f with cf := x.2.cf, ovf := x.2.ovf, zf := x.2.zf, sf := x.2.sf, pf := x.2.pf, af := x.2.af })
      ∧ (∀ x ∈ [rol, ror, rcl, rcr], x.2 = { f with cf := x.2.cf, ovf := x.2.ovf })

/-- 42_shift_rotate.md R429, R430: SHLD and SHRD. With a count of 0 nothing changes but what checking a memory operand
for writing and reading it does (that they access it at all is the model's choice, assumption log 46); up to the operand
size the bits of the register enter; above it the destination and the flags are free values. -/
def Obligations.DoubleShiftFormsComplete : Prop :=
  ∀ (e : Rm Reg) (g : Reg) (imm : Byte) (byCl : Bool) (s : State),
   let n := s.osBits
   let cnt := if byCl then Count.cl.value s else (Count.imm imm).value s
   let shld := if byCl then exec (.shldEvGvCl e g) s else exec (.shldEvGvIb e g imm) s
   let shrd := if byCl then exec (.shrdEvGvCl e g) s else exec (.shrdEvGvIb e g imm) s
   (cnt = 0 → ∀ t : State, Touched n e s t →
      shld = .next (t.complete s.flags.tf) ∧ shrd = .next (t.complete s.flags.tf))
   ∧ (∀ (s1 : State) (p : Place Reg), openRm n e s = .ok p s1 →
    let s2 := p.seen s1
    let a := p.value n s1
    let b := s.regN n g
    let done (r : BitVec n) (c : Bool) : Host.Outcome State Fault Refusal :=
      .next ((p.put r (s2.drawn.withFlags
        { s2.flags.ofResult r with cf := c, af := bitAt s2.fresh 4,
                                   ovf := if cnt = 1 then r.msb ^^ a.msb else bitAt s2.fresh 11 })).complete s.flags.tf)
    (0 < cnt → cnt ≤ n →
          shld = done ((a <<< cnt) ||| (b >>> (n - cnt))) (bitAt a (n - cnt))
            ∧ shrd = done ((a >>> cnt) ||| (b <<< (n - cnt))) (bitAt a (cnt - 1)))
      ∧ (n < cnt →
          let t := .next ((p.put (s2.drawn.fresh.setWidth n)
            (s2.drawn.drawn.withFlags (s2.flags.undefined s2.fresh))).complete s.flags.tf)
          shld = t ∧ shrd = t))

/-- 44_bit.md R460 to R464: the bit tests on a register. The offset counts modulo the operand size; CF receives the bit;
BT keeps the register, BTS, BTR and BTC set, clear and complement the bit; the other status flags are free values. -/
def Obligations.BitTestRegisterFormsComplete : Prop :=
  ∀ (op : BitOp) (r g : Reg) (imm : Byte) (s : State),
    let n := s.osBits
    let v := s.regN n r
    let t (i : Nat) : State := s.drawn.withFlags { s.flags.undefined s.fresh with cf := bitAt v i }
    let done (i : Nat) : State :=
      match op with
      | .bt => t i
      | .bts => (t i).setRegN r (v ||| BitVec.twoPow n i)
      | .btr => (t i).setRegN r (v &&& ~~~BitVec.twoPow n i)
      | .btc => (t i).setRegN r (v ^^^ BitVec.twoPow n i)
    exec (op.byRegister (.reg r) g) s = .next ((done ((s.regN n g).toNat % n)).complete s.flags.tf)
      ∧ exec (op.byImmediate (.reg r) imm) s = .next ((done (imm.toNat % n)).complete s.flags.tf)

/-- 44_bit.md R460 to R464: the bit tests on memory. With a register offset the bit lies in a string of bits that
extends both ways from the operand's address.
44_bit.md R460: the byte of memory a register bit offset reaches lies `offset div 8` bytes from the operand's
address: the operand that holds the bit starts `n / 8` bytes times the floor of `offset / n` away, and the bit counts
from there. With 16-bit addresses it starts there modulo 2^16 (00_scope.md R13, 30_encoding.md R278; DEDUCED, assumption
log 45). -/
def Obligations.BitTestMemoryFormsComplete : Prop :=
  ((∀ (m : Mem) (g : Reg) (imm : Byte) (s s1 : State) (v : Nat),
      let n := s.osBits
      let offset := (s.regN n g).toInt
      let done (i : Nat) : State := s1.drawn.withFlags { s1.flags.undefined s1.fresh with cf := bitAt (BitVec.ofNat n v) i }
      (segRead (s.memSegment m) (s.bitAddress n m offset) (n / 8) s = .ok v s1 →
          exec (.btEvGv (.mem m) g) s = .next ((done (offset % n).toNat).complete s.flags.tf))
        ∧ (segRead (s.memSegment m) (s.ea m) (n / 8) s = .ok v s1 →
          exec (.btEvIb (.mem m) imm) s = .next ((done (imm.toNat % n)).complete s.flags.tf)))
    ∧ (∀ (op : BitOp) (m : Mem) (g : Reg) (imm : Byte) (s s1 : State) (ps : List Nat), op ≠ .bt →
      let n := s.osBits
      let offset := (s.regN n g).toInt
      let s2 := s1.afterReading ps
      let v : BitVec n := BitVec.ofNat n (ofBytes (s1.bytesAt ps))
      let done (i : Nat) : State :=
        (s2.drawn.withFlags { s2.flags.undefined s2.fresh with cf := bitAt v i }).afterWriting ps
          (toBytes (n / 8) (bitResult op v i).toNat)
      (dataAddresses (s.memSegment m) (s.bitAddress n m offset) (n / 8) true s = .ok ps s1 →
          exec (op.byRegister (.mem m) g) s = .next ((done (offset % n).toNat).complete s.flags.tf))
        ∧ (dataAddresses (s.memSegment m) (s.ea m) (n / 8) true s = .ok ps s1 →
          exec (op.byImmediate (.mem m) imm) s = .next ((done (imm.toNat % n)).complete s.flags.tf))))
  ∧ (∀ (s : State) (m : Mem) (n : Nat) (offset : Int), n = 16 ∨ n = 32 → s.as32 = true →
      let i := (offset % n).toNat
      i < n ∧ s.bitAddress n m offset + BitVec.ofNat 32 (i / 8) = s.ea m + BitVec.ofInt 32 (offset / 8)
        ∧ ((i % 8 : Nat) : Int) = offset % 8)
  ∧ (∀ (s : State) (m : Mem) (n : Nat) (offset : Int), n = 16 ∨ n = 32 → s.as32 = false →
      ((s.bitAddress n m offset).toNat : Int) = ((s.ea m).toNat + (n / 8 : Nat) * (offset / n)) % 65536)

/-- 44_bit.md R465, R466: BSF finds the lowest and BSR the highest 1 bit; with a source of 0, ZF is set and the
destination is a free value. -/
def Obligations.BitScanFormsComplete : Prop :=
  ∀ (g : Reg) (e : Rm Reg) (s s1 : State) (v : BitVec s.osBits), readRm s.osBits e s = .ok v s1 →
    let n := s.osBits
    let t : State := s1.drawn.withFlags { s1.flags.undefined s1.fresh with zf := decide (v = 0) }
    (v = 0 →
        let z := .next ((t.drawn.setRegN g (t.fresh.setWidth n)).complete s.flags.tf)
        exec (.bsfGvEv g e) s = z ∧ exec (.bsrGvEv g e) s = z)
      ∧ (∀ k : Nat, bitAt v k = true → (∀ j, j < k → bitAt v j = false) →
          exec (.bsfGvEv g e) s = .next ((t.setRegN g (BitVec.ofNat n k)).complete s.flags.tf))
      ∧ (∀ k : Nat, bitAt v k = true → (∀ j, k < j → bitAt v j = false) →
          exec (.bsrGvEv g e) s = .next ((t.setRegN g (BitVec.ofNat n k)).complete s.flags.tf))

/-! ### Data transfer -/

/-- 40_data_transfer.md R323, R324, R325, R328, R329: MOV, MOVZX and MOVSX in every form. The destination receives the
source, extended with zeros or with its sign, and nothing else changes. -/
def Obligations.MoveFormsComplete : Prop :=
  (∀ (e : Rm Reg8) (g : Reg8) (imm : Byte) (s s1 : State) (p : Place Reg8), openRm 8 e s = .ok p s1 →
      exec (.movEbGb e g) s = .next ((p.putByte (s.reg8 g) s1).complete s.flags.tf)
        ∧ exec (.movEbIb e imm) s = .next ((p.putByte imm s1).complete s.flags.tf))
  ∧ (∀ (e : Rm Reg) (g : Reg) (imm : Word32) (s s1 : State) (p : Place Reg), openRm s.osBits e s = .ok p s1 →
      exec (.movEvGv e g) s = .next ((p.put (s.regN s.osBits g) s1).complete s.flags.tf)
        ∧ exec (.movEvIv e imm) s = .next ((p.put (imm.setWidth s.osBits) s1).complete s.flags.tf))
  ∧ (∀ (g8 : Reg8) (g : Reg) (e : Rm Reg8) (s s1 : State) (v : Byte), readRm8 e s = .ok v s1 →
      exec (.movGbEb g8 e) s = .next ((s1.setReg8 g8 v).complete s.flags.tf)
        ∧ exec (.movzxGvEb g e) s = .next ((s1.setRegN g (v.setWidth s1.osBits)).complete s.flags.tf)
        ∧ exec (.movsxGvEb g e) s = .next ((s1.setRegN g (v.signExtend s1.osBits)).complete s.flags.tf))
  ∧ (∀ (g : Reg) (e : Rm Reg) (s s1 : State) (v : BitVec s.osBits), readRm s.osBits e s = .ok v s1 →
      exec (.movGvEv g e) s = .next ((s1.setRegN g v).complete s.flags.tf))
  ∧ (∀ (g : Reg) (e : Rm Reg) (s s1 : State) (v : Word16), readRm 16 e s = .ok v s1 →
      exec (.movzxGvEw g e) s = .next ((s1.setRegN g (v.setWidth s1.osBits)).complete s.flags.tf)
        ∧ exec (.movsxGvEw g e) s = .next ((s1.setRegN g (v.signExtend s1.osBits)).complete s.flags.tf))
  ∧ (∀ (r8 : Reg8) (r : Reg) (imm8 : Byte) (imm : Word32) (s : State),
      exec (.movR8Ib r8 imm8) s = .next ((s.setReg8 r8 imm8).complete s.flags.tf)
        ∧ exec (.movRIv r imm) s = .next ((s.setRegN r (imm.setWidth s.osBits)).complete s.flags.tf))
  ∧ (∀ (off : Word32) (s s1 : State) (v : Nat),
      (segRead s.dataSegment off 1 s = .ok v s1 →
        exec (.movAlOb off) s = .next ((s1.setReg8 .al (BitVec.ofNat 8 v)).complete s.flags.tf))
      ∧ (segRead s.dataSegment off (s.osBits / 8) s = .ok v s1 →
        exec (.movEaxOv off) s = .next ((s1.setRegN .eax (BitVec.ofNat s.osBits v)).complete s.flags.tf)))
  ∧ (∀ (off : Word32) (s s1 : State) (ps : List Nat),
      (dataAddresses s.dataSegment off 1 true s = .ok ps s1 →
        exec (.movObAl off) s = .next ((s1.afterWriting ps [s.reg8 .al]).complete s.flags.tf))
      ∧ (dataAddresses s.dataSegment off (s.osBits / 8) true s = .ok ps s1 →
        exec (.movOvEax off) s
          = .next ((s1.afterWriting ps (toBytes (s.osBits / 8) (s.regN s.osBits .eax).toNat)).complete s.flags.tf)))

/-- 40_data_transfer.md R330: XCHG exchanges its operands. -/
def Obligations.ExchangeFormsComplete : Prop :=
  (∀ (e : Rm Reg) (g : Reg) (s s1 : State) (p : Place Reg), openRm s.osBits e s = .ok p s1 →
      let n := s.osBits
      let s2 := p.seen s1
      exec (.xchgEvGv e g) s
        = .next ((p.put (s2.regN n g) (s2.setRegN g (p.value n s1))).complete s.flags.tf))
  ∧ (∀ (e : Rm Reg8) (g : Reg8) (s s1 : State) (p : Place Reg8), openRm 8 e s = .ok p s1 →
      let s2 := p.seen s1
      exec (.xchgEbGb e g) s = .next ((p.putByte (s2.reg8 g) (s2.setReg8 g (p.byte s1))).complete s.flags.tf))
  ∧ (∀ (r : Reg) (s : State),
      let n := s.osBits
      exec (.xchgEaxR r) s
        = .next (((s.setRegN r (s.regN n .eax)).setRegN .eax (s.regN n r)).complete s.flags.tf))

/-- 40_data_transfer.md R339, R342 to R346: LEA, XLAT, LAHF, SAHF, CBW, CWDE, CWD and CDQ.
30_encoding.md R278 to R280: the effective address is the sum of base, scaled index and displacement modulo 2^16 or 2^32;
the code of ESP as index means none, whatever the scale (where the scale is not 1: DEDUCED, assumption log 23).
30_encoding.md R275: a memory operand whose base is BP, EBP or ESP lies in SS and another in DS, where no prefix names a
segment. -/
def Obligations.AccumulatorFormsComplete : Prop :=
  ∀ (s : State) (g : Reg) (m : Mem),
    let n := s.osBits
    let f := s.flags
    let ah := s.reg8 .ah
    exec (.leaGvM g m) s = .next ((s.setRegN g ((s.ea m).setWidth n)).complete f.tf)
      ∧ (∀ (s1 : State) (v : Nat),
          segRead s.dataSegment (sized s.as32 (s.reg .ebx + (s.reg8 .al).setWidth 32)) 1 s = .ok v s1 →
          exec .xlat s = .next ((s1.setReg8 .al (BitVec.ofNat 8 v)).complete f.tf))
      ∧ exec .lahf s = .next ((s.setReg8 .ah
          (BitVec.ofBool f.sf ++ BitVec.ofBool f.zf ++ 0#1 ++ BitVec.ofBool f.af ++ 0#1 ++ BitVec.ofBool f.pf ++ 1#1
            ++ BitVec.ofBool f.cf)).complete f.tf)
      ∧ exec .sahf s = .next ((s.withFlags
          { f with sf := ah.getLsbD 7, zf := ah.getLsbD 6, af := ah.getLsbD 4, pf := ah.getLsbD 2,
                   cf := ah.getLsbD 0 }).complete f.tf)
      ∧ exec .cbw s = .next ((if s.os32 then s.setReg .eax (((s.reg .eax).setWidth 16).signExtend 32)
          else s.setRegN .eax ((s.reg8 .al).signExtend 16)).complete f.tf)
      ∧ exec .cwd s = .next ((s.setRegN .edx
          (if (s.regN n .eax).msb then BitVec.allOnes n else BitVec.ofNat n 0)).complete f.tf)
      ∧ (let word (r : Reg) : Nat := (s.reg r).toNat % 65536
         let sum (b : Base16) : Nat := match b with
           | .bxSi => word .ebx + word .esi | .bxDi => word .ebx + word .edi | .bpSi => word .ebp + word .esi
           | .bpDi => word .ebp + word .edi | .si => word .esi | .di => word .edi | .bp => word .ebp | .bx => word .ebx
         let disp16 (d : Disp16) : Nat := match d with
           | .none => 0 | .d8 v => (v.signExtend 16 : Word16).toNat | .d16 v => v.toNat
         let disp32 (d : Disp32) : Nat := match d with
           | .none => 0 | .d8 v => (v.signExtend 32 : Word32).toNat | .d32 v => v.toNat
         let index (scale : BitVec 2) (x : Reg) : Nat := if x = .esp then 0 else (s.reg x).toNat * 2 ^ scale.toNat
         (∀ d : Word16, (s.ea (.direct16 d)).toNat = d.toNat)
           ∧ (∀ (b : Base16) (d : Disp16), (s.ea (.based16 b d)).toNat = (sum b + disp16 d) % 2 ^ 16)
           ∧ (∀ d : Word32, s.ea (.direct32 d) = d)
           ∧ (∀ (r : Reg) (d : Disp32), (s.ea (.based32 r d)).toNat = ((s.reg r).toNat + disp32 d) % 2 ^ 32)
           ∧ (∀ (k : BitVec 2) (x r : Reg) (d : Disp32),
               (s.ea (.sib k x r d)).toNat = ((s.reg r).toNat + index k x + disp32 d) % 2 ^ 32)
           ∧ (∀ (k : BitVec 2) (x : Reg) (d : Word32), (s.ea (.sibNoBase k x d)).toNat = (index k x + d.toNat) % 2 ^ 32))
      ∧ (let inStack : Bool := match m with
           | .based16 b _ => decide (b ∈ [.bpSi, .bpDi, .bp])
           | .based32 r _ => decide (r ∈ [.esp, .ebp])
           | .sib _ _ r _ => decide (r ∈ [.esp, .ebp])
           | .direct16 _ => false | .direct32 _ => false | .sibNoBase _ _ _ => false
         (s.cur.seg = none → s.dataSegment = .ds ∧ s.memSegment m = if inStack then .ss else .ds)
           ∧ (∀ r : SegReg, s.cur.seg = some r → s.dataSegment = r ∧ s.memSegment m = r))

/-- 48_processor_control.md R580 to R584: CLC, STC, CMC, CLD and STD each write their one flag. -/
def Obligations.FlagInstructionsWriteOneFlag : Prop :=
  ∀ (s : State),
    exec .clc s = .next ((s.withFlags { s.flags with cf := false }).complete s.flags.tf)
      ∧ exec .stc s = .next ((s.withFlags { s.flags with cf := true }).complete s.flags.tf)
      ∧ exec .cmc s = .next ((s.withFlags { s.flags with cf := !s.flags.cf }).complete s.flags.tf)
      ∧ exec .cld s = .next ((s.withFlags { s.flags with df := false }).complete s.flags.tf)
      ∧ exec .std s = .next ((s.withFlags { s.flags with df := true }).complete s.flags.tf)

/-- 48_processor_control.md R585 to R588, R590, R591, 47_os_support.md R556: NOP; CLI, STI, HLT and CLTS where the
level allows them; ESC and WAIT where no coprocessor trap is armed (with no coprocessor, assumption log 9).
60_exceptions.md R658, 48_processor_control.md R590, R591: ESC with EM or TS set and WAIT with MP and TS set raise
vector 7, ESC at its opcode byte, before the bytes after it are fetched. The memory operand of ESC is checked as one byte
that is read (DESIGN CHOICE, assumption log 9), which with paging off is the segment tests alone, and nothing is accessed. -/
def Obligations.ProcessorControlComplete : Prop :=
  (∀ (s : State),
      exec .nop s = .next (s.complete s.flags.tf)
        ∧ (s.ioAllowed = true →
            exec .cli s = .next ((s.withFlags { s.flags with ie := false }).complete s.flags.tf)
              ∧ exec .sti s = .next ((s.withFlags { s.flags with ie := true }).complete s.flags.tf))
        ∧ (s.privilegedOk = true →
            exec .hlt s = .next (({ s with run := .halted } : State).complete s.flags.tf)
              ∧ exec .clts s = .next (({ s with cr0 := { s.cr0 with ts := false } } : State).complete s.flags.tf))
        ∧ (s.cr0.mp = false ∨ s.cr0.ts = false → exec .wait s = .next (s.complete s.flags.tf))
        ∧ (∀ (hi op : BitVec 3) (r : Reg), s.cr0.em = false → s.cr0.ts = false →
            exec (.esc hi op (.reg r)) s = .next (s.complete s.flags.tf))
        ∧ (∀ (hi op : BitVec 3) (m : Mem), s.cr0.em = false → s.cr0.ts = false →
            (s.cr0.pg = false → s.segFault (s.memSegment m) (s.ea m) 1 .read = none →
              exec (.esc hi op (.mem m)) s = .next (s.complete s.flags.tf))
            ∧ (∀ t : State, segProbe (s.memSegment m) (s.ea m) 1 false s = .ok () t →
              exec (.esc hi op (.mem m)) s = .next (t.complete s.flags.tf))
            ∧ (∀ (x : Exc) (t : State), segProbe (s.memSegment m) (s.ea m) 1 false s = .error x t →
              exec (.esc hi op (.mem m)) s = takeExc s t x)))
  ∧ (∀ (s : State),
      (s.cr0.mp = true → s.cr0.ts = true → exec .wait s = takeExc s s (.vector 7 none))
        ∧ (∀ (hi op : BitVec 3) (e : Rm Reg), s.cr0.em = true ∨ s.cr0.ts = true →
            exec (.esc hi op e) s = takeExc s s (.vector 7 none))
        ∧ (∀ (b : Byte) (t : State), fetchByte s = .ok b t → 0xD8 ≤ b.toNat → b.toNat ≤ 0xDF → s.cur.lock = false →
            s.cr0.em = true ∨ s.cr0.ts = true → fetchItem s = .error (.vector 7 none) t))

/-- 40_data_transfer.md R322, R326, R327, R334, R341: segment registers in real mode and V86 mode. A load takes any
selector, and its base is the selector times 16; the store forms store the selector. The selector of LDS and its like lies
at EA + OS/8 modulo 2^AS (00_scope.md R13, 30_encoding.md R278; DEDUCED, assumption log 45). -/
def Obligations.SegmentMovesInRealMode : Prop :=
  (∀ (sr : SegReg) (e : Rm Reg) (s s1 : State) (v : Word16), sr ≠ .cs → s.protected = false →
      readRm 16 e s = .ok v s1 →
      exec (.movSregEw sr e) s
        = .next ((s1.setSeg sr (SegCache.real v (if s.v86 then 3 else 0))).complete s.flags.tf))
  ∧ (∀ (s s1 : State) (v : Nat), s.protected = false → stackRead 0 (s.osBits / 8) s = .ok v s1 →
      let done (sr : SegReg) : Host.Outcome State Fault Refusal :=
        let t := s1.setSeg sr (SegCache.real (BitVec.ofNat 16 v) (if s.v86 then 3 else 0))
        .next ((t.withSp (s1.stackOffset (s1.sp + BitVec.ofNat 32 (s.osBits / 8)))).complete s.flags.tf)
      exec .popEs s = done .es ∧ exec .popDs s = done .ds ∧ exec .popFs s = done .fs ∧ exec .popGs s = done .gs
        ∧ exec .popSs s = done .ss)
  ∧ (∀ (g : Reg) (m : Mem) (s s1 s2 : State) (off sel : Nat), s.protected = false →
      segRead (s.memSegment m) (s.ea m) (s.osBits / 8) s = .ok off s1 →
      segRead (s.memSegment m) (sized s.as32 (s.ea m + BitVec.ofNat 32 (s.osBits / 8))) 2 s1 = .ok sel s2 →
      let done (sr : SegReg) : Host.Outcome State Fault Refusal :=
        .next (((s2.setSeg sr (SegCache.real (BitVec.ofNat 16 sel) (if s.v86 then 3 else 0))).setRegN g
          (BitVec.ofNat s.osBits off)).complete s.flags.tf)
      exec (.lesGvMp g m) s = done .es ∧ exec (.ldsGvMp g m) s = done .ds ∧ exec (.lssGvMp g m) s = done .ss
        ∧ exec (.lfsGvMp g m) s = done .fs ∧ exec (.lgsGvMp g m) s = done .gs)
  ∧ (∀ (sr : SegReg) (r : Reg) (s : State),
      exec (.movEwSreg (.reg r) sr) s
        = .next ((if s.os32 then s.drawn.setReg r (insertLow s.fresh (s.seg sr).sel)
            else s.setRegN r (s.seg sr).sel).complete s.flags.tf))
  ∧ (∀ (sr : SegReg) (m : Mem) (s s1 : State) (p : Place Reg), openRm 16 (.mem m) s = .ok p s1 →
      exec (.movEwSreg (.mem m) sr) s = .next ((p.put (s.seg sr).sel s1).complete s.flags.tf))

/-- 40_data_transfer.md R322, R327, R334, R341, 21_segmentation_protection.md R156, R200, R201: MOV, POP, LDS, LES, LFS,
LGS and LSS to a segment register in protected mode. DS, ES, FS and GS take a null selector and become unusable; else
the descriptor must be a readable segment, visible from the weaker of CPL and RPL unless it conforms, and present, and
fills the cache. SS takes no null selector; its descriptor must be a writable data segment whose DPL is CPL, as the
selector's RPL is, and present. That type and privilege are tested before presence is the model's choice (assumption log
28). POP moves the stack pointer after the load. The selector of LDS and its like lies at EA + OS/8 modulo 2^AS
(00_scope.md R13, 30_encoding.md R278; DEDUCED, assumption log 45).
21_segmentation_protection.md R152, R153, 45_control_transfer.md R481: the descriptor a selector names is the 8 bytes at
the base of the GDT, or with TI of the LDT, plus 8 times its index, if all of them are inside the table. -/
def Obligations.SegmentLoadsInProtectedMode : Prop :=
  (∀ s : State, s.protected = true →
    let done (t : State) : Host.Outcome State Fault Refusal := .next (t.complete s.flags.tf)
    let data (i : Instr) (r : SegReg) (sel : Word16) (s1 : State) (fin : State → State) : Prop :=
      (isNull sel = true → exec i s = done (fin (s1.setSeg r { s1.seg r with sel := sel, valid := false })))
        ∧ (isNull sel = false → ∀ (d : Desc) (s2 : State), readDesc sel .gp s1 = .ok d s2 →
            let gp := takeExc s s2 (.vector 13 (some (selectorCode sel)))
            let visible : Prop := d.isConforming = true ∨ weaker s.level (rpl sel) ≤ d.dpl
            (d.isReadable = false → exec i s = gp) ∧ (d.isReadable = true → ¬ visible → exec i s = gp)
              ∧ (d.isReadable = true → visible → d.present = false →
                  exec i s = takeExc s s2 (.vector 11 (some (selectorCode sel))))
              ∧ (d.isReadable = true → visible → d.present = true → ∀ s3, markAccessed sel d s2 = .ok () s3 →
                  exec i s = done (fin (s3.setSeg r (d.cache sel)))))
    let stack (i : Instr) (sel : Word16) (s1 : State) (fin : State → State) : Prop :=
      (isNull sel = true → exec i s = takeExc s s1 (.vector 13 (some 0)))
        ∧ (isNull sel = false → ∀ (d : Desc) (s2 : State), readDesc sel .gp s1 = .ok d s2 →
            let fits : Prop := d.isWritable = true ∧ rpl sel = s.level ∧ d.dpl = s.level
            (¬ fits → exec i s = takeExc s s2 (.vector 13 (some (selectorCode sel))))
              ∧ (fits → d.present = false → exec i s = takeExc s s2 (.vector 12 (some (selectorCode sel))))
              ∧ (fits → d.present = true → ∀ s3, markAccessed sel d s2 = .ok () s3 →
                  exec i s = done (fin (s3.setSeg .ss (d.cache sel)))))
    let loads (i : Instr) (r : SegReg) (sel : Word16) (s1 : State) (fin : State → State) : Prop :=
      if r = .ss then stack i sel s1 fin else data i r sel s1 fin
    (∀ (r : SegReg) (e : Rm Reg) (s1 : State) (sel : Word16), r ≠ .cs → readRm 16 e s = .ok sel s1 →
        loads (.movSregEw r e) r sel s1 id)
      ∧ (∀ (r : SegReg) (i : Instr) (s1 : State) (v : Nat),
          (r, i) ∈ [(.es, .popEs), (.ss, .popSs), (.ds, .popDs), (.fs, .popFs), (.gs, .popGs)] →
          stackRead 0 (s.osBits / 8) s = .ok v s1 →
          loads i r (BitVec.ofNat 16 v) s1 fun t => t.withSp (t.stackOffset (t.sp + BitVec.ofNat 32 (s.osBits / 8))))
      ∧ (∀ (r : SegReg) (i : Instr) (g : Reg) (m : Mem) (s1 s2 : State) (off sel : Nat),
          (r, i) ∈ [(.es, .lesGvMp g m), (.ss, .lssGvMp g m), (.ds, .ldsGvMp g m), (.fs, .lfsGvMp g m),
            (.gs, .lgsGvMp g m)] →
          segRead (s.memSegment m) (s.ea m) (s.osBits / 8) s = .ok off s1 →
          segRead (s.memSegment m) (sized s.as32 (s.ea m + BitVec.ofNat 32 (s.osBits / 8))) 2 s1 = .ok sel s2 →
          loads i r (BitVec.ofNat 16 sel) s2 fun t => t.setRegN g (BitVec.ofNat s.osBits off)))
  ∧ (∀ (sel : Word16) (bad : Word16 → Exc) (s : State),
      let k := (sel.extractLsb' 3 13 : BitVec 13).toNat * 8
      let base := if sel.getLsbD 2 then s.ldtr.base else s.gdtr.base
      let inside : Prop :=
        if sel.getLsbD 2 then s.ldtr.valid = true ∧ k + 7 ≤ s.ldtr.limit.toNat else k + 7 ≤ s.gdtr.limit.toNat
      (¬ inside → readDesc sel bad s = .error (bad (sel &&& 0xFFFC)) s)
        ∧ (inside →
          (∀ (v : Nat) (t : State), sysRead (base + BitVec.ofNat 32 k) 8 s = .ok v t →
              readDesc sel bad s = .ok (BitVec.ofNat 64 v) t)
            ∧ (∀ (x : Exc) (t : State), sysRead (base + BitVec.ofNat 32 k) 8 s = .error x t →
              readDesc sel bad s = .error x t)))

/-! ### The stack -/

/-- 20_memory.md R125: a push moves the stack pointer down by the item's size, modulo the stack's size, and stores the
item there; a pop reads it and moves the pointer up. A push in real mode shuts the processor down with a pointer that is not
0 and below the size of the item (20_memory.md R127, 60_exceptions.md R672; beyond the case SP = 1 DEDUCED, assumption log
17). -/
def Obligations.PushAndPopMoveTheStackPointer : Prop :=
  (∀ (n v : Nat) (s s1 : State) (ps : List Nat), s.pushShutsDown n = false →
      dataAddresses .ss (s.stackOffset (s.sp - BitVec.ofNat 32 n)) n true s = .ok ps s1 →
      let t := s1.afterWriting ps (toBytes n v)
      push n v s = .ok () (t.withSp (s.stackOffset (s.sp - BitVec.ofNat 32 n)))
        ∧ (t.withSp (s.stackOffset (s.sp - BitVec.ofNat 32 n))).sp = s.stackOffset (s.sp - BitVec.ofNat 32 n))
  ∧ (∀ (n v : Nat) (s s1 : State), segRead .ss s.sp n s = .ok v s1 →
      pop n s = .ok v (s1.withSp (s.stackOffset (s.sp + BitVec.ofNat 32 n))))
  ∧ (∀ (n v : Nat) (s : State),
      (s.pushShutsDown n = true ↔ s.cr0.pe = false ∧ 0 < s.sp.toNat ∧ s.sp.toNat < n)
        ∧ (s.pushShutsDown n = true → push n v s = .error .shutdown s))

/-- 40_data_transfer.md R331 to R333: the general PUSH and POP forms and PUSH of a segment register, given what the stack
takes and gives. PUSH ESP stores the old value, POP ESP keeps the value popped, and POP to memory computes its address
after the pop. -/
def Obligations.PushAndPopFormsComplete : Prop :=
  (∀ (r : Reg) (s t : State), push (s.osBits / 8) (s.regN s.osBits r).toNat s = .ok () t →
      exec (.pushR r) s = .next (t.complete s.flags.tf))
  ∧ (∀ (imm : Word32) (s t : State), push (s.osBits / 8) (imm.setWidth s.osBits).toNat s = .ok () t →
      exec (.pushIv imm) s = .next (t.complete s.flags.tf))
  ∧ (∀ (imm : Byte) (s t : State), push (s.osBits / 8) (imm.signExtend s.osBits).toNat s = .ok () t →
      exec (.pushIbs imm) s = .next (t.complete s.flags.tf))
  ∧ (∀ (e : Rm Reg) (s s1 t : State) (v : BitVec s.osBits), readRm s.osBits e s = .ok v s1 →
      push (s.osBits / 8) v.toNat s1 = .ok () t → exec (.pushEv e) s = .next (t.complete s.flags.tf))
  ∧ (∀ (r : Reg) (s t : State) (v : Nat), pop (s.osBits / 8) s = .ok v t →
      exec (.popR r) s = .next ((t.setRegN r (BitVec.ofNat s.osBits v)).complete s.flags.tf))
  ∧ (∀ (e : Rm Reg) (s s1 s2 : State) (p : Place Reg) (v : Nat), pop (s.osBits / 8) s = .ok v s1 →
      openRm s.osBits e s1 = .ok p s2 →
      exec (.popEv e) s = .next ((p.put (BitVec.ofNat s.osBits v) s2).complete s.flags.tf))
  ∧ (∀ (sr : SegReg) (s : State) (i : Instr),
      (sr, i) ∈ [(.es, .pushEs), (.cs, .pushCs), (.ss, .pushSs), (.ds, .pushDs), (.fs, .pushFs), (.gs, .pushGs)] →
      (s.os32 = false → ∀ t, push 2 (s.seg sr).sel.toNat s = .ok () t → exec i s = .next (t.complete s.flags.tf))
      ∧ (s.os32 = true → ∀ t, push 4 (insertLow s.fresh (s.seg sr).sel).toNat s.drawn = .ok () t →
          exec i s = .next (t.complete s.flags.tf)))

/-- 40_data_transfer.md R335, R336: PUSHA stores the eight registers, with the stack pointer as it was before, after
all eight locations were checked; POPA checks all eight locations too, loads the registers in the opposite order and
discards the stack pointer's image. On a 16-bit stack the image that PUSHAD stores has an
upper half of zeros (DESIGN CHOICE, assumption log 53). In real mode PUSHA shuts the processor down with a stack pointer of
7, 9, 11, 13 or 15, and PUSHAD also with any other one from which a double word would straddle the end of the segment
(60_exceptions.md R672; DEDUCED, assumption log 17); with any other one from which the items would wrap, 0 among them, it
raises vector 13. A word of PUSHA straddles with a stack pointer of 1 too, and the delivery of that vector 13 shuts down. -/
def Obligations.PushAllAndPopAllComplete : Prop :=
  (∀ (s : State),
      let v (r : Reg) : Nat := (s.regN s.osBits r).toNat
      let shuts : Prop :=
        s.sp.toNat ∈ [7, 9, 11, 13, 15] ∨ (s.os32 = true ∧ s.sp.toNat < 32 ∧ s.sp.toNat % 4 ≠ 0)
      let b := s.osBits / 8
      let below (k : Nat) : Word32 := s.stackOffset (s.sp - BitVec.ofNat 32 (k * b))
      let check (k : Nat) : M (List Nat) := dataAddresses .ss (below k) b true
      (s.cr0.pe = true ∨ s.osBits ≤ s.sp.toNat → ∀ (s1 s2 s3 s4 s5 s6 s7 s8 : State) (p1 p2 p3 p4 p5 p6 p7 p8 : List Nat),
          check 1 s = .ok p1 s1 → check 2 s1 = .ok p2 s2 → check 3 s2 = .ok p3 s3 → check 4 s3 = .ok p4 s4 →
          check 5 s4 = .ok p5 s5 → check 6 s5 = .ok p6 s6 → check 7 s6 = .ok p7 s7 → check 8 s7 = .ok p8 s8 →
          let stored := ((((((((s8.afterWriting p1 (toBytes b (v .eax))).afterWriting p2 (toBytes b (v .ecx))).afterWriting p3
            (toBytes b (v .edx))).afterWriting p4 (toBytes b (v .ebx))).afterWriting p5 (toBytes b s.sp.toNat)).afterWriting p6
            (toBytes b (v .ebp))).afterWriting p7 (toBytes b (v .esi))).afterWriting p8 (toBytes b (v .edi)))
          exec .pusha s = .next ((stored.withSp (below 8)).complete s.flags.tf))
        ∧ (s.cr0.pe = false → shuts → exec .pusha s = .next (unwind s s).shutDown)
        ∧ (s.cr0.pe = false → ¬ shuts → s.sp.toNat < s.osBits → exec .pusha s = takeExc s s (.vector 13 (some 0)))
        ∧ (s.cr0.pe = false → s.os32 = false → s.sp.toNat = 1 →
            takeExc s s (.vector 13 (some 0)) = .next (unwind s s).shutDown))
  ∧ (∀ (s s1 s2 s3 s4 s5 s6 s7 s8 : State) (p1 p2 p3 p4 p5 p6 p7 p8 : List Nat),
      let n := s.osBits
      let b := n / 8
      let above (k : Nat) : Word32 := s.stackOffset (s.sp + BitVec.ofNat 32 (k * b))
      let check (k : Nat) : M (List Nat) := dataAddresses .ss (above k) b false
      let load (r : Reg) (ps : List Nat) (u : State) : State :=
        (u.afterReading ps).setRegN r (BitVec.ofNat n (ofBytes (u.bytesAt ps)))
      check 0 s = .ok p1 s1 → check 1 s1 = .ok p2 s2 → check 2 s2 = .ok p3 s3 → check 3 s3 = .ok p4 s4 →
      check 4 s4 = .ok p5 s5 → check 5 s5 = .ok p6 s6 → check 6 s6 = .ok p7 s7 → check 7 s7 = .ok p8 s8 →
      let u := load .ebp p3 (load .esi p2 (load .edi p1 s8))
      let w := load .eax p8 (load .ecx p7 (load .edx p6 (load .ebx p5 (u.afterReading p4))))
      exec .popa s = .next ((w.withSp (above 8)).complete s.flags.tf))

/-- 40_data_transfer.md R337, R338, 10_state.md R50, R53: PUSHF stores the flags with VM and RF as 0; POPF loads them: IF
only when CPL <= IOPL, IOPL only at CPL 0, RF from a 32-bit image (assumption log 26), VM never. -/
def Obligations.FlagPushAndPopComplete : Prop :=
  ∀ (s : State), (s.v86 = true → s.flags.iopl = 3) →
    (s.os32 = false → ∀ t,
        push 2 ((({ s.flags with vm := false, rf := false } : Flags).image 0).setWidth 16).toNat s = .ok () t →
        exec .pushf s = .next (t.complete s.flags.tf))
      ∧ (s.os32 = true → ∀ t,
          push 4 (({ s.flags with vm := false, rf := false } : Flags).image (s.fresh.extractLsb' 18 14)).toNat s.drawn
            = .ok () t →
          exec .pushf s = .next (t.complete s.flags.tf))
      ∧ (∀ (v : Nat) (t : State), pop (s.osBits / 8) s = .ok v t →
          let img : Word32 := BitVec.ofNat 32 v
          let f : Flags :=
            { t.flags with
              cf := img.getLsbD 0, pf := img.getLsbD 2, af := img.getLsbD 4, zf := img.getLsbD 6, sf := img.getLsbD 7,
              tf := img.getLsbD 8, df := img.getLsbD 10, ovf := img.getLsbD 11, nt := img.getLsbD 14,
              ie := if s.level ≤ s.flags.iopl then img.getLsbD 9 else s.flags.ie,
              iopl := if s.level = 0 then img.extractLsb' 12 2 else s.flags.iopl,
              rf := if s.os32 then img.getLsbD 16 else s.flags.rf }
          exec .popf s
            = .next (({ t with flags := f, cur := { t.cur with keepRf := true } } : State).complete s.flags.tf))

/-! ### Input and output -/

/-- 40_data_transfer.md R340, 20_memory.md R118: IN and OUT in every form, where the level allows them: what a port gives
is a free function of the accesses made so far, and each access is recorded. -/
def Obligations.PortFormsComplete : Prop :=
  ∀ (s : State) (imm : Byte), s.ioAllowed = true →
    let n := s.osBits
    let dx := s.regN 16 .edx
    let got (port : Word16) (k : Nat) : Nat := (Config.portInput s.ioTrace port k).toNat % 256 ^ k
    let seen (e : IoEvent) : State := { s with ioTrace := e :: s.ioTrace }
    let inByte (port : Word16) : Host.Outcome State Fault Refusal :=
      .next (((seen (.portRead port 1)).setReg8 .al (BitVec.ofNat 8 (got port 1))).complete s.flags.tf)
    let inWord (port : Word16) : Host.Outcome State Fault Refusal :=
      .next (((seen (.portRead port (n / 8))).setRegN .eax (BitVec.ofNat n (got port (n / 8)))).complete s.flags.tf)
    let outByte (port : Word16) : Host.Outcome State Fault Refusal :=
      .next ((seen (.portWrite port 1 ((s.reg8 .al).setWidth 32))).complete s.flags.tf)
    let outWord (port : Word16) : Host.Outcome State Fault Refusal :=
      .next ((seen (.portWrite port (n / 8) ((s.regN n .eax).setWidth 32))).complete s.flags.tf)
    exec (.inAlIb imm) s = inByte (imm.setWidth 16) ∧ exec .inAlDx s = inByte dx
      ∧ exec (.inEaxIb imm) s = inWord (imm.setWidth 16) ∧ exec .inEaxDx s = inWord dx
      ∧ exec (.outIbAl imm) s = outByte (imm.setWidth 16) ∧ exec .outDxAl s = outByte dx
      ∧ exec (.outIbEax imm) s = outWord (imm.setWidth 16) ∧ exec .outDxEax s = outWord dx

/-! ### Strings -/

/-- 43_string.md R440, R442 to R448: one element of each string instruction. The source lies in the data segment or its
override at eSI, the destination in ES at eDI; each index used moves by the element's size, up or down by DF. What INS
reads from its port is a free function of the accesses made so far (the model's choice, assumption log 7). -/
def Obligations.StringElements : Prop :=
  ∀ (n : Nat) (s s1 s2 : State) (v w : Nat) (ps : List Nat), n = 8 ∨ n = 16 ∨ n = 32 →
    (segRead s.dataSegment (s.indexReg .esi) (n / 8) s = .ok v s1 →
        (dataAddresses .es (s1.indexReg .edi) (n / 8) true s1 = .ok ps s2 →
          movsElement n s
            = .ok () (((s2.afterWriting ps (toBytes (n / 8) (BitVec.ofNat n v).toNat)).advance n .esi).advance n .edi))
        ∧ (segRead .es (s1.indexReg .edi) (n / 8) s1 = .ok w s2 →
          cmpsElement n s
            = .ok () (((s2.withFlags (s2.flags.sub (BitVec.ofNat n v) (BitVec.ofNat n w) false)).advance n .esi).advance n .edi))
        ∧ lodsElement n s = .ok () ((s1.setRegN .eax (BitVec.ofNat n v)).advance n .esi)
        ∧ (s.ioAllowed = true → outsElement n s = .ok ()
            (({ s1 with ioTrace := .portWrite (s1.regN 16 .edx) (n / 8) ((BitVec.ofNat n v).setWidth 32) :: s1.ioTrace } : State).advance
              n .esi)))
      ∧ (segRead .es (s.indexReg .edi) (n / 8) s = .ok w s1 →
          scasElement n s
            = .ok () ((s1.withFlags (s1.flags.sub (s1.regN n .eax) (BitVec.ofNat n w) false)).advance n .edi))
      ∧ (dataAddresses .es (s.indexReg .edi) (n / 8) true s = .ok ps s1 →
          stosElement n s
            = .ok () ((s1.afterWriting ps (toBytes (n / 8) (s.regN n .eax).toNat)).advance n .edi))
      ∧ (s.ioAllowed = true → segProbe .es (s.indexReg .edi) (n / 8) true s = .ok () s1 →
          let port := s.regN 16 .edx
          let got := (Config.portInput s1.ioTrace port (n / 8)).toNat % 256 ^ (n / 8)
          dataAddresses .es (s1.indexReg .edi) (n / 8) true
              { s1 with ioTrace := .portRead port (n / 8) :: s1.ioTrace } = .ok ps s2 →
          insElement n s
            = .ok () ((s2.afterWriting ps (toBytes (n / 8) (BitVec.ofNat n got).toNat)).advance n .edi))

/-- 43_string.md R441, 30_encoding.md R297: string instructions complete: without a repeat prefix after one element; with
one and eCX = 0 after none; else eCX counts the element and the instruction is finished when eCX is 0 or, for CMPS and
SCAS, when ZF ends it; if it is not, `pc` stays at the instruction. F2h before the others is ignored (assumption
log 22). -/
def Obligations.StringInstructionsComplete : Prop :=
  ∀ (op : StringOp) (wide : Bool) (s s1 : State),
    let i := if wide then op.word else op.byte
    let n := if wide then s.osBits else 8
    let last := s1.withIndexReg .ecx (s1.indexReg .ecx - 1)
    let more : State := { last with cur := { last.cur with repeats := true } }
    let ends (zf : Bool) : Bool := op.compares && last.flags.zf == zf
    ((s.cur.rep = none ∨ (s.cur.rep = some .repne ∧ op.compares = false)) → op.element n s = .ok () s1 →
        exec i s = .next (s1.complete s.flags.tf))
      ∧ ((s.cur.rep = some .rep ∨ (s.cur.rep = some .repne ∧ op.compares = true)) →
          (s.indexReg .ecx = 0 → exec i s = .next (s.complete s.flags.tf))
          ∧ (s.indexReg .ecx ≠ 0 → op.element n s = .ok () s1 →
              exec i s = .next
                ((if last.indexReg .ecx = 0 ∨ ends (s.cur.rep == some .repne) = true then last else more).complete s.flags.tf)))

/-! ### Control transfer -/

/-- 45_control_transfer.md R492: the sixteen conditions by their code; an odd code is the negation of the even one below
it. -/
def Obligations.ConditionCodes : Prop :=
  ∀ (f : Flags),
    f.holds .o = f.ovf ∧ f.holds .no = !f.ovf ∧ f.holds .b = f.cf ∧ f.holds .nb = !f.cf
      ∧ f.holds .z = f.zf ∧ f.holds .nz = !f.zf ∧ f.holds .be = (f.cf || f.zf) ∧ f.holds .nbe = (!f.cf && !f.zf)
      ∧ f.holds .s = f.sf ∧ f.holds .ns = !f.sf ∧ f.holds .p = f.pf ∧ f.holds .np = !f.pf
      ∧ f.holds .l = (f.sf != f.ovf) ∧ f.holds .nl = (f.sf == f.ovf)
      ∧ f.holds .le = (f.zf || (f.sf != f.ovf)) ∧ f.holds .nle = (!f.zf && (f.sf == f.ovf))
      ∧ (∀ c d : Cond, c.code.toNat % 2 = 0 → d.code.toNat = c.code.toNat + 1 → f.holds d = !f.holds c)
      ∧ (∀ (c : Cond) (k : Ctx), encode k (.jccRel8 c 0) = [0x70 ||| c.code.setWidth 8, 0])

/-- 45_control_transfer.md R480, R484, R485, R497 to R501: the near jumps and SETcc. A jump that is taken to a target
outside the code segment raises GP(0); one that is not taken only goes on. LOOP and its forms count eCX first. The target
is the address of the next instruction plus the displacement, modulo 2^16 with 16-bit operands (30_encoding.md R287). -/
def Obligations.JumpFormsComplete : Prop :=
  ∀ (s : State) (rel8 : Byte) (rel : Word32) (cc : Cond),
    let far (r : Word32) : Word32 := s.relativeTarget r
    let near := s.relativeTarget (rel8.signExtend 32)
    let go (u : State) (off : Word32) : Host.Outcome State Fault Refusal := .next ((u.jumped off).complete s.flags.tf)
    let stay (u : State) : Host.Outcome State Fault Refusal := .next (u.complete s.flags.tf)
    let t := s.withIndexReg .ecx (s.indexReg .ecx - 1)
    let trap (u : State) : Host.Outcome State Fault Refusal := takeExc s u (.vector 13 (some 0))
    (s.inSegment .cs (far rel) 1 = true → exec (.jmpRel rel) s = go s (far rel)
        ∧ (s.flags.holds cc = true → exec (.jccRel cc rel) s = go s (far rel)))
      ∧ (s.inSegment .cs (far rel) 1 = false → exec (.jmpRel rel) s = trap s
        ∧ (s.flags.holds cc = true → exec (.jccRel cc rel) s = trap s))
      ∧ (s.flags.holds cc = false → exec (.jccRel cc rel) s = stay s ∧ exec (.jccRel8 cc rel8) s = stay s)
      ∧ (s.inSegment .cs near 1 = true → exec (.jmpRel8 rel8) s = go s near
          ∧ (s.flags.holds cc = true → exec (.jccRel8 cc rel8) s = go s near)
          ∧ (s.indexReg .ecx = 0 → exec (.jcxzRel8 rel8) s = go s near)
          ∧ (t.indexReg .ecx ≠ 0 → exec (.loopRel8 rel8) s = go t near
              ∧ (s.flags.zf = true → exec (.loopeRel8 rel8) s = go t near)
              ∧ (s.flags.zf = false → exec (.loopneRel8 rel8) s = go t near)))
      ∧ (s.inSegment .cs near 1 = false → exec (.jmpRel8 rel8) s = trap s
          ∧ (s.flags.holds cc = true → exec (.jccRel8 cc rel8) s = trap s)
          ∧ (s.indexReg .ecx = 0 → exec (.jcxzRel8 rel8) s = trap s)
          ∧ (t.indexReg .ecx ≠ 0 → exec (.loopRel8 rel8) s = trap t
              ∧ (s.flags.zf = true → exec (.loopeRel8 rel8) s = trap t)
              ∧ (s.flags.zf = false → exec (.loopneRel8 rel8) s = trap t)))
      ∧ (s.indexReg .ecx ≠ 0 → exec (.jcxzRel8 rel8) s = stay s)
      ∧ (t.indexReg .ecx = 0 → exec (.loopRel8 rel8) s = stay t)
      ∧ (t.indexReg .ecx = 0 ∨ s.flags.zf = false → exec (.loopeRel8 rel8) s = stay t)
      ∧ (t.indexReg .ecx = 0 ∨ s.flags.zf = true → exec (.loopneRel8 rel8) s = stay t)
      ∧ (∀ (e : Rm Reg) (s1 : State) (v : BitVec s.osBits), readRm s.osBits e s = .ok v s1 →
          (s.inSegment .cs (v.setWidth 32) 1 = true → exec (.jmpNearEv e) s = go s1 (v.setWidth 32))
            ∧ (s.inSegment .cs (v.setWidth 32) 1 = false → exec (.jmpNearEv e) s = trap s1))
      ∧ (∀ (x : BitVec 3) (e : Rm Reg8) (s1 : State) (p : Place Reg8), openRm 8 e s = .ok p s1 →
          exec (.setccEb cc x e) s
            = .next ((p.putByte (if s.flags.holds cc then 1 else 0) s1).complete s.flags.tf))
      ∧ (far rel).toNat = (s.cur.npc.toNat + rel.toNat) % 2 ^ s.osBits
      ∧ (near.toNat : Int) = (s.cur.npc.toNat + rel8.toInt) % 2 ^ s.osBits

/-- 45_control_transfer.md R487, R488, R490: near CALL and RET, given what the stack takes and gives. The target is checked
before the return address is pushed, and RET releases its operand's bytes after the pop. -/
def Obligations.NearCallsAndReturnsComplete : Prop :=
  (∀ (rel : Word32) (s t : State), s.inSegment .cs (s.relativeTarget rel) 1 = true →
      push (s.osBits / 8) s.cur.npc.toNat s = .ok () t →
      exec (.callRel rel) s = .next ((t.jumped (s.relativeTarget rel)).complete s.flags.tf))
  ∧ (∀ (e : Rm Reg) (s s1 t : State) (v : BitVec s.osBits), readRm s.osBits e s = .ok v s1 →
      s.inSegment .cs (v.setWidth 32) 1 = true → push (s.osBits / 8) s.cur.npc.toNat s1 = .ok () t →
      exec (.callNearEv e) s = .next ((t.jumped (v.setWidth 32)).complete s.flags.tf))
  ∧ (∀ (imm : Word16) (s t : State) (v : Nat), pop (s.osBits / 8) s = .ok v t →
      s.inSegment .cs (BitVec.ofNat 32 v) 1 = true →
      let u := t.jumped (BitVec.ofNat 32 v)
      exec (.retNearIw imm) s = .next ((u.withSp (u.stackOffset (u.sp + imm.setWidth 32))).complete s.flags.tf)
        ∧ exec .retNear s = .next ((u.withSp (u.stackOffset (u.sp + 0))).complete s.flags.tf))

/-- 45_control_transfer.md R482, R486, R489, R491: far JMP and CALL, direct and through memory, and RET in real mode and V86
mode. The selector of a far pointer in memory lies at EA + OS/8 modulo 2^AS (00_scope.md R13, 30_encoding.md R278; DEDUCED,
assumption log 45).
45_control_transfer.md R483, R486: a far JMP or CALL in protected mode to a code segment. The selector must not be null, the
descriptor must be present and the offset inside it; a conforming segment may be at the same or an inner level, another one
must be at the same level with a selector no weaker; CS keeps the level in its RPL, which does not change. A CALL pushes CS
and the return address, for which the stack must have room, and a far RET returns to the same or an outer level (R491). That
type and privilege are tested before presence is the model's choice (assumption log 28).
45_control_transfer.md R505, R506: through a call gate that the weaker of CPL and its selector's RPL may use, JMP and
CALL go to a code segment at the same level or a conforming one; JMP to an inner level raises exception 13, and CALL to
one takes the stack of that level from the TSS and copies the parameters to it, below SS and ESP
(21_segmentation_protection.md R220; DEDUCED where R505 says SP on a 16-bit stack, assumption log 50). -/
def Obligations.FarTransfersComplete : Prop :=
  ((∀ (call : Bool) (i : Instr) (sel : Word16) (off : Word32) (s s0 : State), s.protected = false →
        FarOperand call i sel off s s0 →
        (call = false → off.toNat ≤ 0xFFFF → exec i s = .next ((s0.farJumped sel off).complete s.flags.tf))
          ∧ (call = false → 0xFFFF < off.toNat → exec i s = takeExc s s0 (.vector 13 (some 0)))
          ∧ (call = true → off.toNat ≤ 0xFFFF → ∀ t,
              pushAll (s.osBits / 8) [s.segs.cs.sel.toNat, s.cur.npc.toNat] s0 = .ok () t →
              exec i s = .next ((t.farJumped sel off).complete s.flags.tf)))
    ∧ (∀ (imm : Word16) (s s1 s2 : State) (off sel : Nat), s.protected = false → off ≤ 0xFFFF →
        stackRead 0 (s.osBits / 8) s = .ok off s1 → stackRead (s.osBits / 8) (s.osBits / 8) s1 = .ok sel s2 →
        let u := s2.farJumped (BitVec.ofNat 16 sel) (BitVec.ofNat 32 off)
        let done (n : Word16) : Host.Outcome State Fault Refusal :=
          .next ((u.withSp (u.stackOffset (u.sp + BitVec.ofNat 32 (s.osBits / 4) + n.setWidth 32))).complete s.flags.tf)
        exec (.retFarIw imm) s = done imm ∧ exec .retFar s = done 0))
  ∧ (∀ (call : Bool) (i : Instr) (sel : Word16) (off : Word32) (s s0 : State), s.protected = true →
      FarOperand call i sel off s s0 →
      (isNull sel = true → exec i s = takeExc s s0 (.vector 13 (some 0)))
        ∧ (∀ (d : Desc) (s1 : State), isNull sel = false → readDesc sel .gp s0 = .ok d s1 → d.isCode = true →
          let allowed : Prop := if d.isConforming then d.dpl ≤ s.level else d.dpl = s.level ∧ rpl sel ≤ s.level
          (¬ allowed → exec i s = takeExc s s1 (.vector 13 (some (selectorCode sel))))
            ∧ (allowed → d.present = false → exec i s = takeExc s s1 (.vector 11 (some (selectorCode sel))))
            ∧ (allowed → d.present = true → d.limit.toNat < off.toNat → exec i s = takeExc s s1 (.vector 13 (some 0)))
            ∧ (allowed → d.present = true → off.toNat ≤ d.limit.toNat →
              (call = false → ∀ s2, markAccessed sel d s1 = .ok () s2 →
                  exec i s = .next ((s2.inCode sel d s.level off).complete s.flags.tf))
                ∧ (call = true → s.segs.ss.hasRoom s.stack32 s.sp 2 (s.osBits / 8) = false →
                  exec i s = takeExc s s1 (.vector 12 (some 0)))
                ∧ (call = true → s.segs.ss.hasRoom s.stack32 s.sp 2 (s.osBits / 8) = true → ∀ s2 s3 : State,
                  pushAll (s.osBits / 8) [s.segs.cs.sel.toNat, s.cur.npc.toNat] s1 = .ok () s2 →
                  markAccessed sel d s2 = .ok () s3 →
                  exec i s = .next ((s3.inCode sel d s.level off).complete s.flags.tf)))))
  ∧ (∀ (imm : Word16) (s s1 s2 t : State) (off sel : Nat), s.protected = true →
      stackRead 0 (s.osBits / 8) s = .ok off s1 → stackRead (s.osBits / 8) (s.osBits / 8) s1 = .ok sel s2 →
      let returns (n : Word16) : Prop :=
        ReturnsTo (BitVec.ofNat 16 sel) (BitVec.ofNat 32 off) (s.osBits / 8) (s.osBits / 4) (n.setWidth 32) s2 t
      (returns imm → exec (.retFarIw imm) s = .next (t.complete s.flags.tf))
        ∧ (returns 0 → exec .retFar s = .next (t.complete s.flags.tf)))
  ∧ (∀ (call : Bool) (i : Instr) (o : Word32) (gsel : Word16) (s s0 s1 s2 : State) (g d : Desc), s.protected = true →
      FarOperand call i gsel o s s0 → isNull gsel = false →
      readDesc gsel .gp s0 = .ok g s1 → (g.isSystem 4 = true ∨ g.isSystem 0xC = true) →
      weaker s.level (rpl gsel) ≤ g.dpl → g.present = true →
      let csel := g.gateSelector
      isNull csel = false → readDesc csel .gp s1 = .ok d s2 → d.isCode = true → d.dpl ≤ s.level → d.present = true →
      let isz := if g.isSystem 0xC then 4 else 2
      let off := g.gateOffset (g.isSystem 0xC)
      ((d.isConforming = true ∨ d.dpl = s.level) → off.toNat ≤ d.limit.toNat →
          (call = false → ∀ s3, markAccessed csel d s2 = .ok () s3 →
            exec i s = .next ((s3.inCode csel d s.level off).complete s.flags.tf))
          ∧ (call = true → s.segs.ss.hasRoom s.stack32 s.sp 2 isz = true → ∀ s3 s4 : State,
              pushAll isz [s.segs.cs.sel.toNat, s.cur.npc.toNat] s2 = .ok () s3 → markAccessed csel d s3 = .ok () s4 →
              exec i s = .next ((s4.inCode csel d s.level off).complete s.flags.tf)))
        ∧ (d.isConforming = false → d.dpl < s.level →
          (call = false → exec i s = takeExc s s2 (.vector 13 (some (selectorCode csel))))
            ∧ (call = true → ∀ (nss : Word16) (nesp : Word32) (sd : Desc) (ps : List Nat) (s3 s4 s5 s6 s7 s8 : State),
                innerStack d.dpl s2 = .ok (nss, nesp) s3 → readDesc nss .gp s3 = .ok sd s4 → StackFits nss sd d.dpl →
                (sd.cache nss).hasRoom (sd.cache nss).big nesp (4 + g.gateCount) isz = true →
                off.toNat ≤ d.limit.toNat → readParameters isz g.gateCount 0 s4 = .ok ps s5 →
                markAccessed nss sd s5 = .ok () s6 →
                pushAll isz ([s.segs.ss.sel.toNat, (s.reg .esp).toNat] ++ ps.reverse
                    ++ [s.segs.cs.sel.toNat, s.cur.npc.toNat])
                  (({ s6.setSeg .ss (sd.cache nss) with cpl := d.dpl } : State).withSp nesp) = .ok () s7 →
                markAccessed csel d s7 = .ok () s8 →
                exec i s = .next ((s8.inCode csel d d.dpl off).complete s.flags.tf))))

/-! ### Interrupts and exceptions -/

/-- 60_exceptions.md R641: real-mode delivery of a vector inside the table. FLAGS, CS and the return offset are pushed as
words, the handler's offset and selector are read from the table, and IF and TF are cleared. -/
def Obligations.RealModeDelivery : Prop :=
  ∀ (e : Event) (s s1 s2 s3 : State) (off sel : Nat),
    s.cr0.pe = false → 4 * e.vec.toNat + 3 ≤ s.idtr.limit.toNat →
    pushAll 2 [(s.flags.image 0).toNat, s.segs.cs.sel.toNat, e.ret.toNat] s = .ok () s1 →
    sysRead (s.idtr.base + BitVec.ofNat 32 (4 * e.vec.toNat)) 2 s1 = .ok off s2 →
    sysRead (s.idtr.base + BitVec.ofNat 32 (4 * e.vec.toNat + 2)) 2 s2 = .ok sel s3 →
      deliver e s = .ok () (s3.inHandler (BitVec.ofNat 16 sel) (BitVec.ofNat 32 off))

/-- 45_control_transfer.md R493 to R495: INT n, INT 3 and INTO in real mode, where the table has the vector and the stack
takes the frame; INTO without overflow only goes on. In every mode they complete where their vector is delivered as a
software interrupt, which saves the address of the next instruction (60_exceptions.md R631).
45_control_transfer.md R496, 60_exceptions.md R630: IRET in real mode, and in V86 mode with IOPL 3, given what the stack
gives: the return address and the flags are loaded as the level allows, and the NMI handler is over.
45_control_transfer.md R496, 62_virtual_8086.md R714: IRET in protected mode with NT clear, to the same or an outer level,
where the level before the return says which flags are loaded, and from level 0 to V86 mode. -/
def Obligations.InterruptsAndReturnsComplete : Prop :=
  ((∀ (v : Byte) (i : Instr) (s s1 s2 s3 : State) (off sel : Nat),
      (i = .intIb v ∨ (i = .int3 ∧ v = 3) ∨ (i = .into ∧ v = 4 ∧ s.flags.ovf = true)) →
      s.cr0.pe = false → 4 * v.toNat + 3 ≤ s.idtr.limit.toNat →
      pushAll 2 [(s.flags.image 0).toNat, s.segs.cs.sel.toNat, s.cur.npc.toNat] s = .ok () s1 →
      sysRead (s.idtr.base + BitVec.ofNat 32 (4 * v.toNat)) 2 s1 = .ok off s2 →
      sysRead (s.idtr.base + BitVec.ofNat 32 (4 * v.toNat + 2)) 2 s2 = .ok sel s3 →
        exec i s = .next ((s3.inHandler (BitVec.ofNat 16 sel) (BitVec.ofNat 32 off)).complete s.flags.tf))
    ∧ (∀ s : State, s.flags.ovf = false → exec .into s = .next (s.complete s.flags.tf))
    ∧ (∀ (v : Byte) (i : Instr) (s t : State),
      (i = .intIb v ∧ (s.v86 = true → s.flags.iopl = 3) ∨ (i = .int3 ∧ v = 3)
        ∨ (i = .into ∧ v = 4 ∧ s.flags.ovf = true)) →
      deliver { vec := v, kind := .software, err := none, ret := s.cur.npc, rf := some false } s = .ok () t →
        exec i s = .next (t.complete s.flags.tf)))
  ∧ (∀ (s s1 s2 s3 : State) (off sel img : Nat), s.protected = false → (s.v86 = true → s.flags.iopl = 3) → off ≤ 0xFFFF →
      let n := s.osBits / 8
      pop n { s with nmiInService := false, cur := { s.cur with keepRf := true } } = .ok off s1 →
      pop n s1 = .ok sel s2 → pop n s2 = .ok img s3 →
        let t := s3.farJumped (BitVec.ofNat 16 sel) (BitVec.ofNat 32 off)
        exec .iret s = .next ((t.withFlags (s.flags.load s.level s.os32 (BitVec.ofNat 32 img))).complete s.flags.tf)
          ∧ t.nmiInService = false)
  ∧ (∀ (s s1 s2 s3 : State) (off sel img : Nat), s.protected = true → s.flags.nt = false →
      let n := s.osBits / 8
      let image : Word32 := BitVec.ofNat 32 img
      stackRead 0 n { s with nmiInService := false, cur := { s.cur with keepRf := true } } = .ok off s1 →
      stackRead n n s1 = .ok sel s2 → stackRead (2 * n) n s2 = .ok img s3 →
      (¬ (s.os32 = true ∧ image.getLsbD 17 = true ∧ s.level = 0) →
          ∀ t : State, ReturnsTo (BitVec.ofNat 16 sel) (BitVec.ofNat 32 off) n (3 * n) 0 s3 t →
          exec .iret s = .next ((t.withFlags (s.flags.load s.level s.os32 image)).complete s.flags.tf))
        ∧ (s.os32 = true → image.getLsbD 17 = true → s.level = 0 →
          ∀ (esp ss es ds fs gs : Nat) (u1 u2 u3 u4 u5 u6 : State),
          stackRead 12 4 s3 = .ok esp u1 → stackRead 16 4 u1 = .ok ss u2 → stackRead 20 4 u2 = .ok es u3 →
          stackRead 24 4 u3 = .ok ds u4 → stackRead 28 4 u4 = .ok fs u5 → stackRead 32 4 u5 = .ok gs u6 →
          let w (v : Nat) : SegCache := SegCache.real (BitVec.ofNat 16 v) 3
          exec .iret s = .next
            (({ u6.jumped ((BitVec.ofNat 32 off) &&& 0xFFFF) with
                flags := Flags.ofImage image, cpl := 3, gpr := { u6.gpr with esp := BitVec.ofNat 32 esp }
                segs := { cs := w sel, ss := w ss, es := w es, ds := w ds, fs := w fs, gs := w gs } } : State).complete
              s.flags.tf)))

/-- 60_exceptions.md R655, 30_encoding.md R295: an unassigned encoding raises vector 6 with no error code; in real mode,
where the table has the vector and the stack takes the frame, the handler is entered with the address of the encoding
saved. -/
def Obligations.UndefinedOpcodesEnterVectorSix : Prop :=
  ∀ (i : Instr) (s : State), i ∈ unassigned →
    exec i s = takeExc s s (.vector 6 none)
      ∧ (∀ (s1 s2 s3 : State) (off sel : Nat), s.cr0.pe = false → 27 ≤ s.idtr.limit.toNat →
          pushAll 2 [(s.flags.image 0).toNat, s.segs.cs.sel.toNat, s.pc.toNat] (unwind s s) = .ok () s1 →
          sysRead (s.idtr.base + 24) 2 s1 = .ok off s2 → sysRead (s.idtr.base + 26) 2 s2 = .ok sel s3 →
          exec i s = .next (s3.inHandler (BitVec.ofNat 16 sel) (BitVec.ofNat 32 off)).settle)

/-- 60_exceptions.md R612, R613: the event that ends an instruction at the point `s1` is taken in the state before it, `s`,
with the address of the instruction saved and RF of the image 1 (DEDUCED, assumption log 25): an exception is delivered from
that state, and a shutdown stops it. Nothing is
different there but the latch, and what is kept of the instruction (DEDUCED, assumption log 15): the TLB, the count of free
values, and the bits A and D that a page walk set, for an instruction that had not passed the phase A of a task switch and
whose walks set no other bits. -/
def Obligations.FaultsRestoreTheState : Prop :=
  (∀ (s s1 : State), s1.cur.committed = false → Memory.wf s.mem = true →
    (∀ c ∈ s1.cur.walk, c.2 &&& settled = 0) →
    unwind s s1 = { s with mem := (unwind s s1).mem, tlb := s1.tlb, draws := s1.draws, cur := Latch.idle }
      ∧ (∀ a, Memory.get (unwind s s1).mem a &&& settled = Memory.get s.mem a &&& settled)
      ∧ (s1.cur.walk = [] → (unwind s s1).mem = s.mem))
  ∧ (∀ (s s1 : State) (v : Byte) (err : Option Word16) (lin : Word32) (code : Word16), s1.cur.committed = false →
      let event (v : Byte) (err : Option Word16) : Event :=
        { vec := v, kind := .exception, err := err, ret := s.pc, rf := some true }
      takeExc s s1 (.vector v err) = deliverEvent (unwind s s1) (event v err)
        ∧ takeExc s s1 (.pageFault lin code) = deliverEvent { unwind s s1 with cr2 := lin } (event 14 (some code))
        ∧ takeExc s s1 .shutdown = .next (unwind s s1).shutDown)

/-- 60_exceptions.md R645 to R647, R662, R620, 62_virtual_8086.md R713: delivery through a present interrupt or trap gate,
80386 or 80286, whose items are double words or words. The image of EFLAGS, CS, the return offset and the error code, if
there is one, are pushed; TF, NT, RF and VM are cleared, and an interrupt gate clears IF. A handler at the level of the
program uses its stack; one at an inner level uses the stack of that level from the TSS, on which the old one is saved
first; out of V86 mode only a handler at level 0 is entered, and the four data segment registers are saved below and
made null. ESP is saved, of which a 16-bit gate takes the low word (DEDUCED, assumption log 50). RF of the image is a free
value where the spec leaves it open (assumption log 25).
61_task_switching.md R681, R683, R694: the stack of a level `n` is ESPn at 4 + 8n and SSn at 8 + 8n of an 80386 TSS, SPn at
2 + 4n and SSn at 4 + 4n of an 80286 one; outside its limit, or with no TSS in TR, vector 10 is raised. A selector of such
a stack that is null or names no writable data segment of the level raises vector 10 (60_exceptions.md R647,
45_control_transfer.md R505; DEDUCED where 21_segmentation_protection.md R201 gives exception 13, assumption log 42);
one outside its table raises vector 13 (21_segmentation_protection.md R153, 45_control_transfer.md R481); an absent segment
raises vector 12. -/
def Obligations.GateDelivery : Prop :=
  (∀ (e : Event) (s s1 s2 s3 : State) (g d : Desc) (v : Nat) (errs : List Nat),
    s.cr0.pe = true → 8 * e.vec.toNat + 7 ≤ s.idtr.limit.toNat →
    sysRead (s.idtr.base + 8 * e.vec.setWidth 32) 8 s = .ok v s1 → g = BitVec.ofNat 64 v →
    g.isSegment = false → g.type ∈ [6, 7, 0xE, 0xF] → (e.kind = .software → s.level ≤ g.dpl) → g.present = true →
    let csel := g.gateSelector
    isNull csel = false → readDesc csel .gp s1 = .ok d s2 → d.isCode = true → d.dpl ≤ s.level → d.present = true →
    let is386 : Bool := decide (g.type ∈ [0xE, 0xF])
    let isz := if is386 then 4 else 2
    let off := g.gateOffset is386
    let rf := match e.rf with | some b => b | none => bitAt s2.fresh 0
    let img := (({ s.flags with rf := rf } : Flags).image (s2.fresh.extractLsb' 18 14)).toNat
    errorItems isz e.err s2.drawn = .ok errs s3 →
    let entered (t : State) (level : BitVec 2) : State :=
      let u := t.inCode csel d level off
      { u with flags := { u.flags with tf := false, nt := false, vm := false, rf := false,
                                       ie := u.flags.ie && decide (g.type ∈ [7, 0xF]) }
               cur := { u.cur with noTrap := true } }
    (s.flags.vm = true → (d.isConforming = true ∨ d.dpl ≠ 0) →
        deliver e s = .error (.vector 13 (some (selectorCode csel))) s3)
      ∧ (s.flags.vm = false → (d.isConforming = true ∨ d.dpl = s.level) →
          s.segs.ss.hasRoom s.stack32 s.sp (3 + errs.length) isz = true → off.toNat ≤ d.limit.toNat → ∀ s4 s5 : State,
          pushAll isz ([img, s.segs.cs.sel.toNat, e.ret.toNat] ++ errs) s3 = .ok () s4 →
          markAccessed csel d s4 = .ok () s5 → deliver e s = .ok () (entered s5 s.level))
      ∧ ((s.flags.vm = true → d.dpl = 0) → d.isConforming = false → d.dpl < s.level →
          ∀ (nss : Word16) (nesp : Word32) (sd : Desc) (s4 s5 s6 s7 s8 s9 : State),
          innerStack d.dpl s3 = .ok (nss, nesp) s4 → readDesc nss .gp s4 = .ok sd s5 → StackFits nss sd d.dpl →
          (sd.cache nss).hasRoom (sd.cache nss).big nesp (5 + errs.length + (if s.flags.vm then 4 else 0)) isz = true →
          off.toNat ≤ d.limit.toNat → markAccessed nss sd s5 = .ok () s6 →
          let u := ({ s6.setSeg .ss (sd.cache nss) with
                      cpl := d.dpl, flags := { s6.flags with vm := false } } : State).withSp nesp
          (s.flags.vm = false → s7 = u) →
          (s.flags.vm = true → ∃ w : State,
              pushAll isz [s.segs.gs.sel.toNat, s.segs.fs.sel.toNat, s.segs.ds.sel.toNat, s.segs.es.sel.toNat] u = .ok () w
              ∧ s7 = { w with segs := { w.segs with es := w.segs.es.null 0, ds := w.segs.ds.null 0
                                                    fs := w.segs.fs.null 0, gs := w.segs.gs.null 0 } }) →
          pushAll isz ([s.segs.ss.sel.toNat, (s.reg .esp).toNat, img, s.segs.cs.sel.toNat, e.ret.toNat] ++ errs) s7 = .ok () s8 →
          markAccessed csel d s8 = .ok () s9 → deliver e s = .ok () (entered s9 d.dpl)))
  ∧ (∀ (s : State) (c : Word16) (isz : Nat),
      errorItems isz none s = .ok [] s ∧ errorItems 2 (some c) s = .ok [c.toNat] s
        ∧ errorItems 4 (some c) s = .ok [(insertLow s.fresh c).toNat] s.drawn)
  ∧ (∀ (level : BitVec 2) (s : State),
      let spAt := if s.tr.is386 then 4 + 8 * level.toNat else 2 + 4 * level.toNat
      let ssAt := if s.tr.is386 then 8 + 8 * level.toNat else 4 + 4 * level.toNat
      (s.tr.valid = false ∨ s.tr.limit.toNat < ssAt + 1 →
          innerStack level s = .error (.vector 10 (some (s.tr.sel &&& 0xFFFC))) s)
        ∧ (s.tr.valid = true → ssAt + 1 ≤ s.tr.limit.toNat → ∀ (sp ss : Nat) (s1 s2 : State),
          sysRead (s.tr.base + BitVec.ofNat 32 spAt) (if s.tr.is386 then 4 else 2) s = .ok sp s1 →
          sysRead (s.tr.base + BitVec.ofNat 32 ssAt) 2 s1 = .ok ss s2 →
          innerStack level s = .ok (BitVec.ofNat 16 ss, BitVec.ofNat 32 sp) s2))
  ∧ (∀ (nss : Word16) (level : BitVec 2) (s : State),
      let wrong (c : Word16) (t : State) : EStateM.Result Exc State Desc := .error (.vector 10 (some c)) t
      (isNull nss = true → innerStackSegment nss level s = wrong 0 s)
        ∧ (isNull nss = false → ∀ (x : Exc) (s1 : State), readDesc nss .gp s = .error x s1 →
          innerStackSegment nss level s = .error x s1)
        ∧ (isNull nss = false → ∀ (d : Desc) (s1 : State), readDesc nss .gp s = .ok d s1 →
          let fits : Prop := d.isWritable = true ∧ rpl nss = level ∧ d.dpl = level
          (¬ fits → innerStackSegment nss level s = wrong (nss &&& 0xFFFC) s1)
            ∧ (fits → d.present = false →
                innerStackSegment nss level s = .error (.vector 12 (some (nss &&& 0xFFFC))) s1)))

/-- 60_exceptions.md R668, R672: what follows when the delivery of an event raises a vector. A contributory one after a
contributory exception becomes the double fault with error code 0; during a double fault the processor shuts down;
else the second is delivered, with EXT set unless the event was a software interrupt. That a page fault as the first
event makes no double fault with a contributory second one rests on assumption log 26, the return address of the double
fault on logs 16 and 57, and its RF, a free value, on log 25; that an event of the boundary whose delivery raised another is not put
back is DESIGN CHOICE, assumption log 56. -/
def Obligations.DoubleFaults : Prop :=
  ∀ (fuel : Nat) (s s1 : State) (e : Event) (v : Byte) (err : Option Word16),
    deliver e s = .error (.vector v err) s1 →
    let u := unwind s s1
    (e.kind = .exception → e.vec = 8 → deliverFrom (fuel + 1) s e = .next u.shutDown)
      ∧ (e.kind = .exception → e.vec ∈ [(0 : Byte), 10, 11, 12, 13] → v ∈ [(0 : Byte), 10, 11, 12, 13] →
          deliverFrom (fuel + 1) s e
            = deliverFrom fuel u { vec := 8, kind := .exception, err := some 0, ret := u.pc, rf := none })
      ∧ (¬ (e.kind = .exception ∧ e.vec = 8) →
          ¬ (e.kind = .exception ∧ e.vec ∈ [(0 : Byte), 10, 11, 12, 13] ∧ v ∈ [(0 : Byte), 10, 11, 12, 13]) →
          deliverFrom (fuel + 1) s e
            = deliverFrom fuel u { vec := v, kind := .exception, ret := u.pc, rf := some true
                                   err := if e.kind = .software then err else err.map (· ||| 1) })

/-- 60_exceptions.md R640, R641, R670: in real mode the return from a handler undoes its entry. Where the stack has room
for the frame in ordinary memory, IRET at the handler's first instruction gives back the return address, CS, the low
half of the flags, and the stack pointer, and leaves every other general register as it was. -/
def Obligations.InterruptReturnUndoesDelivery : Prop :=
  ∀ (e : Event) (s t : State), s.cr0.pe = false → s.flat = true → Memory.wf s.mem = true →
    s.segs.ss = SegCache.real s.segs.ss.sel 0 → s.segs.ss.base.toNat + 0xFFFF < 0x100000 →
    6 ≤ (s.reg .esp &&& 0xFFFF).toNat → e.ret.toNat ≤ 0xFFFF → s.flags.rf = false →
    4 * e.vec.toNat + 3 ≤ s.idtr.limit.toNat → deliver e s = .ok () t →
      ∃ u, exec .iret { t with cur := Latch.idle } = .next u ∧ u.pc = e.ret ∧ u.segs.cs.sel = s.segs.cs.sel
        ∧ u.flags = s.flags ∧ u.gpr = s.gpr ∧ u.segs.ss = s.segs.ss ∧ u.segs.ds = s.segs.ds ∧ u.segs.es = s.segs.es

/-- 47_os_support.md R570, 21_segmentation_protection.md R195: the privileged instructions raise GP(0) in V86 mode and
above level 0; LLDT and LTR do so above level 0 in protected mode (in V86 mode they raise vector 6, R571). -/
def Obligations.PrivilegedInstructionsTrap : Prop :=
  ∀ (s : State), s.cr0.pe = true → (s.flags.vm = true ∨ s.cpl ≠ 0) →
    let gp := takeExc s s (.vector 13 (some 0))
    (∀ m : Mem, exec (.lgdtMs m) s = gp ∧ exec (.lidtMs m) s = gp) ∧ (∀ e : Rm Reg, exec (.lmswEw e) s = gp)
      ∧ exec .clts s = gp ∧ exec .hlt s = gp
      ∧ (s.flags.vm = false → ∀ e : Rm Reg, exec (.lldtEw e) s = gp ∧ exec (.ltrEw e) s = gp)
      ∧ (∀ (md : BitVec 2) (n : BitVec 3) (r : Reg),
          exec (.movRCr md n r) s = gp ∧ exec (.movCrR md n r) s = gp ∧ exec (.movRDr md n r) s = gp
            ∧ exec (.movDrR md n r) s = gp ∧ exec (.movRTr md n r) s = gp ∧ exec (.movTrR md n r) s = gp)

/-- 21_segmentation_protection.md R194, 10_state.md R50: with CPL above IOPL in protected or V86 mode, IN, OUT, INS, OUTS,
CLI, STI and LOCK raise GP(0); INS and OUTS under a repeat prefix do so unless eCX is 0.
62_virtual_8086.md R710: in V86 mode with IOPL below 3, PUSHF, POPF, INT n and IRET raise GP(0). -/
def Obligations.IoSensitiveInstructionsTrap : Prop :=
  ∀ (s : State) (imm : Byte), s.cr0.pe = true → s.flags.iopl < s.level →
    let gp := takeExc s s (.vector 13 (some 0))
    exec .cli s = gp ∧ exec .sti s = gp ∧ exec .lock s = gp
      ∧ exec (.inAlIb imm) s = gp ∧ exec (.inEaxIb imm) s = gp ∧ exec .inAlDx s = gp ∧ exec .inEaxDx s = gp
      ∧ exec (.outIbAl imm) s = gp ∧ exec (.outIbEax imm) s = gp ∧ exec .outDxAl s = gp ∧ exec .outDxEax s = gp
      ∧ (s.cur.rep = none ∨ s.indexReg .ecx ≠ 0 →
          exec .insb s = gp ∧ exec .insw s = gp ∧ exec .outsb s = gp ∧ exec .outsw s = gp)
      ∧ (s.flags.vm = true →
          exec .pushf s = gp ∧ exec .popf s = gp ∧ exec (.intIb imm) s = gp ∧ exec .iret s = gp)

/-- 47_os_support.md R571: ARPL, LAR, LSL, VERR, VERW, STR, LTR, SLDT and LLDT raise vector 6 in real mode and V86 mode. -/
def Obligations.ProtectedOnlyInstructionsTrap : Prop :=
  ∀ (s : State) (e : Rm Reg) (g : Reg), (s.cr0.pe = false ∨ s.flags.vm = true) →
    let ud := takeExc s s (.vector 6 none)
    exec (.arplEwGw e g) s = ud ∧ exec (.larGvEw g e) s = ud ∧ exec (.lslGvEw g e) s = ud ∧ exec (.verrEw e) s = ud
      ∧ exec (.verwEw e) s = ud ∧ exec (.strEw e) s = ud ∧ exec (.ltrEw e) s = ud ∧ exec (.sldtEw e) s = ud
      ∧ exec (.lldtEw e) s = ud

/-! ### High-level-language support -/

/-- 46_hll_support.md R530 to R532: ENTER, where all its pushes are checked before the first is made, given what the
stack takes; LEAVE and BOUND, whose second bound lies at EA + OS/8 modulo 2^AS (00_scope.md R13, 30_encoding.md R278;
DEDUCED, assumption log 45).
46_hll_support.md R530: ENTER's display: each outer frame pointer lies one item below the last, and is pushed. The frame
pointer of a 16-bit stack is SP with an upper half of zeros (DEDUCED, assumption log 53). -/
def Obligations.FrameFormsComplete : Prop :=
  ((∀ (size : Word16) (level : Byte) (s s0 s1 s2 : State),
      let n := s.osBits
      probePushes (n / 8) (level.toNat % 32 + 1) s.sp s = .ok () s0 →
      push (n / 8) (s.regN n .ebp).toNat s0 = .ok () s1 →
      ((level.toNat % 32 = 0 ∧ s2 = s1)
        ∨ (0 < level.toNat % 32 ∧ ∃ u, copyFrames n (level.toNat % 32 - 1) s1 = .ok () u
            ∧ push (n / 8) s1.sp.toNat u = .ok () s2)) →
      let t := s2.setRegN .ebp (s1.sp.setWidth n)
      exec (.enterIwIb size level) s
        = .next ((t.withSp (t.stackOffset (t.sp - size.setWidth 32))).complete s.flags.tf))
    ∧ (∀ (s s1 : State) (v : Nat),
        let n := s.osBits
        pop (n / 8) (s.withSp (s.stackOffset (s.reg .ebp))) = .ok v s1 →
        exec .leave s = .next ((s1.setRegN .ebp (BitVec.ofNat n v)).complete s.flags.tf))
    ∧ (∀ (g : Reg) (m : Mem) (s s1 s2 : State) (lo hi : Nat),
        let n := s.osBits
        segRead (s.memSegment m) (s.ea m) (n / 8) s = .ok lo s1 →
        segRead (s.memSegment m) (sized s.as32 (s.ea m + BitVec.ofNat 32 (n / 8))) (n / 8) s1 = .ok hi s2 →
        let inside : Prop := (BitVec.ofNat n lo).toInt ≤ (s.regN n g).toInt ∧ (s.regN n g).toInt ≤ (BitVec.ofNat n hi).toInt
        (inside → exec (.boundGvMa g m) s = .next (s2.complete s.flags.tf))
          ∧ (¬ inside → exec (.boundGvMa g m) s = takeExc s s2 (.vector 5 none))))
  ∧ (∀ (n count : Nat) (s s1 s2 : State) (v : Nat),
      copyFrames n 0 s = .ok () s
        ∧ (let t := s.setRegN .ebp (s.regN n .ebp - BitVec.ofNat n (n / 8))
           segRead .ss ((t.regN n .ebp).setWidth 32) (n / 8) t = .ok v s1 → push (n / 8) v s1 = .ok () s2 →
           copyFrames n (count + 1) s = copyFrames n count s2))
  ∧ (∀ (size : Word16) (level : Byte) (s s0 : State) (x : Exc),
      probePushes (s.osBits / 8) (level.toNat % 32 + 1) s.sp s = .error x s0 →
      exec (.enterIwIb size level) s = takeExc s s0 x)

/-! ### Operating-system support -/

/-- 47_os_support.md R540 to R543: LGDT and LIDT load a limit and a base, of which 24 bits with 16-bit operands, and SGDT
and SIDT store them, the top byte being a free value with 16-bit operands. The base lies at EA + 2 modulo 2^AS (00_scope.md
R13, 30_encoding.md R278; DEDUCED, assumption log 45). -/
def Obligations.TableRegisterFormsComplete : Prop :=
  (∀ (m : Mem) (s s1 s2 : State) (lim b : Nat), s.privilegedOk = true →
      segRead (s.memSegment m) (s.ea m) 2 s = .ok lim s1 → segRead (s.memSegment m) (sized s.as32 (s.ea m + 2)) 4 s1 = .ok b s2 →
      let t : TableReg := { limit := BitVec.ofNat 16 lim
                            base := if s.os32 then BitVec.ofNat 32 b else BitVec.ofNat 32 b &&& 0xFFFFFF }
      exec (.lgdtMs m) s = .next (({ s2 with gdtr := t } : State).complete s.flags.tf)
        ∧ exec (.lidtMs m) s = .next (({ s2 with idtr := t } : State).complete s.flags.tf))
  ∧ (∀ (m : Mem) (s s1 s2 : State) (t : TableReg) (i : Instr),
      ((i = .sgdtMs m ∧ t = s.gdtr) ∨ (i = .sidtMs m ∧ t = s.idtr)) →
      segWrite (s.memSegment m) (s.ea m) 2 t.limit.toNat s = .ok () s1 →
      (s.os32 = true → segWrite (s.memSegment m) (sized s.as32 (s.ea m + 2)) 4 t.base.toNat s1 = .ok () s2 →
          exec i s = .next (s2.complete s.flags.tf))
        ∧ (s.os32 = false →
            segWrite (s.memSegment m) (sized s.as32 (s.ea m + 2)) 4 ((t.base &&& 0xFFFFFF) ||| (s1.fresh &&& 0xFF000000)).toNat s1.drawn
              = .ok () s2 →
            exec i s = .next (s2.complete s.flags.tf)))

/-- 47_os_support.md R550 to R555: the machine status word and the control, debug and test registers. LMSW can set PE and
not clear it; a load of CR3 drops its low 12 bits and empties the TLB; reserved bits are dropped on a write and free on
a read (assumption log 3), bit 1 of TR6 being stored (DESIGN CHOICE, assumption log 41); the status flags become free
values. A load of CR0 that would set PG with PE clear is refused
(assumption log 20), and one that changes PG or clears PE, as a load of CR3 with paging on, keeps what the prefetch queue
may hold
(assumption log 13).
47_os_support.md R552 to R555, 10_state.md R69: a control register other than CR0, CR2 and CR3, DR4, DR5, and a test
register other than TR6 and TR7 raise vector 6 where the level allows the instruction (assumption log 27). -/
def Obligations.SpecialRegisterFormsComplete : Prop :=
  ((∀ (e : Rm Reg) (s s1 : State) (v : Word16), s.privilegedOk = true → readRm 16 e s = .ok v s1 →
        exec (.lmswEw e) s
          = .next (({ s1 with cr0 := { s1.cr0 with pe := s1.cr0.pe || v.getLsbD 0, mp := v.getLsbD 1, em := v.getLsbD 2,
                                                   ts := v.getLsbD 3 } } : State).complete s.flags.tf))
    ∧ (∀ (e : Rm Reg) (s s1 : State) (p : Place Reg), openRm 16 e s.drawn = .ok p s1 →
        exec (.smswEw e) s
          = .next ((p.put ((s.cr0.image (s.fresh.extractLsb' 5 26)).setWidth 16) s1).complete s.flags.tf))
    ∧ (∀ (md : BitVec 2) (r : Reg) (s : State), s.privilegedOk = true →
        let v := s.reg r
        let done (t : State) : Host.Outcome State Fault Refusal :=
          .next ((t.drawn.withFlags (t.flags.undefined t.fresh)).complete s.flags.tf)
        let free (x mask : Word32) : Word32 := (x &&& mask) ||| (s.fresh &&& ~~~mask)
        exec (.movRCr md 0 r) s = done (s.drawn.setReg r (s.cr0.image (s.fresh.extractLsb' 5 26)))
          ∧ exec (.movRCr md 2 r) s = done (s.setReg r s.cr2)
          ∧ exec (.movRCr md 3 r) s = done (s.setReg r (s.cr3 &&& 0xFFFFF000))
          ∧ exec (.movCrR md 2 r) s = done { s with cr2 := v }
          ∧ (let q := if s.cr0.pg then s.keepQueue else s
             exec (.movCrR md 3 r) s = done { q with cr3 := v &&& 0xFFFFF000, tlb := [] })
          ∧ ((v.getLsbD 31 = true → v.getLsbD 0 = true) →
              let q := if v.getLsbD 31 = s.cr0.pg ∧ (s.cr0.pe = true → v.getLsbD 0 = true) then s else s.keepQueue
              exec (.movCrR md 0 r) s
                = done { q with cr0 := { pe := v.getLsbD 0, mp := v.getLsbD 1, em := v.getLsbD 2, ts := v.getLsbD 3,
                                         et := v.getLsbD 4, pg := v.getLsbD 31 } })
          ∧ (v.getLsbD 31 = true → v.getLsbD 0 = false →
              exec (.movCrR md 0 r) s = .refused .pagingWithoutProtection)
          ∧ exec (.movDrR md 0 r) s = done { s with dr0 := v } ∧ exec (.movDrR md 1 r) s = done { s with dr1 := v }
          ∧ exec (.movDrR md 2 r) s = done { s with dr2 := v } ∧ exec (.movDrR md 3 r) s = done { s with dr3 := v }
          ∧ exec (.movDrR md 6 r) s = done { s with dr6 := v &&& dr6Mask }
          ∧ exec (.movDrR md 7 r) s = done { s with dr7 := v &&& dr7Mask }
          ∧ exec (.movTrR md 6 r) s = done { s with tr6 := v &&& tr6Mask }
          ∧ exec (.movTrR md 7 r) s = done { s with tr7 := v &&& tr7Mask }
          ∧ exec (.movRDr md 0 r) s = done (s.setReg r s.dr0) ∧ exec (.movRDr md 1 r) s = done (s.setReg r s.dr1)
          ∧ exec (.movRDr md 2 r) s = done (s.setReg r s.dr2) ∧ exec (.movRDr md 3 r) s = done (s.setReg r s.dr3)
          ∧ exec (.movRDr md 6 r) s = done (s.drawn.setReg r (free s.dr6 dr6Mask))
          ∧ exec (.movRDr md 7 r) s = done (s.drawn.setReg r (free s.dr7 dr7Mask))
          ∧ exec (.movRTr md 6 r) s = done (s.drawn.setReg r (free s.tr6 tr6Mask))
          ∧ exec (.movRTr md 7 r) s = done (s.drawn.setReg r (free s.tr7 tr7Mask))))
  ∧ (∀ (md : BitVec 2) (n : BitVec 3) (r : Reg) (s : State), s.privilegedOk = true →
      let ud := takeExc s s (.vector 6 none)
      (n ≠ 0 → n ≠ 2 → n ≠ 3 → exec (.movRCr md n r) s = ud ∧ exec (.movCrR md n r) s = ud)
        ∧ (n = 4 ∨ n = 5 → exec (.movRDr md n r) s = ud ∧ exec (.movDrR md n r) s = ud)
        ∧ (n ≠ 6 → n ≠ 7 → exec (.movRTr md n r) s = ud ∧ exec (.movTrR md n r) s = ud))

/-- 47_os_support.md R544 to R547: SLDT and STR store the selectors of LDTR and TR; LLDT and LTR load them with their
hidden part from a present descriptor of the right type in the GDT, LTR marking the TSS busy in memory; a null selector
makes LDTR invalid. That LDTR takes the limit of the descriptor whole, above FFFFh too, is the model's choice (DESIGN
CHOICE, assumption log 58; 21_segmentation_protection.md R153 gives 16 bits). -/
def Obligations.TaskAndLdtRegisterFormsComplete : Prop :=
  (∀ (e : Rm Reg) (s s1 : State) (p : Place Reg), s.protected = true → openRm 16 e s = .ok p s1 →
      exec (.sldtEw e) s = .next ((p.put s.ldtr.sel s1).complete s.flags.tf)
        ∧ exec (.strEw e) s = .next ((p.put s.tr.sel s1).complete s.flags.tf))
  ∧ (∀ (e : Rm Reg) (s s1 : State) (sel : Word16), s.protected = true → s.cpl = 0 → readRm 16 e s = .ok sel s1 →
      (isNull sel = true →
          exec (.lldtEw e) s
            = .next (({ s1 with ldtr := { s1.ldtr with sel := sel, valid := false } } : State).complete s.flags.tf))
        ∧ (∀ (s2 s3 : State) (d : Desc), isNull sel = false → sel.getLsbD 2 = false → readDesc sel .gp s1 = .ok d s2 →
            d.present = true →
            (d.isSystem 2 = true →
              exec (.lldtEw e) s
                = .next (({ s2 with ldtr := { sel := sel, base := d.base, limit := d.limit, valid := true,
                                              is386 := false } } : State).complete s.flags.tf))
            ∧ ((d.isSystem 1 = true ∨ d.isSystem 9 = true) → setBusy sel true s2 = .ok () s3 →
              exec (.ltrEw e) s
                = .next (({ s3 with tr := { sel := sel, base := d.base, limit := d.limit, valid := true,
                                            is386 := d.isSystem 9 } } : State).complete s.flags.tf))))

/-- 47_os_support.md R560 to R564, R572: the pointer-validation instructions. ARPL raises the selector's RPL to the
register's and sets ZF when it does; VERR and VERW say in ZF whether a visible descriptor can be read or written; LSL
and LAR load the limit or the access rights of a visible descriptor of the listed types and set ZF, or clear ZF and
load nothing; byte 6 bit 5 of the descriptor of a segment, LDT or TSS, which is reserved, reads as a free value (DESIGN
CHOICE, assumption log 43). A descriptor is visible if its selector is not null and lies inside its table, GDT or a valid LDT, and the
weaker of CPL and RPL may use it or it is conforming code; one that cannot be read is not visible, and nothing is raised
(DEDUCED, assumption log 47). -/
def Obligations.PointerValidationComplete : Prop :=
  (∀ (e : Rm Reg) (g : Reg) (s s1 : State) (v : Word16), s.protected = true → readRm 16 e s = .ok v s1 →
      (rpl (s1.regN 16 g) ≤ rpl v →
          exec (.arplEwGw e g) s = .next ((s1.withFlags { s1.flags with zf := false }).complete s.flags.tf))
        ∧ (rpl v < rpl (s1.regN 16 g) → ∀ (p : Place Reg) (s2 : State), openRm 16 e s1 = .ok p s2 →
            let t := p.put ((v &&& 0xFFFC) ||| (rpl (s1.regN 16 g)).setWidth 16) s2
            exec (.arplEwGw e g) s = .next ((t.withFlags { t.flags with zf := true }).complete s.flags.tf)))
  ∧ (∀ (e : Rm Reg) (g : Reg) (s s1 s2 : State) (sel : Word16) (d : Option Desc), s.protected = true →
      readRm 16 e s = .ok sel s1 → visible sel s1 = .ok d s2 →
      let zf (b : Bool) : Host.Outcome State Fault Refusal :=
        .next ((s2.withFlags { s2.flags with zf := b }).complete s.flags.tf)
      let got (u : State) (v : Word32) : Host.Outcome State Fault Refusal :=
        let t := u.setRegN g (v.setWidth u.osBits)
        .next ((t.withFlags { t.flags with zf := true }).complete s.flags.tf)
      (d = none → exec (.verrEw e) s = zf false ∧ exec (.verwEw e) s = zf false ∧ exec (.lslGvEw g e) s = zf false
          ∧ exec (.larGvEw g e) s = zf false)
        ∧ (∀ x : Desc, d = some x →
            exec (.verrEw e) s = zf x.isReadable ∧ exec (.verwEw e) s = zf x.isWritable
              ∧ (x.isSegment = true ∨ x.type ∈ [1, 2, 3, 9, 0xB] → exec (.lslGvEw g e) s = got s2 x.limit)
              ∧ (let upper : Word32 := x.extractLsb' 32 32
                 let gate : Prop := x.isSegment = false ∧ x.type ∈ [4, 5, 0xC]
                 let other : Prop := x.isSegment = true ∨ x.type ∈ [1, 2, 3, 9, 0xB]
                 (s.os32 = false → gate ∨ other → exec (.larGvEw g e) s = got s2 (upper &&& 0xFF00))
                  ∧ (s.os32 = true → gate → exec (.larGvEw g e) s = got s2 (upper &&& 0x00F0FF00))
                  ∧ (s.os32 = true → other → exec (.larGvEw g e) s
                      = got s2.drawn ((upper &&& 0x00D0FF00) ||| (s2.fresh &&& 0x00200000))))
              ∧ (x.isSegment = false → x.type ∉ [1, 2, 3, 9, 0xB] → exec (.lslGvEw g e) s = zf false)
              ∧ (x.isSegment = false → x.type ∉ [1, 2, 3, 4, 5, 9, 0xB, 0xC] → exec (.larGvEw g e) s = zf false)))
  ∧ (∀ (sel : Word16) (s : State),
      let last := (sel.extractLsb' 3 13 : BitVec 13).toNat * 8 + 7
      let outside : Prop :=
        if sel.getLsbD 2 then s.ldtr.valid = false ∨ s.ldtr.limit.toNat < last else s.gdtr.limit.toNat < last
      (sel.extractLsb' 2 14 = 0#14 ∨ outside → visible sel s = .ok none s)
        ∧ (sel.extractLsb' 2 14 ≠ 0#14 → ¬ outside →
          (∀ (d : Desc) (t : State), readDesc sel .gp s = .ok d t →
              (d.isConforming = true ∨ weaker s.level (rpl sel) ≤ d.dpl → visible sel s = .ok (some d) t)
                ∧ (d.isConforming = false → d.dpl < weaker s.level (rpl sel) → visible sel s = .ok none t))
            ∧ (∀ (x : Exc) (t : State), readDesc sel .gp s = .error x t → visible sel s = .ok none t)))

/-! ### Tasks -/

/-- 61_task_switching.md R684, R688 to R690: a task switch, whose phases follow each other. Of the task it comes to it wants a
present TSS in the GDT, long enough and available, or busy for IRET. It saves the return address, the flags (with NT
clear for IRET), the general registers and the selectors in the outgoing TSS, double words or words by its format (R681,
R683), and makes it available but for CALL and interrupts; it stores the back link for these and marks the incoming TSS
busy but for IRET; it sets CR0.TS, makes TR name the incoming task and loads its fields (of an 80286 TSS the upper
halves of the general registers are free values and CR3 is kept: assumption log 36), with NT set for CALL and interrupts,
the local enable bits of DR7 cleared and CPL from the flags and CS; the upper half of a selector's slot of an 80386 TSS is
left unchanged (DESIGN CHOICE, assumption log 54); it validates the segment registers, whose selectors
stay those of the TSS; and it leaves a debug trap for the T bit. The fields are stated in memory that is RAM with paging
off.
61_task_switching.md R685, R686: a far JMP or CALL that names an available TSS, or a present task gate, that the program
may use switches to its task; an interrupt through a task gate of the IDT does too and pushes its error code there.
61_task_switching.md R687: IRET with NT set switches to the task of the back link; with no TSS in TR it is refused
(assumption log 21). A selector of DS, ES, FS or GS that the incoming task may not load raises vector 10
(61_task_switching.md R684; DEDUCED where 21_segmentation_protection.md R200 gives exception 13, assumption log 42); an
absent segment raises vector 11. A null selector of CS or SS raises vector 10 with error code 0 (R684; log 42 too, where R156
gives GP(0)). -/
def Obligations.TaskSwitches : Prop :=
  (∀ (sel : Word16) (cause : SwitchCause) (ret : Word32) (s t : State), taskSwitch sel cause ret s = .ok () t →
      t.cr0.ts = true ∧ t.tr.sel = sel ∧ t.tr.valid = true ∧ t.dr7 &&& 0x55 = 0
        ∧ ((cause = .call ∨ cause = .int) → t.flags.nt = true))
  ∧ (∀ (sel : Word16) (cause : SwitchCause) (ret : Word32) (s s1 : State) (d : Desc), checkNewTask sel cause s = .ok d s1 →
      (sel.getLsbD 2 = false ∧ isNull sel = false ∧ d.isSegment = false ∧ d.present = true
        ∧ (if cause = .iret then d.type ∈ [3, 0xB] else d.type ∈ [1, 9])
        ∧ (if d.type ∈ [9, 0xB] then 0x64 else 0x2B) < d.limit.toNat)
      ∧ (∀ (s2 s3 s4 s5 : State) (b : Bool), s1.tr.valid = true → saveOldTask cause ret s1 = .ok () s2 →
          enterNewTask sel d cause s2 = .ok () s3 → loadNewTask d (cause == .call || cause == .int) s3 = .ok b s4 →
          validateTask s4 = .ok () s5 →
          taskSwitch sel cause ret s
            = .ok () (if b then { s5 with dr6 := s5.dr6 ||| 0x8000, dbgPending := true } else s5)))
  ∧ (∀ (cause : SwitchCause) (ret : Word32) (s t : State), s.flat = true → Memory.wf s.mem = true →
      saveOldTask cause ret s = .ok () t →
      let n := if s.tr.is386 then 4 else 2
      let first := if s.tr.is386 then 0x20 else 0x0E
      let sels := if s.tr.is386 then 0x48 else 0x22
      let regs : List SegReg := if s.tr.is386 then [.es, .cs, .ss, .ds, .fs, .gs] else [.es, .cs, .ss, .ds]
      let base := s.tr.base
      let saved := byteAddresses (base + BitVec.ofNat 32 first) (10 * n)
        ++ (List.range regs.length).flatMap fun k => byteAddresses (base + BitVec.ofNat 32 (sels + n * k)) 2
      let busy := (s.gdtr.base + (s.tr.sel &&& 0xFFF8).setWidth 32 + 5).toNat
      let leaves : Bool := cause == .jmp || cause == .iret
      (leaves = true → busy ∉ saved) →
      t.numberAt (base + BitVec.ofNat 32 first) n = ret.toNat % 256 ^ n
        ∧ (∃ img : Word32, t.numberAt (base + BitVec.ofNat 32 (first + n)) n = img.toNat % 256 ^ n
            ∧ Flags.ofImage img = { s.flags with nt := s.flags.nt && cause != .iret })
        ∧ (∀ (k : Nat) (r : Reg), tssRegs[k]? = some r →
            t.numberAt (base + BitVec.ofNat 32 (first + 2 * n + n * k)) n = (s.reg r).toNat % 256 ^ n)
        ∧ (∀ (k : Nat) (r : SegReg), regs[k]? = some r →
            t.numberAt (base + BitVec.ofNat 32 (sels + n * k)) 2 = (s.seg r).sel.toNat)
        ∧ (leaves = true → Memory.get t.mem busy = Memory.get s.mem busy &&& 0xFD)
        ∧ (∀ a, a ∉ saved → (leaves = true → a ≠ busy) → Memory.get t.mem a = Memory.get s.mem a)
        ∧ t = { s with mem := t.mem, stale := t.stale, draws := t.draws, cur := { s.cur with committed := true } })
  ∧ (∀ (sel : Word16) (d : Desc) (cause : SwitchCause) (s t : State), s.flat = true → Memory.wf s.mem = true →
      enterNewTask sel d cause s = .ok () t →
      let link := byteAddresses d.base 2
      let busy := (s.gdtr.base + (sel &&& 0xFFF8).setWidth 32 + 5).toNat
      let nested : Bool := cause == .call || cause == .int
      (nested = true → busy ∉ link) →
      (nested = true → t.numberAt d.base 2 = s.tr.sel.toNat)
        ∧ (cause ≠ .iret → Memory.get t.mem busy = Memory.get s.mem busy ||| 2)
        ∧ (∀ a, (nested = true → a ∉ link) → (cause ≠ .iret → a ≠ busy) → Memory.get t.mem a = Memory.get s.mem a)
        ∧ t = { s with mem := t.mem, stale := t.stale, cr0 := { s.cr0 with ts := true }
                       tr := { sel := sel, base := d.base, limit := d.limit, valid := true
                               is386 := d.type == 9 || d.type == 0xB } })
  ∧ (∀ (d : Desc) (nested b : Bool) (s t : State), s.flat = true → loadNewTask d nested s = .ok b t →
      let at_ (k n : Nat) : Nat := s.numberAt (d.base + BitVec.ofNat 32 k) n
      let f (v : Nat) : Flags :=
        let g := Flags.ofImage (BitVec.ofNat 32 v)
        { g with nt := g.nt || nested }
      let is386 : Bool := d.type == 9 || d.type == 0xB
      t.mem = s.mem ∧ t.dr7 = s.dr7 &&& ~~~(0x55 : Word32) ∧ t.ldtr.valid = false
        ∧ t.cpl = (if t.flags.vm then 3 else rpl t.segs.cs.sel) ∧ (∀ r : SegReg, (t.seg r).valid = false)
        ∧ (is386 = true →
          t.pc = BitVec.ofNat 32 (at_ 0x20 4) ∧ t.flags = f (at_ 0x24 4)
            ∧ (∀ (k : Nat) (r : Reg), tssRegs[k]? = some r → t.reg r = BitVec.ofNat 32 (at_ (0x28 + 4 * k) 4))
            ∧ (∀ (k : Nat) (r : SegReg), [SegReg.es, .cs, .ss, .ds, .fs, .gs][k]? = some r →
                (t.seg r).sel = BitVec.ofNat 16 (at_ (0x48 + 4 * k) 2))
            ∧ t.ldtr.sel = BitVec.ofNat 16 (at_ 0x60 2) ∧ t.cr3 = BitVec.ofNat 32 (at_ 0x1C 4) &&& 0xFFFFF000
            ∧ t.tlb = [] ∧ b = (at_ 0x64 2).testBit 0)
        ∧ (is386 = false →
          t.pc = BitVec.ofNat 32 (at_ 0x0E 2) ∧ t.flags = f (at_ 0x10 2)
            ∧ (∀ (k : Nat) (r : Reg), tssRegs[k]? = some r → t.regN 16 r = BitVec.ofNat 16 (at_ (0x12 + 2 * k) 2))
            ∧ (∀ (k : Nat) (r : SegReg), [SegReg.es, .cs, .ss, .ds][k]? = some r →
                (t.seg r).sel = BitVec.ofNat 16 (at_ (0x22 + 2 * k) 2))
            ∧ t.segs.fs.sel = 0 ∧ t.segs.gs.sel = 0 ∧ t.ldtr.sel = BitVec.ofNat 16 (at_ 0x2A 2) ∧ t.cr3 = s.cr3
            ∧ b = false))
  ∧ (∀ s t : State, validateTask s = .ok () t →
      t.gpr = s.gpr ∧ t.flags = s.flags ∧ t.pc = s.pc ∧ t.cpl = s.cpl ∧ t.tr = s.tr ∧ t.cr3 = s.cr3
        ∧ t.ldtr.sel = s.ldtr.sel ∧ (isNull s.ldtr.sel = false → t.ldtr.valid = true)
        ∧ (∀ r : SegReg, (t.seg r).sel = (s.seg r).sel)
        ∧ (s.flags.vm = true → ∀ r : SegReg, t.seg r = SegCache.real (s.seg r).sel 3)
        ∧ (s.flags.vm = false → t.segs.cs.executable = true ∧ t.segs.ss.writable = true
            ∧ ∀ r : SegReg, isNull (s.seg r).sel = false → (t.seg r).valid = true))
  ∧ (∀ (call : Bool) (i : Instr) (off : Word32) (sel : Word16) (s s0 s1 : State) (d : Desc),
      s.protected = true → FarOperand call i sel off s s0 → isNull sel = false → readDesc sel .gp s0 = .ok d s1 →
      let switches (nsel : Word16) : Prop :=
        ∀ t : State, taskSwitch nsel (if call then .call else .jmp) s.cur.npc s1 = .ok () t →
          exec i s = .next (t.complete s.flags.tf)
      let usable : Prop := weaker s.level (rpl sel) ≤ d.dpl
      let gp := takeExc s s1 (.vector 13 (some (selectorCode sel)))
      ((d.isSystem 1 = true ∨ d.isSystem 9 = true) → (usable → switches sel) ∧ (¬ usable → exec i s = gp))
        ∧ ((d.isSystem 3 = true ∨ d.isSystem 0xB = true) → exec i s = gp)
        ∧ (d.isSystem 5 = true → (usable → d.present = true → switches d.gateSelector) ∧ (¬ usable → exec i s = gp)
          ∧ (usable → d.present = false → exec i s = takeExc s s1 (.vector 11 (some (selectorCode sel))))))
  ∧ (∀ (e : Event) (s s1 s2 s3 s4 : State) (g : Desc) (v : Nat) (errs : List Nat),
      s.cr0.pe = true → 8 * e.vec.toNat + 7 ≤ s.idtr.limit.toNat →
      sysRead (s.idtr.base + 8 * e.vec.setWidth 32) 8 s = .ok v s1 → g = BitVec.ofNat 64 v →
      g.isSystem 5 = true → (e.kind = .software → s.level ≤ g.dpl) → g.present = true →
      taskSwitch g.gateSelector .int e.ret s1 = .ok () s2 →
      let isz := if s2.tr.is386 then 4 else 2
      errorItems isz e.err s2 = .ok errs s3 → pushAll isz errs s3 = .ok () s4 →
      deliver e s = .ok () { s4 with cur := { s4.cur with noTrap := true } })
  ∧ (∀ (s s1 t : State) (link : Nat), s.protected = true → s.flags.nt = true →
      (s.tr.valid = true →
          sysRead s.tr.base 2 { s with nmiInService := false, cur := { s.cur with keepRf := true } } = .ok link s1 →
          taskSwitch (BitVec.ofNat 16 link) .iret s.cur.npc s1 = .ok () t → exec .iret s = .next (t.complete s.flags.tf))
        ∧ (s.tr.valid = false → exec .iret s = .refused .taskSwitchWithoutTss))
  ∧ (∀ (r : SegReg) (sel : Word16) (s : State),
      (isNull sel = true → loadTaskData r sel s = .ok () s)
        ∧ (isNull sel = false → ∀ (d : Desc) (s1 : State), readDesc sel .ts s = .ok d s1 →
          let fits : Prop := d.isReadable = true ∧ (d.isConforming = true ∨ weaker s1.level (rpl sel) ≤ d.dpl)
          (¬ fits → loadTaskData r sel s = .error (.vector 10 (some (sel &&& 0xFFFC))) s1)
            ∧ (fits → d.present = false → loadTaskData r sel s = .error (.vector 11 (some (sel &&& 0xFFFC))) s1)
            ∧ (fits → d.present = true → ∀ s2 : State, markAccessed sel d s1 = .ok () s2 →
                loadTaskData r sel s = .ok () (s2.setSeg r (d.cache sel)))))
  ∧ (∀ (sel : Word16) (s : State), isNull sel = true →
      loadTaskCode sel s = .error (.vector 10 (some 0)) s ∧ loadTaskStack sel s = .error (.vector 10 (some 0)) s)

/-! ### Memory -/

/-- 20_memory.md R101, 00_scope.md R16: bytes written at physical addresses in RAM are read back, and a write changes no
byte at another address, whatever answers there; two memories in canonical form that read alike are equal. -/
def Obligations.MemoryReadsBackWhatWasWritten : Prop :=
  (∀ (ps : List Nat) (bs : List Byte) (s : State), Memory.wf s.mem = true → ps.Nodup → ps.length = bs.length →
      (∀ a ∈ ps, s.kindAt a = .ram) → (s.afterWriting ps bs).bytesAt ps = bs)
  ∧ (∀ (ps : List Nat) (bs : List Byte) (s : State),
      let t := s.afterWriting ps bs
      (∀ a, a ∉ ps → Memory.get t.mem a = Memory.get s.mem a)
        ∧ t = { s with mem := t.mem, stale := t.stale, ioTrace := t.ioTrace })
  ∧ (∀ (n v : Nat), ofBytes (toBytes n v) = v % 256 ^ n)
  ∧ (∀ m k : Memory, Memory.wf m = true → Memory.wf k = true → (∀ a, Memory.get m a = Memory.get k a) → m = k)

/-- 21_segmentation_protection.md R171, R187, 20_memory.md R101, R106: an access through a segment register. Offsets are
inside an expand-up segment up to its limit, and inside an expand-down one above it. The checks in their order: an
unusable register, a write where the cache is not writable, as code and read-only data are (a cache loaded in real mode is
writable and stays so: DESIGN CHOICE, assumption log 37), a read of execute-only code and the execution of data raise
GP(0); a byte outside the segment, or in real mode and V86 mode above FFFFh, raises vector 12 through SS in protected mode
and else vector 13 (20_memory.md R108, 60_exceptions.md R664, 62_virtual_8086.md R703); an address above 1 Mbyte in real
mode or V86 mode raises an exception where the free constant HIGH_1M says so (20_memory.md R109, assumption log 8), which
is vector 12 through SS and else 13 (assumption log 18); nothing else fails. An access that fails a check has no effect;
in ordinary memory with paging off a read gives the bytes at base + offset, the lowest address least significant. -/
def Obligations.SegmentAccesses : Prop :=
  (∀ (c : SegCache) (off : Word32) (n : Nat), 0 < n →
      (c.holds off n = true ↔ ∀ k, k < n →
        if c.expandDown then
          c.limit.toNat < off.toNat + k ∧ off.toNat + k ≤ (if c.big then 0xFFFFFFFF else 0xFFFF)
        else off.toNat + k ≤ c.limit.toNat))
  ∧ (∀ (d : Desc) (sel : Word16), d.isSegment = true →
      let c := d.cache sel
      let code := d.getLsbD 43
      c.valid = true ∧ c.executable = code ∧ c.readable = (!code || d.getLsbD 41) ∧ c.writable = (!code && d.getLsbD 41)
        ∧ c.expandDown = (!code && d.getLsbD 42) ∧ c.big = d.getLsbD 54 ∧ c.base = d.base ∧ c.limit = d.limit)
  ∧ (∀ (r : SegReg) (off : Word32) (n : Nat) (k : Access) (s : State), 0 < n →
      let c := s.seg r
      let first := c.base.toNat + off.toNat
      let allowed := match k with | .read => c.readable | .write => c.writable | .execute => c.executable
      let inside : Prop := c.holds off n = true ∧ (s.protected = true ∨ off.toNat + n ≤ 0x10000)
      let high : Prop := s.protected = false ∧ 0x100000 < first + n ∧ first ≤ 0x10FFEF ∧ Config.high1MFaults = true
      (c.valid = false ∨ allowed = false → s.segFault r off n k = some (.vector 13 (some 0)))
        ∧ (c.valid = true → allowed = true → ¬ inside →
            s.segFault r off n k = some (.vector (if r = .ss ∧ s.protected = true then 12 else 13) (some 0)))
        ∧ (c.valid = true → allowed = true → inside → high →
            s.segFault r off n k = some (.vector (if r = .ss then 12 else 13) (some 0)))
        ∧ (c.valid = true → allowed = true → inside → ¬ high → s.segFault r off n k = none))
  ∧ (∀ (r : SegReg) (off : Word32) (n v : Nat) (s : State) (x : Exc),
      (s.segFault r off n .read = some x → segRead r off n s = .error x s)
        ∧ (s.segFault r off n .write = some x → segWrite r off n v s = .error x s)
        ∧ (∀ k, s.segFault r off n k = some x → linear r off n k s = .error x s)
        ∧ (∀ k, s.segFault r off n k = none → linear r off n k s = .ok ((s.seg r).base + off) s))
  ∧ (∀ (r : SegReg) (off : Word32) (n : Nat) (s : State), n ≤ 4096 → s.flat = true →
      s.segFault r off n .read = none →
      let lin := (s.seg r).base + off
      segRead r off n s = .ok (ofBytes ((byteAddresses lin n).map (Memory.get s.mem))) (s.noteData lin n false))
  ∧ (∀ (r : SegReg) (off : Word32) (n : Nat) (s : State), n ≤ 4096 → s.flat = true →
      s.segFault r off n .write = none →
      let lin := (s.seg r).base + off
      dataAddresses r off n true s = .ok (byteAddresses lin n) (s.noteData lin n true))

/-- 22_paging.md R236, R239, R240: an access that stores nothing for the program changes in memory only the bits A and D,
with paging on; beside memory it can change only what the TLB, the prefetch queue, a device, the debug registers and the
free values record. -/
def Obligations.AccessesChangeOnlyPageBits : Prop :=
  ∀ (r : SegReg) (off : Word32) (n : Nat) (s t : State), Memory.wf s.mem = true →
    (∀ (w : Bool) (ps : List Nat), dataAddresses r off n w s = .ok ps t → Looked s t)
      ∧ (∀ v : Nat, segRead r off n s = .ok v t → Looked s t)
      ∧ (∀ (k : Nat) (e : Rm Reg) (p : Place Reg), openRm k e s = .ok p t → Looked s t)

/-- 22_paging.md R236, R239, R240, R243 to R246, R251: translation with paging on, in ordinary memory. The tables are walked
for an address that the TLB does not hold, and for a write through a held entry whose dirty bit is clear. An entry that is
not present, and an access that the smaller of the two levels' rights forbids, raise a page fault whose code tells the cases
apart; else the frame of the page-table entry is used, A is set in both entries and D in the second on a write, and the TLB
holds the page; of the TLB, four entries in each of eight sets (R249), one leaves a set that is full, by a free choice
(which address bits select the set is DESIGN CHOICE, assumption log 14). Bit D of the directory entry is undefined (R240):
where it is clear and A is set there, a free value says
whether it becomes set too; the reserved bits of both entries are as software stored them (DESIGN CHOICE, assumption log
43). An entry of the TLB that agrees with the tables is used without a walk, its rights being tested again; while one
disagrees, a free choice says whether it is used or the tables are walked (DEDUCED, assumption log 14). A page fault is taken
as vector 14 with its error code, and CR2 holds the linear address that faulted; that it is unrestartable is recorded in a
field of the model's own (DESIGN CHOICE, assumption log 48). -/
def Obligations.PageTranslation : Prop :=
  (∀ (s s1 : State) (lin : Word32) (code : Word16),
    let u := unwind s s1
    takeExc s s1 (.pageFault lin code)
      = deliverEvent { u with cr2 := lin, unrestartable := u.unrestartable || s1.cur.committed }
          { vec := 14, kind := .exception, err := some code, ret := u.pc, rf := some true })
  ∧ ∀ (lin : Word32) (write user : Bool) (s : State),
    s.cr0.pg = true → s.memMap = [] → Memory.wf s.mem = true →
    let pdeA := ((s.cr3 &&& 0xFFFFF000) + (lin >>> 22 <<< 2)).toNat
    let pde := Memory.get32 s.mem pdeA
    let start : State := match s.tlbFind lin with
      | some e => if write && !e.dirty then s else s.drawn
      | none => s
    let d : Byte := if bitAt pde 6 then 0 else start.fresh.setWidth 8 &&& 0x40
    let m1 := if bitAt pde 5 then s.mem else Memory.set s.mem pdeA (Memory.get s.mem pdeA ||| 0x20 ||| d)
    let pteA := ((pde &&& 0xFFFFF000) + ((lin >>> 12 &&& 0x3FF) <<< 2)).toNat
    let pte := Memory.get32 m1 pteA
    let rights : BitVec 2 := if (pde.extractLsb' 1 2 : BitVec 2) ≤ pte.extractLsb' 1 2 then pde.extractLsb' 1 2
                             else pte.extractLsb' 1 2
    let forbidden (r : BitVec 2) : Prop := user = true ∧ (r.getLsbD 1 = false ∨ (write = true ∧ r.getLsbD 0 = false))
    let faults (present : Bool) : Prop := ∃ (code : Word16) (t : State),
      translate lin write user s = .error (.pageFault lin code) t
        ∧ code.getLsbD 0 = present ∧ code.getLsbD 1 = write ∧ code.getLsbD 2 = user
    let agrees (e : TlbEntry) : Bool :=
      bitAt pde 0 && bitAt pte 0 && bitAt pde 5 && bitAt pte 5 && (!write || bitAt pte 6)
        && pte.extractLsb' 12 20 == e.frame && rights == e.rights && bitAt pte 6 == e.dirty
    let used (e : TlbEntry) : Prop := (write = true → e.dirty = true) ∧ (agrees e = true ∨ bitAt s.fresh 0 = false)
    (∀ e : TlbEntry, s.tlbFind lin = some e → used e →
        (forbidden e.rights → faults true)
          ∧ (¬ forbidden e.rights → translate lin write user s
              = .ok (e.frame.toNat * 4096 + lin.toNat % 4096) (if agrees e then s else s.drawn)))
      ∧ ((∀ e : TlbEntry, s.tlbFind lin = some e → ¬ used e) →
        (bitAt pde 0 = false → faults false)
        ∧ (bitAt pde 0 = true → bitAt pte 0 = false → faults false)
        ∧ (bitAt pde 0 = true → bitAt pte 0 = true → forbidden rights → faults true)
        ∧ (bitAt pde 0 = true → bitAt pte 0 = true → ¬ forbidden rights → ∃ t : State,
            translate lin write user s = .ok (pte.toNat / 4096 * 4096 + lin.toNat % 4096) t
              ∧ t.mem = (if bitAt pte 5 && (!write || bitAt pte 6) then m1
                  else Memory.set m1 pteA (Memory.get m1 pteA ||| (if write then 0x60 else 0x20)))
              ∧ t.tlbFind lin = some { page := lin.extractLsb' 12 20, frame := pte.extractLsb' 12 20, rights := rights,
                                       dirty := write || bitAt pte 6 }
              ∧ (tlbFits s.tlb = true → tlbFits t.tlb = true)))

/-- The frame of the forms that write one operand, at the operand size and on bytes (41_arithmetic.md R371 to R379, R387;
42_shift_rotate.md R421 to R430; 40_data_transfer.md R323 to R330; 44_bit.md R460 to R464; 45_control_transfer.md R498): given
where the operand lies, which the effective address of the destination says, only its register, or the bytes of memory at
its addresses, are written (and the bits A and D of page entries); XCHG writes its other register too. Of the flags only the
six status flags and RF can change; every segment, control, debug-address, test, table and mode register is unchanged. A
byte register is one byte of its general register, whose other bytes stay, and with 16-bit operands the upper half of every
general register stays (10_state.md R32). BT on memory and a shift or rotate of memory by
0 write no operand (that such a shift accesses it at all, for a check and a read, is assumption log 46, DESIGN CHOICE). -/
def Obligations.OperandFormsFrame : Prop :=
  (∀ (i : Instr) (e : Rm Reg) (other : List Reg) (s s0 s1 t : State) (p : Place Reg), Memory.wf s.mem = true →
    WritesWord i e other s s0 → openRm s.osBits e s0 = .ok p s1 → exec i s = .next t →
      OperandFrame p.addresses s t
        ∧ (∀ r : Reg, p ≠ .reg r → r ∉ other → t.reg r = s.reg r)
        ∧ (s.os32 = false → ∀ r : Reg, (t.reg r).extractLsb' 16 16 = (s.reg r).extractLsb' 16 16)
        ∧ (∀ m : Mem, e = .mem m → s0.flat = true →
            p = .bytes (byteAddresses ((s0.seg (s0.memSegment m)).base + s0.ea m) (s.osBits / 8))))
  ∧ (∀ (op : BitOp) (m : Mem) (g : Reg) (s s1 t : State) (ps : List Nat), Memory.wf s.mem = true → op ≠ .bt →
      let a := s.bitAddress s.osBits m (s.regN s.osBits g).toInt
      dataAddresses (s.memSegment m) a (s.osBits / 8) true s = .ok ps s1 → exec (op.byRegister (.mem m) g) s = .next t →
      OperandFrame ps s t ∧ t.gpr = s.gpr
        ∧ (s.flat = true → ps = byteAddresses ((s.seg (s.memSegment m)).base + a) (s.osBits / 8)))
  ∧ (∀ (i : Instr) (e : Rm Reg8) (other : List Reg8) (s s0 s1 t : State) (p : Place Reg8), Memory.wf s.mem = true →
    WritesByte i e other s s0 → openRm 8 e s0 = .ok p s1 → exec i s = .next t →
      OperandFrame p.addresses s t
        ∧ (∀ r : Reg8, p ≠ .reg r → r ∉ other → t.reg8 r = s.reg8 r)
        ∧ (∀ r : Reg, (t.reg r).extractLsb' 16 16 = (s.reg r).extractLsb' 16 16)
        ∧ (∀ r : Reg, r ∈ [Reg.esp, .ebp, .esi, .edi] → t.reg r = s.reg r)
        ∧ (∀ m : Mem, e = .mem m → s0.flat = true →
            p = .bytes (byteAddresses ((s0.seg (s0.memSegment m)).base + s0.ea m) 1)))
  ∧ (∀ (i : Instr) (s s1 t : State), Memory.wf s.mem = true → ReadsMemory i s s1 → exec i s = .next t →
      OperandFrame [] s t ∧ t.gpr = s.gpr)

/-! ### Encoding -/

/-- 30_encoding.md R261 to R297: the encoder and the decoder agree. Decoding the encoding of a well-formed instruction,
whatever follows it, gives the instruction back and leaves the rest; and what the decoder gives is well formed. -/
def Obligations.DecodeAndEncodeAgree : Prop :=
  (∀ (c : Ctx) (i : Instr) (rest : List Byte), i.wf c = true → (decode c).run (encode c i ++ rest) = some (i, rest))
  ∧ (∀ (c : Ctx) (bs rest : List Byte) (i : Instr), (decode c).run bs = some (i, rest) → i.wf c = true)

/-- 30_encoding.md R275 to R290: a few encodings written out from the opcode table and the ModRM tables. -/
def Obligations.WrittenWordsDecode : Prop :=
  (decode ⟨false, false⟩).run [0x01, 0xD8] = some (.addEvGv (.reg .eax) .ebx, [])
    ∧ (decode ⟨true, true⟩).run [0x8B, 0x44, 0x8D, 0xFC] = some (.movGvEv .eax (.mem (.sib 2 .ecx .ebp (.d8 0xFC))), [])
    ∧ (decode ⟨false, false⟩).run [0xC7, 0x46, 0x02, 0x34, 0x12]
        = some (.movEvIv (.mem (.based16 .bp (.d8 2))) 0x1234, [])
    ∧ (decode ⟨true, true⟩).run [0x0F, 0xBA, 0x25, 0x78, 0x56, 0x34, 0x12, 0x07]
        = some (.btEvIb (.mem (.direct32 0x12345678)) 7, [])
    ∧ (decode ⟨false, false⟩).run [0xEA, 0x00, 0x01, 0x00, 0xF0] = some (.jmpFar 0x100 0xF000, [])
    ∧ (decode ⟨true, true⟩).run [0x0F, 0x22, 0xC0] = some (.movCrR 3 0 .eax, [])
    ∧ (decode ⟨false, false⟩).run [0xD6] = some (.udD6, [])

/-! ### Steps -/

/-- 30_encoding.md R262, R265, 60_exceptions.md R635: a step of a running processor with no event at the boundary fetches
and runs one instruction: its prefixes, which note themselves, then the instruction itself, which is `exec` of what was
decoded. In ordinary memory with paging off, the bytes at CS:pc that decode to an instruction are that instruction. That
the address of the next instruction is not truncated to 16 bits in 16-bit code, as R262 says of it, is the model's choice
(92_eei_decisions.md D2, assumption log 19).
60_exceptions.md R635 g, R660, 10_state.md R52: the completion of an instruction, in which the statements about instructions
end. `pc` becomes the address of the next instruction unless the instruction wrote it or has elements left; RF is cleared
unless the instruction loaded it or, which R52 and R635 g do not say and is the model's own inference (DEDUCED, assumption
log 25), has elements left; a debug trap waits, with BS set in DR6, if TF was set when the
instruction began and it did not enter a handler, and one that a data breakpoint left waits on; a transfer empties the
prefetch queue (20_memory.md R140); the latch is idle; nothing else changes. -/
def Obligations.StepRunsTheDecodedInstruction : Prop :=
  (∀ s : State, s.run = .running → boundaryEvent s = none → step s = runItems 16 s.noteBreaks.begin)
  ∧ (∀ (fuel : Nat) (u s1 : State) (i : Instr), fetchItem u = .ok i s1 →
      (isPrefix i = false → runItems (fuel + 1) u = exec i s1)
        ∧ (∀ t : State, isPrefix i = true → exec i s1 = .next t → t.cur.inPrefix = true →
            runItems (fuel + 1) u = runItems fuel t))
  ∧ (∀ (fuel : Nat) (u s1 : State) (x : Exc), fetchItem u = .error x s1 → runItems (fuel + 1) u = takeExc u s1 x)
  ∧ (∀ (s : State) (i : Instr) (bs : List Byte), s.run = .running → boundaryEvent s = none → s.flat = true →
      s.stale = [] → (decode ⟨s.code32, s.code32⟩).run bs = some (i, []) → isPrefix i = false → bs.length ≤ 15 →
      (∀ (k : Nat) (b : Byte), bs[k]? = some b →
        s.segFault .cs (s.pc + BitVec.ofNat 32 k) 1 .execute = none
          ∧ Memory.get s.mem (s.segs.cs.base + (s.pc + BitVec.ofNat 32 k)).toNat = b) →
      let u := s.noteBreaks.begin
      step s = exec i { u with cur := { u.cur with npc := s.pc + BitVec.ofNat 32 bs.length, count := bs.length } })
  ∧ (∀ (s : State) (tf : Bool),
      let t := s.complete tf
      let traps : Prop := tf = true ∧ s.cur.noTrap = false
      ((s.cur.jumped = true ∨ s.cur.repeats = true) → t.pc = s.pc)
        ∧ (s.cur.jumped = false → s.cur.repeats = false → t.pc = s.cur.npc)
        ∧ ((s.cur.keepRf = true ∨ s.cur.repeats = true) → t.flags = s.flags)
        ∧ (s.cur.keepRf = false → s.cur.repeats = false → t.flags = { s.flags with rf := false })
        ∧ (traps → t.dr6 = s.dr6 ||| 0x4000 ∧ t.dbgPending = true)
        ∧ (¬ traps → t.dr6 = s.dr6 ∧ t.dbgPending = s.dbgPending)
        ∧ t.repActive = s.cur.repeats ∧ t.stale = (if s.cur.jumped then [] else s.stale)
        ∧ t = { s with pc := t.pc, flags := t.flags, dr6 := t.dr6, dbgPending := t.dbgPending, repActive := t.repActive
                       stale := t.stale, cur := Latch.idle })

/-- 30_encoding.md R265, R270, R271, 43_string.md R441, 48_processor_control.md R589: each prefix notes itself for the
instruction that follows; LOCK does so where the level allows it. That a repeat prefix replaces one already noted, as R265
says of segment overrides, is the model's own inference (DEDUCED, assumption log 22). -/
def Obligations.PrefixesNoteThemselves : Prop :=
  ∀ s : State,
    let noted (c : Latch) : Host.Outcome State Fault Refusal := .next { s with cur := { c with inPrefix := true } }
    exec .segEs s = noted { s.cur with seg := some .es } ∧ exec .segCs s = noted { s.cur with seg := some .cs }
      ∧ exec .segSs s = noted { s.cur with seg := some .ss } ∧ exec .segDs s = noted { s.cur with seg := some .ds }
      ∧ exec .segFs s = noted { s.cur with seg := some .fs } ∧ exec .segGs s = noted { s.cur with seg := some .gs }
      ∧ exec .opSize s = noted { s.cur with opSize := true } ∧ exec .adSize s = noted { s.cur with adSize := true }
      ∧ exec .rep s = noted { s.cur with rep := some .rep } ∧ exec .repne s = noted { s.cur with rep := some .repne }
      ∧ (s.ioAllowed = true → exec .lock s = noted { s.cur with lock := true })

/-- 60_exceptions.md R635, R630, R672, 48_processor_control.md R585: what happens at a boundary. The debug traps of the
instruction before come first, then the instruction breakpoints, NMI, and INTR when IF is set; HALTED and SHUTDOWN are
kept while nothing ends them. That a waiting debug trap does not end HALTED, and NMI only when none is in service, is read
from the spec by inference (DEDUCED, assumption log 31).
60_exceptions.md R612, R662: each of them saves `pc`, the next instruction, and pushes RF as 0, but an interrupt between the
elements of a repeated string instruction pushes it as 1 (assumption log 25).
60_exceptions.md R661, R660: breakpoint `k` matches the next instruction if DR7 selects fetches of length 1 for it, its address
is that of the instruction and RF is 0; it matches a data access if DR7 selects its kind and one of its bytes lies in the
aligned range of the breakpoint. A match sets bit `k` of DR6; an enabled one breaks before the instruction, or leaves a trap
after the access. Codes that are not defined never match, and an address is aligned by its length (assumption log 32).
60_exceptions.md R672: SHUTDOWN is left by an NMI that can be delivered: in real mode the table must hold vector 2 and the
stack have room. That an NMI whose delivery fails leaves the processor there is read by inference (DEDUCED, log 31). -/
def Obligations.BoundaryEventsInPriorityOrder : Prop :=
  (∀ s : State,
    let debug : Event := { vec := 1, kind := .exception, err := none, ret := s.pc, rf := some false }
    let external (v : Byte) : Event := { vec := v, kind := .external, err := none, ret := s.pc, rf := some s.repActive }
    let nmi (t : State) : State := { t with nmiPending := false, nmiInService := true }
    (s.run = .running →
      (s.dbgPending = true → step s = deliverEvent { s with dbgPending := false } debug)
        ∧ (s.dbgPending = false → s.breaks = true → step s = deliverEvent s.noteBreaks debug)
        ∧ (s.dbgPending = false → s.breaks = false → s.nmiPending = true → s.nmiInService = false →
            step s = deliverEvent (nmi s.noteBreaks) (external 2))
        ∧ (∀ v : Byte, s.dbgPending = false → s.breaks = false → (s.nmiPending = false ∨ s.nmiInService = true) →
            s.flags.ie = true → s.intr = some v →
            step s = deliverEvent { s.noteBreaks with intr := none } (external v)))
      ∧ (s.run = .halted → s.nmiReady = false → (s.flags.ie = false ∨ s.intr = none) → step s = .next s)
      ∧ (s.run = .halted → s.nmiReady = true ∨ (s.flags.ie = true ∧ s.intr ≠ none) →
          step s = step { s with run := .running })
      ∧ (s.nmiReady = true ↔ s.nmiPending = true ∧ s.nmiInService = false)
      ∧ (s.run = .shutdown → s.nmiReady = false → step s = .next s)
      ∧ (s.run = .shutdown → s.nmiReady = true →
          let room : Prop := 0x0F ≤ s.idtr.limit.toNat ∧ 5 < (s.reg .esp).toNat % 0x10000
          let u : State := { nmi s with run := .running }
          (s.cr0.pe = false → ¬ room → step s = .next s)
            ∧ (s.cr0.pe = true ∨ room →
              (∀ t : State, deliver (external 2) u = .ok () t → step s = .next t.settle)
                ∧ (∀ (x : Exc) (t : State), deliver (external 2) u = .error x t → step s = .next s))))
  ∧ (∀ s : State,
      let address : Nat → Word32 := fun k => if k = 0 then s.dr0 else if k = 1 then s.dr1 else if k = 2 then s.dr2 else s.dr3
      let rwe (k : Nat) : BitVec 2 := s.dr7.extractLsb' (16 + 4 * k) 2
      let len (k : Nat) : BitVec 2 := s.dr7.extractLsb' (18 + 4 * k) 2
      let enabled (k : Nat) : Prop := s.dr7.getLsbD (2 * k) = true ∨ s.dr7.getLsbD (2 * k + 1) = true
      let fetched (k : Nat) : Prop := rwe k = 0 ∧ len k = 0 ∧ s.flags.rf = false ∧ address k = s.segs.cs.base + s.pc
      let range (k : Nat) : Nat := if len k = 0 then 1 else if len k = 1 then 2 else 4
      let accessed (lin : Word32) (n : Nat) (write : Bool) (k : Nat) : Prop :=
        ((rwe k = 1 ∧ write = true) ∨ rwe k = 3) ∧ len k ≠ 2
          ∧ ∃ j < n, (lin + BitVec.ofNat 32 j).toNat / range k = (address k).toNat / range k
      let noted (t : State) (hit : Nat → Prop) : Prop :=
        (∀ k < 4, t.dr6.getLsbD k = true ↔ s.dr6.getLsbD k = true ∨ hit k) ∧ t.dr6 >>> 4 = s.dr6 >>> 4
      (s.breaks = true ↔ ∃ k < 4, fetched k ∧ enabled k)
        ∧ noted s.noteBreaks fetched ∧ s.noteBreaks = { s with dr6 := s.noteBreaks.dr6 }
        ∧ (∀ (lin : Word32) (n : Nat) (write : Bool),
            let t := s.noteData lin n write
            noted t (accessed lin n write)
              ∧ (t.dbgPending = true ↔ s.dbgPending = true ∨ ∃ k < 4, accessed lin n write k ∧ enabled k)
              ∧ t = { s with dr6 := t.dr6, dbgPending := t.dbgPending }))

/-- 10_state.md R95, 70_reset_and_hazards.md R721, 92_eei_decisions.md D11, D12: the values the spec gives for reset, and what RESET in
any state keeps and samples (70_reset_and_hazards.md R720, R722, R724). -/
def Obligations.ResetState : Prop :=
  let s := State.reset
  s.segs.cs.sel = 0xF000 ∧ s.pc = 0x0000FFF0 ∧ s.segs.cs.base + s.pc = 0xFFFFFFF0 ∧ s.segs.cs.limit = 0xFFFF
    ∧ (∀ r : SegReg, r ≠ .cs → (s.seg r).sel = 0 ∧ (s.seg r).base = 0 ∧ (s.seg r).limit = 0xFFFF
        ∧ (s.seg r).valid = true ∧ (s.seg r).writable = true)
    ∧ (s.flags.image 0) &&& 0x3BFFF = 2 ∧ s.level = 0
    ∧ s.cr0.pe = false ∧ s.cr0.mp = false ∧ s.cr0.em = false ∧ s.cr0.ts = false ∧ s.cr0.pg = false
    ∧ s.idtr.base = 0 ∧ s.idtr.limit = 0x03FF ∧ s.dr7 &&& 0xFF = 0
    ∧ s.run = .running ∧ s.nmiPending = false ∧ s.nmiInService = false
    ∧ s.inv = true ∧ s.legalMode = true ∧ s.reservedClear = true
    ∧ (∀ (t : State) (cop : Coprocessor) (selfTest : Bool),
        let r := t.afterReset cop selfTest
        r.cr0 = { s.cr0 with et := decide (cop = .i80387) } ∧ (selfTest = true → r.gpr.eax = 0 ∧ r.gpr.edx = 0)
          ∧ r.pc = s.pc ∧ r.segs = s.segs ∧ r.idtr = s.idtr ∧ r.cpl = 0 ∧ r.run = .running ∧ r.nmiPending = false
          ∧ r.nmiInService = false ∧ r.flags = { s.flags with nt := r.flags.nt } ∧ r.dr7 &&& 0xFF = 0
          ∧ r.mem = t.mem ∧ r.memMap = t.memMap)

/-- An invariant that every step keeps: memory is in its canonical form, the low 12 bits of CR3 are 0 and no instruction
is half done (10_state.md R71); and so are the legality of the mode (10_state.md R53, R62; 21_segmentation_protection.md
R190) and the absence of bits in the reserved places of the debug and test registers (10_state.md R54; that they are
dropped on a write is the model's choice, assumption log 3). -/
def Obligations.StepKeepsTheInvariants : Prop :=
  ∀ s t : State, step s = .next t →
    (s.inv = true → t.inv = true) ∧ (s.legalMode = true → t.legalMode = true)
      ∧ (s.reservedClear = true → t.reservedClear = true)

/-- 47_os_support.md R570, 10_state.md R61 to R85: no step that begins above level 0 in protected mode, or in V86 mode,
changes GDTR, IDTR, the breakpoint addresses, the test registers, or a bit of CR0 other than TS, which task switches
set. -/
def Obligations.UserStepsKeepSystemRegisters : Prop :=
  ∀ s t : State, s.cr0.pe = true → s.level ≠ 0 → step s = .next t →
    t.gdtr = s.gdtr ∧ t.idtr = s.idtr ∧ t.dr0 = s.dr0 ∧ t.dr1 = s.dr1 ∧ t.dr2 = s.dr2 ∧ t.dr3 = s.dr3
      ∧ t.tr6 = s.tr6 ∧ t.tr7 = s.tr7 ∧ t.cr0 = { s.cr0 with ts := t.cr0.ts } ∧ t.memMap = s.memMap
end

