-- ==== Sys2Proof/Laws/Monad.lean ====
section
/-! SUPPORT. How the parts of an instruction compute: one equation per combinator, the inversion of a sequence, and the relations that a part stays within. -/

namespace Sys2Proof.Machine

variable {α β : Type}

@[simp] theorem pure_apply (a : α) (s : State) : (pure a : M α) s = .ok a s := rfl

@[simp] theorem get_apply (s : State) : (get : M State) s = .ok s s := rfl

@[simp] theorem reads_apply (f : State → α) (s : State) : reads f s = .ok (f s) s := rfl

@[simp] theorem update_apply (f : State → State) (s : State) : update f s = .ok () (f s) := rfl

@[simp] theorem raise_apply (e : Exc) (s : State) : (raise e : M α) s = .error e s := rfl

@[simp] theorem raiseIf_apply (c : Bool) (e : Exc) (s : State) :
    raiseIf c e s = if c then .error e s else .ok () s := rfl

@[simp] theorem draw_apply (s : State) : draw s = .ok (Config.draw s.draws) { s with draws := s.draws + 1 } := rfl

/-- A sequence runs its second part in the state the first one left. -/
theorem bind_apply (x : M α) (f : α → M β) (s : State) :
    (x >>= f) s = match x s with
      | .ok a t => f a t
      | .error e t => .error e t := by
  simp only [bind, EStateM.bind]
  cases x s <;> rfl

theorem bind_of_ok {x : M α} {f : α → M β} {s t : State} {a : α} (h : x s = .ok a t) : (x >>= f) s = f a t := by
  rw [bind_apply, h]

theorem bind_of_error {x : M α} {f : α → M β} {s t : State} {e : Exc} (h : x s = .error e t) :
    (x >>= f) s = .error e t := by
  rw [bind_apply, h]

/-- A sequence completes exactly when both its parts do. -/
theorem bind_eq_ok {x : M α} {f : α → M β} {s t : State} {b : β} :
    (x >>= f) s = .ok b t ↔ ∃ a u, x s = .ok a u ∧ f a u = .ok b t := by
  rw [bind_apply]
  cases x s with
  | ok a u => exact ⟨fun h => ⟨a, u, rfl, h⟩, by rintro ⟨_, _, ⟨⟩, h⟩; exact h⟩
  | error e u => exact ⟨nofun, by rintro ⟨_, _, ⟨⟩, _⟩⟩

/-- A test passes exactly when its condition is false. -/
theorem raiseIf_eq_ok {c : Bool} {e : Exc} {s t : State} :
    raiseIf c e s = .ok () t ↔ c = false ∧ t = s := by
  cases c <;> simp [eq_comm]

/-- What follows a test completes exactly when the test passes and it does. -/
theorem raiseIf_bind_eq_ok {c : Bool} {e : Exc} {f : Unit → M β} {s t : State} {b : β} :
    (raiseIf c e >>= f) s = .ok b t ↔ c = false ∧ f () s = .ok b t := by
  rw [bind_apply, raiseIf_apply]
  cases c <;> simp

theorem ite_apply (c : Prop) [Decidable c] (x y : M α) (s : State) : (if c then x else y) s = if c then x s else y s := by
  split <;> rfl

/-- The state a part of an instruction ends in, whether it completes or not. -/
def endState (r : EStateM.Result Exc State α) : State :=
  match r with
  | .ok _ t => t
  | .error _ t => t

@[simp] theorem endState_ok (a : α) (t : State) : endState (.ok a t) = t := rfl

@[simp] theorem endState_error (e : Exc) (t : State) : endState (.error e t : EStateM.Result Exc State α) = t := rfl

/-- From every state, the state in which `m` ends is related to it by `R`. -/
def Within (R : State → State → Prop) (m : M α) : Prop := ∀ s, R s (endState (m s))

/-- A reflexive and transitive relation between states. -/
structure Steps (R : State → State → Prop) : Prop where
  refl : ∀ s, R s s
  trans : ∀ {a b c}, R a b → R b c → R a c

variable {R : State → State → Prop}

theorem within_bind (h : Steps R) {x : M α} {f : α → M β} (hx : Within R x) (hf : ∀ a, Within R (f a)) :
    Within R (x >>= f) := by
  intro s
  have h1 := hx s
  rw [bind_apply]
  cases hs : x s with
  | ok a t => rw [hs] at h1; exact h.trans h1 (hf a t)
  | error e t => rw [hs] at h1; exact h1

theorem within_pure (h : Steps R) (a : α) : Within R (pure a : M α) := fun s => h.refl s

theorem within_get (h : Steps R) : Within R (get : M State) := fun s => h.refl s

theorem within_reads (h : Steps R) (f : State → α) : Within R (reads f) := fun s => h.refl s

theorem within_raise (h : Steps R) (e : Exc) : Within R (raise e : M α) := fun s => h.refl s

theorem within_raiseIf (h : Steps R) (c : Bool) (e : Exc) : Within R (raiseIf c e) := by
  intro s
  cases c <;> exact h.refl s

theorem within_update {f : State → State} (hf : ∀ s, R s (f s)) : Within R (update f) := hf

theorem within_ite {c : Prop} [Decidable c] {x y : M α} (hx : Within R x) (hy : Within R y) :
    Within R (if c then x else y) := by
  split <;> assumption

/-- To invert one state's continuation: what follows a `get` may depend on the state it read. -/
theorem within_get_bind {f : State → M β} (hf : ∀ a, R a (endState (f a a))) : Within R (get >>= f) := by
  intro s
  rw [bind_of_ok (get_apply s)]
  exact hf s

end Sys2Proof.Machine
end

