-- ==== Sys2Proof/Laws/Memory.lean ====
section
/-! SUPPORT. The laws of memory: a read after a write, and the canonical form that every operation keeps. -/

namespace Sys2Proof.Machine

@[simp] theorem Memory.get_nil (x : Nat) : Memory.get [] x = Memory.unlisted := rfl

/-- An address below every listed one is not listed. -/
theorem Memory.get_below {m : Memory} {low x : Nat} (h : Memory.wfFrom low m = true) (hx : x < low) :
    Memory.get m x = Memory.unlisted := by
  induction m generalizing low with
  | nil => rfl
  | cons c m ih =>
    obtain ⟨a, b⟩ := c
    simp only [Memory.wfFrom, Bool.and_eq_true, decide_eq_true_eq] at h
    have hne : a ≠ x := by omega
    simp only [Memory.get, hne, if_false]
    exact ih h.2 (by omega)

/-- The canonical form above a bound holds above a lower bound. -/
theorem Memory.wfFrom_mono {m : Memory} {low low' : Nat} (h : Memory.wfFrom low m = true) (hl : low' ≤ low) :
    Memory.wfFrom low' m = true := by
  cases m with
  | nil => rfl
  | cons c m =>
    obtain ⟨a, b⟩ := c
    simp only [Memory.wfFrom, Bool.and_eq_true, decide_eq_true_eq] at h ⊢
    exact ⟨⟨by omega, h.1.2⟩, h.2⟩

/-- Reading the address just written gives the value written. -/
theorem Memory.get_set_same {m : Memory} (h : Memory.wf m = true) (x : Nat) (v : Byte) :
    Memory.get (Memory.set m x v) x = v := by
  unfold Memory.wf at h
  generalize 0 = low at h
  induction m generalizing low with
  | nil =>
    unfold Memory.set
    split
    · next hv => exact hv.symm
    · simp [Memory.get]
  | cons c m ih =>
    obtain ⟨a, b⟩ := c
    simp only [Memory.wfFrom, Bool.and_eq_true, decide_eq_true_eq] at h
    unfold Memory.set
    split
    · next hlt =>
      split
      · next hv =>
        have hne : a ≠ x := by omega
        simp only [Memory.get, hne, if_false]
        rw [Memory.get_below h.2 (by omega)]
        exact hv.symm
      · simp [Memory.get]
    · split
      · next heq =>
        subst heq
        split
        · next hv => rw [Memory.get_below h.2 (by omega)]; exact hv.symm
        · simp [Memory.get]
      · next hne =>
        simp only [Memory.get, Ne.symm hne, if_false]
        exact ih (a + 1) h.2

/-- Writing an address leaves every other one. -/
theorem Memory.get_set_other (m : Memory) {x y : Nat} (v : Byte) (hxy : y ≠ x) :
    Memory.get (Memory.set m x v) y = Memory.get m y := by
  induction m with
  | nil =>
    unfold Memory.set
    split
    · rfl
    · simp [Memory.get, Ne.symm hxy]
  | cons c m ih =>
    obtain ⟨a, b⟩ := c
    unfold Memory.set
    split
    · split
      · rfl
      · simp [Memory.get, Ne.symm hxy]
    · split
      · next heq =>
        subst heq
        split <;> simp [Memory.get, Ne.symm hxy]
      · simp only [Memory.get, ih]

/-- Writing keeps the canonical form, above a bound that the address respects. -/
theorem Memory.wfFrom_set {m : Memory} {low x : Nat} (h : Memory.wfFrom low m = true) (hx : low ≤ x) (v : Byte) :
    Memory.wfFrom low (Memory.set m x v) = true := by
  induction m generalizing low with
  | nil =>
    unfold Memory.set
    split
    · rfl
    · next hv => simp [Memory.wfFrom, hx, hv]
  | cons c m ih =>
    obtain ⟨a, b⟩ := c
    have h' := h
    simp only [Memory.wfFrom, Bool.and_eq_true, decide_eq_true_eq, bne_iff_ne] at h'
    unfold Memory.set
    split
    · next hlt =>
      split
      · exact h
      · next hv =>
        simp only [Memory.wfFrom, Bool.and_eq_true, decide_eq_true_eq, bne_iff_ne]
        exact ⟨⟨hx, hv⟩, ⟨by omega, h'.1.2⟩, h'.2⟩
    · split
      · next heq =>
        subst heq
        split
        · exact Memory.wfFrom_mono h'.2 (by omega)
        · next hv =>
          simp only [Memory.wfFrom, Bool.and_eq_true, decide_eq_true_eq, bne_iff_ne]
          exact ⟨⟨hx, hv⟩, h'.2⟩
      · next hlt hne =>
        simp only [Memory.wfFrom, Bool.and_eq_true, decide_eq_true_eq, bne_iff_ne]
        exact ⟨⟨h'.1.1, h'.1.2⟩, ih h'.2 (by omega)⟩

/-- Writing keeps the canonical form. -/
theorem Memory.wf_set {m : Memory} (h : Memory.wf m = true) (x : Nat) (v : Byte) : Memory.wf (Memory.set m x v) = true :=
  Memory.wfFrom_set h (Nat.zero_le x) v

@[simp] theorem Memory.setRun_nil (m : Memory) (a : Nat) : Memory.setRun m a [] = m := rfl

@[simp] theorem Memory.setRun_cons (m : Memory) (a : Nat) (v : Byte) (vs : List Byte) :
    Memory.setRun m a (v :: vs) = Memory.setRun (Memory.set m a v) (a + 1) vs := rfl

/-- Writing a run of bytes keeps the canonical form. -/
theorem Memory.wf_setRun {m : Memory} (h : Memory.wf m = true) (a : Nat) (vs : List Byte) :
    Memory.wf (Memory.setRun m a vs) = true := by
  induction vs generalizing m a with
  | nil => exact h
  | cons v vs ih => exact ih (Memory.wf_set h a v) _

/-- Two memories in canonical form that read alike are the same list. -/
theorem Memory.ext_of_get {m k : Memory} {low : Nat} (hm : Memory.wfFrom low m = true) (hk : Memory.wfFrom low k = true)
    (h : ∀ x, Memory.get m x = Memory.get k x) : m = k := by
  induction m generalizing low k with
  | nil =>
    cases k with
    | nil => rfl
    | cons d k =>
      obtain ⟨a, b⟩ := d
      simp only [Memory.wfFrom, Bool.and_eq_true, bne_iff_ne] at hk
      exact absurd (by simpa [Memory.get] using (h a).symm) hk.1.2
  | cons c m ih =>
    obtain ⟨a, b⟩ := c
    simp only [Memory.wfFrom, Bool.and_eq_true, decide_eq_true_eq, bne_iff_ne] at hm
    cases k with
    | nil => exact absurd (by simpa [Memory.get] using h a) hm.1.2
    | cons d k =>
      obtain ⟨a', b'⟩ := d
      simp only [Memory.wfFrom, Bool.and_eq_true, decide_eq_true_eq, bne_iff_ne] at hk
      have ha : a = a' := by
        rcases Nat.lt_trichotomy a a' with hlt | heq | hgt
        · have := h a
          simp only [Memory.get, if_true, show a' ≠ a by omega, if_false] at this
          rw [Memory.get_below hk.2 (by omega)] at this
          exact absurd this hm.1.2
        · exact heq
        · have := h a'
          simp only [Memory.get, if_true, show a ≠ a' by omega, if_false] at this
          rw [Memory.get_below hm.2 (by omega)] at this
          exact absurd this.symm hk.1.2
      subst ha
      have hb : b = b' := by simpa [Memory.get] using h a
      subst hb
      have : m = k := by
        refine ih hm.2 hk.2 fun x => ?_
        by_cases hx : a = x
        · subst hx
          rw [Memory.get_below hm.2 (by omega), Memory.get_below hk.2 (by omega)]
        · have := h x
          simpa [Memory.get, hx] using this
      rw [this]

/-- Doing the page walker's writes again keeps the canonical form. -/
theorem wf_replayWalk (w : List Host.Cell) {m : Memory} (h : Memory.wf m = true) : Memory.wf (replayWalk w m) = true := by
  induction w with
  | nil => exact h
  | cons c w ih => exact Memory.wf_set ih _ _

/-- `unwind` keeps the canonical form that both its states have. -/
theorem wf_unwind {s t : State} (hs : Memory.wf s.mem = true) (ht : Memory.wf t.mem = true) :
    Memory.wf (unwind s t).mem = true := by
  unfold unwind
  split
  · exact ht
  · exact wf_replayWalk _ hs

@[simp] theorem ofBytes_nil : ofBytes [] = 0 := rfl

@[simp] theorem ofBytes_cons (b : Byte) (bs : List Byte) : ofBytes (b :: bs) = b.toNat + 256 * ofBytes bs := rfl

@[simp] theorem length_toBytes (n v : Nat) : (toBytes n v).length = n := by
  induction n generalizing v with
  | zero => rfl
  | succ n ih => simp [toBytes, ih]

/-- The bytes of a number give it back, modulo their range. -/
theorem ofBytes_toBytes (n v : Nat) : ofBytes (toBytes n v) = v % 256 ^ n := by
  induction n generalizing v with
  | zero => simp [toBytes, Nat.mod_one]
  | succ n ih =>
    simp only [toBytes, ofBytes_cons, ih, BitVec.toNat_ofNat]
    have h : 256 ^ (n + 1) = 256 * 256 ^ n := by rw [Nat.pow_succ, Nat.mul_comm]
    rw [h, Nat.mod_mul]

/-- A list of bytes is below its range. -/
theorem ofBytes_lt (bs : List Byte) : ofBytes bs < 256 ^ bs.length := by
  induction bs with
  | nil => simp
  | cons b bs ih =>
    have := b.isLt
    simp only [ofBytes_cons, List.length_cons, Nat.pow_succ]
    omega

end Sys2Proof.Machine
end

