-- ==== Sys2Proof/Laws/State.lean ====
section
/-! SUPPORT. One lemma per field per update of the state, so that no proof unfolds a record update. -/

namespace Sys2Proof.Machine

@[simp] theorem State.setReg_pc (s : State) (r : Reg) (v : Word32) : (s.setReg r v).pc = s.pc := rfl
@[simp] theorem State.setReg_flags (s : State) (r : Reg) (v : Word32) : (s.setReg r v).flags = s.flags := rfl
@[simp] theorem State.setReg_cr0 (s : State) (r : Reg) (v : Word32) : (s.setReg r v).cr0 = s.cr0 := rfl
@[simp] theorem State.setReg_cr2 (s : State) (r : Reg) (v : Word32) : (s.setReg r v).cr2 = s.cr2 := rfl
@[simp] theorem State.setReg_cr3 (s : State) (r : Reg) (v : Word32) : (s.setReg r v).cr3 = s.cr3 := rfl
@[simp] theorem State.setReg_dr0 (s : State) (r : Reg) (v : Word32) : (s.setReg r v).dr0 = s.dr0 := rfl
@[simp] theorem State.setReg_dr1 (s : State) (r : Reg) (v : Word32) : (s.setReg r v).dr1 = s.dr1 := rfl
@[simp] theorem State.setReg_dr2 (s : State) (r : Reg) (v : Word32) : (s.setReg r v).dr2 = s.dr2 := rfl
@[simp] theorem State.setReg_dr3 (s : State) (r : Reg) (v : Word32) : (s.setReg r v).dr3 = s.dr3 := rfl
@[simp] theorem State.setReg_dr6 (s : State) (r : Reg) (v : Word32) : (s.setReg r v).dr6 = s.dr6 := rfl
@[simp] theorem State.setReg_dr7 (s : State) (r : Reg) (v : Word32) : (s.setReg r v).dr7 = s.dr7 := rfl
@[simp] theorem State.setReg_tr6 (s : State) (r : Reg) (v : Word32) : (s.setReg r v).tr6 = s.tr6 := rfl
@[simp] theorem State.setReg_tr7 (s : State) (r : Reg) (v : Word32) : (s.setReg r v).tr7 = s.tr7 := rfl
@[simp] theorem State.setReg_gdtr (s : State) (r : Reg) (v : Word32) : (s.setReg r v).gdtr = s.gdtr := rfl
@[simp] theorem State.setReg_idtr (s : State) (r : Reg) (v : Word32) : (s.setReg r v).idtr = s.idtr := rfl
@[simp] theorem State.setReg_ldtr (s : State) (r : Reg) (v : Word32) : (s.setReg r v).ldtr = s.ldtr := rfl
@[simp] theorem State.setReg_tr (s : State) (r : Reg) (v : Word32) : (s.setReg r v).tr = s.tr := rfl
@[simp] theorem State.setReg_segs (s : State) (r : Reg) (v : Word32) : (s.setReg r v).segs = s.segs := rfl
@[simp] theorem State.setReg_cpl (s : State) (r : Reg) (v : Word32) : (s.setReg r v).cpl = s.cpl := rfl
@[simp] theorem State.setReg_mem (s : State) (r : Reg) (v : Word32) : (s.setReg r v).mem = s.mem := rfl
@[simp] theorem State.setReg_memMap (s : State) (r : Reg) (v : Word32) : (s.setReg r v).memMap = s.memMap := rfl
@[simp] theorem State.setReg_tlb (s : State) (r : Reg) (v : Word32) : (s.setReg r v).tlb = s.tlb := rfl
@[simp] theorem State.setReg_stale (s : State) (r : Reg) (v : Word32) : (s.setReg r v).stale = s.stale := rfl
@[simp] theorem State.setReg_nmiPending (s : State) (r : Reg) (v : Word32) : (s.setReg r v).nmiPending = s.nmiPending := rfl
@[simp] theorem State.setReg_nmiInService (s : State) (r : Reg) (v : Word32) : (s.setReg r v).nmiInService = s.nmiInService := rfl
@[simp] theorem State.setReg_run (s : State) (r : Reg) (v : Word32) : (s.setReg r v).run = s.run := rfl
@[simp] theorem State.setReg_intr (s : State) (r : Reg) (v : Word32) : (s.setReg r v).intr = s.intr := rfl
@[simp] theorem State.setReg_dbgPending (s : State) (r : Reg) (v : Word32) : (s.setReg r v).dbgPending = s.dbgPending := rfl
@[simp] theorem State.setReg_repActive (s : State) (r : Reg) (v : Word32) : (s.setReg r v).repActive = s.repActive := rfl
@[simp] theorem State.setReg_unrestartable (s : State) (r : Reg) (v : Word32) : (s.setReg r v).unrestartable = s.unrestartable := rfl
@[simp] theorem State.setReg_ioTrace (s : State) (r : Reg) (v : Word32) : (s.setReg r v).ioTrace = s.ioTrace := rfl
@[simp] theorem State.setReg_draws (s : State) (r : Reg) (v : Word32) : (s.setReg r v).draws = s.draws := rfl
@[simp] theorem State.setReg_cur (s : State) (r : Reg) (v : Word32) : (s.setReg r v).cur = s.cur := rfl

@[simp] theorem State.setRegN_pc (s : State) {n : Nat} (r : Reg) (v : BitVec n) : (s.setRegN r v).pc = s.pc := rfl
@[simp] theorem State.setRegN_flags (s : State) {n : Nat} (r : Reg) (v : BitVec n) : (s.setRegN r v).flags = s.flags := rfl
@[simp] theorem State.setRegN_cr0 (s : State) {n : Nat} (r : Reg) (v : BitVec n) : (s.setRegN r v).cr0 = s.cr0 := rfl
@[simp] theorem State.setRegN_cr2 (s : State) {n : Nat} (r : Reg) (v : BitVec n) : (s.setRegN r v).cr2 = s.cr2 := rfl
@[simp] theorem State.setRegN_cr3 (s : State) {n : Nat} (r : Reg) (v : BitVec n) : (s.setRegN r v).cr3 = s.cr3 := rfl
@[simp] theorem State.setRegN_dr0 (s : State) {n : Nat} (r : Reg) (v : BitVec n) : (s.setRegN r v).dr0 = s.dr0 := rfl
@[simp] theorem State.setRegN_dr1 (s : State) {n : Nat} (r : Reg) (v : BitVec n) : (s.setRegN r v).dr1 = s.dr1 := rfl
@[simp] theorem State.setRegN_dr2 (s : State) {n : Nat} (r : Reg) (v : BitVec n) : (s.setRegN r v).dr2 = s.dr2 := rfl
@[simp] theorem State.setRegN_dr3 (s : State) {n : Nat} (r : Reg) (v : BitVec n) : (s.setRegN r v).dr3 = s.dr3 := rfl
@[simp] theorem State.setRegN_dr6 (s : State) {n : Nat} (r : Reg) (v : BitVec n) : (s.setRegN r v).dr6 = s.dr6 := rfl
@[simp] theorem State.setRegN_dr7 (s : State) {n : Nat} (r : Reg) (v : BitVec n) : (s.setRegN r v).dr7 = s.dr7 := rfl
@[simp] theorem State.setRegN_tr6 (s : State) {n : Nat} (r : Reg) (v : BitVec n) : (s.setRegN r v).tr6 = s.tr6 := rfl
@[simp] theorem State.setRegN_tr7 (s : State) {n : Nat} (r : Reg) (v : BitVec n) : (s.setRegN r v).tr7 = s.tr7 := rfl
@[simp] theorem State.setRegN_gdtr (s : State) {n : Nat} (r : Reg) (v : BitVec n) : (s.setRegN r v).gdtr = s.gdtr := rfl
@[simp] theorem State.setRegN_idtr (s : State) {n : Nat} (r : Reg) (v : BitVec n) : (s.setRegN r v).idtr = s.idtr := rfl
@[simp] theorem State.setRegN_ldtr (s : State) {n : Nat} (r : Reg) (v : BitVec n) : (s.setRegN r v).ldtr = s.ldtr := rfl
@[simp] theorem State.setRegN_tr (s : State) {n : Nat} (r : Reg) (v : BitVec n) : (s.setRegN r v).tr = s.tr := rfl
@[simp] theorem State.setRegN_segs (s : State) {n : Nat} (r : Reg) (v : BitVec n) : (s.setRegN r v).segs = s.segs := rfl
@[simp] theorem State.setRegN_cpl (s : State) {n : Nat} (r : Reg) (v : BitVec n) : (s.setRegN r v).cpl = s.cpl := rfl
@[simp] theorem State.setRegN_mem (s : State) {n : Nat} (r : Reg) (v : BitVec n) : (s.setRegN r v).mem = s.mem := rfl
@[simp] theorem State.setRegN_memMap (s : State) {n : Nat} (r : Reg) (v : BitVec n) : (s.setRegN r v).memMap = s.memMap := rfl
@[simp] theorem State.setRegN_tlb (s : State) {n : Nat} (r : Reg) (v : BitVec n) : (s.setRegN r v).tlb = s.tlb := rfl
@[simp] theorem State.setRegN_stale (s : State) {n : Nat} (r : Reg) (v : BitVec n) : (s.setRegN r v).stale = s.stale := rfl
@[simp] theorem State.setRegN_nmiPending (s : State) {n : Nat} (r : Reg) (v : BitVec n) : (s.setRegN r v).nmiPending = s.nmiPending := rfl
@[simp] theorem State.setRegN_nmiInService (s : State) {n : Nat} (r : Reg) (v : BitVec n) : (s.setRegN r v).nmiInService = s.nmiInService := rfl
@[simp] theorem State.setRegN_run (s : State) {n : Nat} (r : Reg) (v : BitVec n) : (s.setRegN r v).run = s.run := rfl
@[simp] theorem State.setRegN_intr (s : State) {n : Nat} (r : Reg) (v : BitVec n) : (s.setRegN r v).intr = s.intr := rfl
@[simp] theorem State.setRegN_dbgPending (s : State) {n : Nat} (r : Reg) (v : BitVec n) : (s.setRegN r v).dbgPending = s.dbgPending := rfl
@[simp] theorem State.setRegN_repActive (s : State) {n : Nat} (r : Reg) (v : BitVec n) : (s.setRegN r v).repActive = s.repActive := rfl
@[simp] theorem State.setRegN_unrestartable (s : State) {n : Nat} (r : Reg) (v : BitVec n) : (s.setRegN r v).unrestartable = s.unrestartable := rfl
@[simp] theorem State.setRegN_ioTrace (s : State) {n : Nat} (r : Reg) (v : BitVec n) : (s.setRegN r v).ioTrace = s.ioTrace := rfl
@[simp] theorem State.setRegN_draws (s : State) {n : Nat} (r : Reg) (v : BitVec n) : (s.setRegN r v).draws = s.draws := rfl
@[simp] theorem State.setRegN_cur (s : State) {n : Nat} (r : Reg) (v : BitVec n) : (s.setRegN r v).cur = s.cur := rfl

@[simp] theorem State.setReg8_pc (s : State) (r : Reg8) (v : Byte) : (s.setReg8 r v).pc = s.pc := rfl
@[simp] theorem State.setReg8_flags (s : State) (r : Reg8) (v : Byte) : (s.setReg8 r v).flags = s.flags := rfl
@[simp] theorem State.setReg8_cr0 (s : State) (r : Reg8) (v : Byte) : (s.setReg8 r v).cr0 = s.cr0 := rfl
@[simp] theorem State.setReg8_cr2 (s : State) (r : Reg8) (v : Byte) : (s.setReg8 r v).cr2 = s.cr2 := rfl
@[simp] theorem State.setReg8_cr3 (s : State) (r : Reg8) (v : Byte) : (s.setReg8 r v).cr3 = s.cr3 := rfl
@[simp] theorem State.setReg8_dr0 (s : State) (r : Reg8) (v : Byte) : (s.setReg8 r v).dr0 = s.dr0 := rfl
@[simp] theorem State.setReg8_dr1 (s : State) (r : Reg8) (v : Byte) : (s.setReg8 r v).dr1 = s.dr1 := rfl
@[simp] theorem State.setReg8_dr2 (s : State) (r : Reg8) (v : Byte) : (s.setReg8 r v).dr2 = s.dr2 := rfl
@[simp] theorem State.setReg8_dr3 (s : State) (r : Reg8) (v : Byte) : (s.setReg8 r v).dr3 = s.dr3 := rfl
@[simp] theorem State.setReg8_dr6 (s : State) (r : Reg8) (v : Byte) : (s.setReg8 r v).dr6 = s.dr6 := rfl
@[simp] theorem State.setReg8_dr7 (s : State) (r : Reg8) (v : Byte) : (s.setReg8 r v).dr7 = s.dr7 := rfl
@[simp] theorem State.setReg8_tr6 (s : State) (r : Reg8) (v : Byte) : (s.setReg8 r v).tr6 = s.tr6 := rfl
@[simp] theorem State.setReg8_tr7 (s : State) (r : Reg8) (v : Byte) : (s.setReg8 r v).tr7 = s.tr7 := rfl
@[simp] theorem State.setReg8_gdtr (s : State) (r : Reg8) (v : Byte) : (s.setReg8 r v).gdtr = s.gdtr := rfl
@[simp] theorem State.setReg8_idtr (s : State) (r : Reg8) (v : Byte) : (s.setReg8 r v).idtr = s.idtr := rfl
@[simp] theorem State.setReg8_ldtr (s : State) (r : Reg8) (v : Byte) : (s.setReg8 r v).ldtr = s.ldtr := rfl
@[simp] theorem State.setReg8_tr (s : State) (r : Reg8) (v : Byte) : (s.setReg8 r v).tr = s.tr := rfl
@[simp] theorem State.setReg8_segs (s : State) (r : Reg8) (v : Byte) : (s.setReg8 r v).segs = s.segs := rfl
@[simp] theorem State.setReg8_cpl (s : State) (r : Reg8) (v : Byte) : (s.setReg8 r v).cpl = s.cpl := rfl
@[simp] theorem State.setReg8_mem (s : State) (r : Reg8) (v : Byte) : (s.setReg8 r v).mem = s.mem := rfl
@[simp] theorem State.setReg8_memMap (s : State) (r : Reg8) (v : Byte) : (s.setReg8 r v).memMap = s.memMap := rfl
@[simp] theorem State.setReg8_tlb (s : State) (r : Reg8) (v : Byte) : (s.setReg8 r v).tlb = s.tlb := rfl
@[simp] theorem State.setReg8_stale (s : State) (r : Reg8) (v : Byte) : (s.setReg8 r v).stale = s.stale := rfl
@[simp] theorem State.setReg8_nmiPending (s : State) (r : Reg8) (v : Byte) : (s.setReg8 r v).nmiPending = s.nmiPending := rfl
@[simp] theorem State.setReg8_nmiInService (s : State) (r : Reg8) (v : Byte) : (s.setReg8 r v).nmiInService = s.nmiInService := rfl
@[simp] theorem State.setReg8_run (s : State) (r : Reg8) (v : Byte) : (s.setReg8 r v).run = s.run := rfl
@[simp] theorem State.setReg8_intr (s : State) (r : Reg8) (v : Byte) : (s.setReg8 r v).intr = s.intr := rfl
@[simp] theorem State.setReg8_dbgPending (s : State) (r : Reg8) (v : Byte) : (s.setReg8 r v).dbgPending = s.dbgPending := rfl
@[simp] theorem State.setReg8_repActive (s : State) (r : Reg8) (v : Byte) : (s.setReg8 r v).repActive = s.repActive := rfl
@[simp] theorem State.setReg8_unrestartable (s : State) (r : Reg8) (v : Byte) : (s.setReg8 r v).unrestartable = s.unrestartable := rfl
@[simp] theorem State.setReg8_ioTrace (s : State) (r : Reg8) (v : Byte) : (s.setReg8 r v).ioTrace = s.ioTrace := rfl
@[simp] theorem State.setReg8_draws (s : State) (r : Reg8) (v : Byte) : (s.setReg8 r v).draws = s.draws := rfl
@[simp] theorem State.setReg8_cur (s : State) (r : Reg8) (v : Byte) : (s.setReg8 r v).cur = s.cur := rfl

@[simp] theorem State.setSeg_gpr (s : State) (r : SegReg) (c : SegCache) : (s.setSeg r c).gpr = s.gpr := rfl
@[simp] theorem State.setSeg_pc (s : State) (r : SegReg) (c : SegCache) : (s.setSeg r c).pc = s.pc := rfl
@[simp] theorem State.setSeg_flags (s : State) (r : SegReg) (c : SegCache) : (s.setSeg r c).flags = s.flags := rfl
@[simp] theorem State.setSeg_cr0 (s : State) (r : SegReg) (c : SegCache) : (s.setSeg r c).cr0 = s.cr0 := rfl
@[simp] theorem State.setSeg_cr2 (s : State) (r : SegReg) (c : SegCache) : (s.setSeg r c).cr2 = s.cr2 := rfl
@[simp] theorem State.setSeg_cr3 (s : State) (r : SegReg) (c : SegCache) : (s.setSeg r c).cr3 = s.cr3 := rfl
@[simp] theorem State.setSeg_dr0 (s : State) (r : SegReg) (c : SegCache) : (s.setSeg r c).dr0 = s.dr0 := rfl
@[simp] theorem State.setSeg_dr1 (s : State) (r : SegReg) (c : SegCache) : (s.setSeg r c).dr1 = s.dr1 := rfl
@[simp] theorem State.setSeg_dr2 (s : State) (r : SegReg) (c : SegCache) : (s.setSeg r c).dr2 = s.dr2 := rfl
@[simp] theorem State.setSeg_dr3 (s : State) (r : SegReg) (c : SegCache) : (s.setSeg r c).dr3 = s.dr3 := rfl
@[simp] theorem State.setSeg_dr6 (s : State) (r : SegReg) (c : SegCache) : (s.setSeg r c).dr6 = s.dr6 := rfl
@[simp] theorem State.setSeg_dr7 (s : State) (r : SegReg) (c : SegCache) : (s.setSeg r c).dr7 = s.dr7 := rfl
@[simp] theorem State.setSeg_tr6 (s : State) (r : SegReg) (c : SegCache) : (s.setSeg r c).tr6 = s.tr6 := rfl
@[simp] theorem State.setSeg_tr7 (s : State) (r : SegReg) (c : SegCache) : (s.setSeg r c).tr7 = s.tr7 := rfl
@[simp] theorem State.setSeg_gdtr (s : State) (r : SegReg) (c : SegCache) : (s.setSeg r c).gdtr = s.gdtr := rfl
@[simp] theorem State.setSeg_idtr (s : State) (r : SegReg) (c : SegCache) : (s.setSeg r c).idtr = s.idtr := rfl
@[simp] theorem State.setSeg_ldtr (s : State) (r : SegReg) (c : SegCache) : (s.setSeg r c).ldtr = s.ldtr := rfl
@[simp] theorem State.setSeg_tr (s : State) (r : SegReg) (c : SegCache) : (s.setSeg r c).tr = s.tr := rfl
@[simp] theorem State.setSeg_cpl (s : State) (r : SegReg) (c : SegCache) : (s.setSeg r c).cpl = s.cpl := rfl
@[simp] theorem State.setSeg_mem (s : State) (r : SegReg) (c : SegCache) : (s.setSeg r c).mem = s.mem := rfl
@[simp] theorem State.setSeg_memMap (s : State) (r : SegReg) (c : SegCache) : (s.setSeg r c).memMap = s.memMap := rfl
@[simp] theorem State.setSeg_tlb (s : State) (r : SegReg) (c : SegCache) : (s.setSeg r c).tlb = s.tlb := rfl
@[simp] theorem State.setSeg_stale (s : State) (r : SegReg) (c : SegCache) : (s.setSeg r c).stale = s.stale := rfl
@[simp] theorem State.setSeg_nmiPending (s : State) (r : SegReg) (c : SegCache) : (s.setSeg r c).nmiPending = s.nmiPending := rfl
@[simp] theorem State.setSeg_nmiInService (s : State) (r : SegReg) (c : SegCache) : (s.setSeg r c).nmiInService = s.nmiInService := rfl
@[simp] theorem State.setSeg_run (s : State) (r : SegReg) (c : SegCache) : (s.setSeg r c).run = s.run := rfl
@[simp] theorem State.setSeg_intr (s : State) (r : SegReg) (c : SegCache) : (s.setSeg r c).intr = s.intr := rfl
@[simp] theorem State.setSeg_dbgPending (s : State) (r : SegReg) (c : SegCache) : (s.setSeg r c).dbgPending = s.dbgPending := rfl
@[simp] theorem State.setSeg_repActive (s : State) (r : SegReg) (c : SegCache) : (s.setSeg r c).repActive = s.repActive := rfl
@[simp] theorem State.setSeg_unrestartable (s : State) (r : SegReg) (c : SegCache) : (s.setSeg r c).unrestartable = s.unrestartable := rfl
@[simp] theorem State.setSeg_ioTrace (s : State) (r : SegReg) (c : SegCache) : (s.setSeg r c).ioTrace = s.ioTrace := rfl
@[simp] theorem State.setSeg_draws (s : State) (r : SegReg) (c : SegCache) : (s.setSeg r c).draws = s.draws := rfl
@[simp] theorem State.setSeg_cur (s : State) (r : SegReg) (c : SegCache) : (s.setSeg r c).cur = s.cur := rfl

@[simp] theorem State.flushTlb_gpr (s : State) : (s.flushTlb).gpr = s.gpr := rfl
@[simp] theorem State.flushTlb_pc (s : State) : (s.flushTlb).pc = s.pc := rfl
@[simp] theorem State.flushTlb_flags (s : State) : (s.flushTlb).flags = s.flags := rfl
@[simp] theorem State.flushTlb_cr0 (s : State) : (s.flushTlb).cr0 = s.cr0 := rfl
@[simp] theorem State.flushTlb_cr2 (s : State) : (s.flushTlb).cr2 = s.cr2 := rfl
@[simp] theorem State.flushTlb_cr3 (s : State) : (s.flushTlb).cr3 = s.cr3 := rfl
@[simp] theorem State.flushTlb_dr0 (s : State) : (s.flushTlb).dr0 = s.dr0 := rfl
@[simp] theorem State.flushTlb_dr1 (s : State) : (s.flushTlb).dr1 = s.dr1 := rfl
@[simp] theorem State.flushTlb_dr2 (s : State) : (s.flushTlb).dr2 = s.dr2 := rfl
@[simp] theorem State.flushTlb_dr3 (s : State) : (s.flushTlb).dr3 = s.dr3 := rfl
@[simp] theorem State.flushTlb_dr6 (s : State) : (s.flushTlb).dr6 = s.dr6 := rfl
@[simp] theorem State.flushTlb_dr7 (s : State) : (s.flushTlb).dr7 = s.dr7 := rfl
@[simp] theorem State.flushTlb_tr6 (s : State) : (s.flushTlb).tr6 = s.tr6 := rfl
@[simp] theorem State.flushTlb_tr7 (s : State) : (s.flushTlb).tr7 = s.tr7 := rfl
@[simp] theorem State.flushTlb_gdtr (s : State) : (s.flushTlb).gdtr = s.gdtr := rfl
@[simp] theorem State.flushTlb_idtr (s : State) : (s.flushTlb).idtr = s.idtr := rfl
@[simp] theorem State.flushTlb_ldtr (s : State) : (s.flushTlb).ldtr = s.ldtr := rfl
@[simp] theorem State.flushTlb_tr (s : State) : (s.flushTlb).tr = s.tr := rfl
@[simp] theorem State.flushTlb_segs (s : State) : (s.flushTlb).segs = s.segs := rfl
@[simp] theorem State.flushTlb_cpl (s : State) : (s.flushTlb).cpl = s.cpl := rfl
@[simp] theorem State.flushTlb_mem (s : State) : (s.flushTlb).mem = s.mem := rfl
@[simp] theorem State.flushTlb_memMap (s : State) : (s.flushTlb).memMap = s.memMap := rfl
@[simp] theorem State.flushTlb_stale (s : State) : (s.flushTlb).stale = s.stale := rfl
@[simp] theorem State.flushTlb_nmiPending (s : State) : (s.flushTlb).nmiPending = s.nmiPending := rfl
@[simp] theorem State.flushTlb_nmiInService (s : State) : (s.flushTlb).nmiInService = s.nmiInService := rfl
@[simp] theorem State.flushTlb_run (s : State) : (s.flushTlb).run = s.run := rfl
@[simp] theorem State.flushTlb_intr (s : State) : (s.flushTlb).intr = s.intr := rfl
@[simp] theorem State.flushTlb_dbgPending (s : State) : (s.flushTlb).dbgPending = s.dbgPending := rfl
@[simp] theorem State.flushTlb_repActive (s : State) : (s.flushTlb).repActive = s.repActive := rfl
@[simp] theorem State.flushTlb_unrestartable (s : State) : (s.flushTlb).unrestartable = s.unrestartable := rfl
@[simp] theorem State.flushTlb_ioTrace (s : State) : (s.flushTlb).ioTrace = s.ioTrace := rfl
@[simp] theorem State.flushTlb_draws (s : State) : (s.flushTlb).draws = s.draws := rfl
@[simp] theorem State.flushTlb_cur (s : State) : (s.flushTlb).cur = s.cur := rfl

@[simp] theorem State.noteStore_gpr (s : State) (p : Nat) (vs : List Byte) : (s.noteStore p vs).gpr = s.gpr := rfl
@[simp] theorem State.noteStore_pc (s : State) (p : Nat) (vs : List Byte) : (s.noteStore p vs).pc = s.pc := rfl
@[simp] theorem State.noteStore_flags (s : State) (p : Nat) (vs : List Byte) : (s.noteStore p vs).flags = s.flags := rfl
@[simp] theorem State.noteStore_cr0 (s : State) (p : Nat) (vs : List Byte) : (s.noteStore p vs).cr0 = s.cr0 := rfl
@[simp] theorem State.noteStore_cr2 (s : State) (p : Nat) (vs : List Byte) : (s.noteStore p vs).cr2 = s.cr2 := rfl
@[simp] theorem State.noteStore_cr3 (s : State) (p : Nat) (vs : List Byte) : (s.noteStore p vs).cr3 = s.cr3 := rfl
@[simp] theorem State.noteStore_dr0 (s : State) (p : Nat) (vs : List Byte) : (s.noteStore p vs).dr0 = s.dr0 := rfl
@[simp] theorem State.noteStore_dr1 (s : State) (p : Nat) (vs : List Byte) : (s.noteStore p vs).dr1 = s.dr1 := rfl
@[simp] theorem State.noteStore_dr2 (s : State) (p : Nat) (vs : List Byte) : (s.noteStore p vs).dr2 = s.dr2 := rfl
@[simp] theorem State.noteStore_dr3 (s : State) (p : Nat) (vs : List Byte) : (s.noteStore p vs).dr3 = s.dr3 := rfl
@[simp] theorem State.noteStore_dr6 (s : State) (p : Nat) (vs : List Byte) : (s.noteStore p vs).dr6 = s.dr6 := rfl
@[simp] theorem State.noteStore_dr7 (s : State) (p : Nat) (vs : List Byte) : (s.noteStore p vs).dr7 = s.dr7 := rfl
@[simp] theorem State.noteStore_tr6 (s : State) (p : Nat) (vs : List Byte) : (s.noteStore p vs).tr6 = s.tr6 := rfl
@[simp] theorem State.noteStore_tr7 (s : State) (p : Nat) (vs : List Byte) : (s.noteStore p vs).tr7 = s.tr7 := rfl
@[simp] theorem State.noteStore_gdtr (s : State) (p : Nat) (vs : List Byte) : (s.noteStore p vs).gdtr = s.gdtr := rfl
@[simp] theorem State.noteStore_idtr (s : State) (p : Nat) (vs : List Byte) : (s.noteStore p vs).idtr = s.idtr := rfl
@[simp] theorem State.noteStore_ldtr (s : State) (p : Nat) (vs : List Byte) : (s.noteStore p vs).ldtr = s.ldtr := rfl
@[simp] theorem State.noteStore_tr (s : State) (p : Nat) (vs : List Byte) : (s.noteStore p vs).tr = s.tr := rfl
@[simp] theorem State.noteStore_segs (s : State) (p : Nat) (vs : List Byte) : (s.noteStore p vs).segs = s.segs := rfl
@[simp] theorem State.noteStore_cpl (s : State) (p : Nat) (vs : List Byte) : (s.noteStore p vs).cpl = s.cpl := rfl
@[simp] theorem State.noteStore_mem (s : State) (p : Nat) (vs : List Byte) : (s.noteStore p vs).mem = s.mem := rfl
@[simp] theorem State.noteStore_memMap (s : State) (p : Nat) (vs : List Byte) : (s.noteStore p vs).memMap = s.memMap := rfl
@[simp] theorem State.noteStore_tlb (s : State) (p : Nat) (vs : List Byte) : (s.noteStore p vs).tlb = s.tlb := rfl
@[simp] theorem State.noteStore_nmiPending (s : State) (p : Nat) (vs : List Byte) : (s.noteStore p vs).nmiPending = s.nmiPending := rfl
@[simp] theorem State.noteStore_nmiInService (s : State) (p : Nat) (vs : List Byte) : (s.noteStore p vs).nmiInService = s.nmiInService := rfl
@[simp] theorem State.noteStore_run (s : State) (p : Nat) (vs : List Byte) : (s.noteStore p vs).run = s.run := rfl
@[simp] theorem State.noteStore_intr (s : State) (p : Nat) (vs : List Byte) : (s.noteStore p vs).intr = s.intr := rfl
@[simp] theorem State.noteStore_dbgPending (s : State) (p : Nat) (vs : List Byte) : (s.noteStore p vs).dbgPending = s.dbgPending := rfl
@[simp] theorem State.noteStore_repActive (s : State) (p : Nat) (vs : List Byte) : (s.noteStore p vs).repActive = s.repActive := rfl
@[simp] theorem State.noteStore_unrestartable (s : State) (p : Nat) (vs : List Byte) : (s.noteStore p vs).unrestartable = s.unrestartable := rfl
@[simp] theorem State.noteStore_ioTrace (s : State) (p : Nat) (vs : List Byte) : (s.noteStore p vs).ioTrace = s.ioTrace := rfl
@[simp] theorem State.noteStore_draws (s : State) (p : Nat) (vs : List Byte) : (s.noteStore p vs).draws = s.draws := rfl
@[simp] theorem State.noteStore_cur (s : State) (p : Nat) (vs : List Byte) : (s.noteStore p vs).cur = s.cur := rfl

@[simp] theorem State.noteData_gpr (s : State) (lin : Word32) (n : Nat) (w : Bool) : (s.noteData lin n w).gpr = s.gpr := rfl
@[simp] theorem State.noteData_pc (s : State) (lin : Word32) (n : Nat) (w : Bool) : (s.noteData lin n w).pc = s.pc := rfl
@[simp] theorem State.noteData_flags (s : State) (lin : Word32) (n : Nat) (w : Bool) : (s.noteData lin n w).flags = s.flags := rfl
@[simp] theorem State.noteData_cr0 (s : State) (lin : Word32) (n : Nat) (w : Bool) : (s.noteData lin n w).cr0 = s.cr0 := rfl
@[simp] theorem State.noteData_cr2 (s : State) (lin : Word32) (n : Nat) (w : Bool) : (s.noteData lin n w).cr2 = s.cr2 := rfl
@[simp] theorem State.noteData_cr3 (s : State) (lin : Word32) (n : Nat) (w : Bool) : (s.noteData lin n w).cr3 = s.cr3 := rfl
@[simp] theorem State.noteData_dr0 (s : State) (lin : Word32) (n : Nat) (w : Bool) : (s.noteData lin n w).dr0 = s.dr0 := rfl
@[simp] theorem State.noteData_dr1 (s : State) (lin : Word32) (n : Nat) (w : Bool) : (s.noteData lin n w).dr1 = s.dr1 := rfl
@[simp] theorem State.noteData_dr2 (s : State) (lin : Word32) (n : Nat) (w : Bool) : (s.noteData lin n w).dr2 = s.dr2 := rfl
@[simp] theorem State.noteData_dr3 (s : State) (lin : Word32) (n : Nat) (w : Bool) : (s.noteData lin n w).dr3 = s.dr3 := rfl
@[simp] theorem State.noteData_dr7 (s : State) (lin : Word32) (n : Nat) (w : Bool) : (s.noteData lin n w).dr7 = s.dr7 := rfl
@[simp] theorem State.noteData_tr6 (s : State) (lin : Word32) (n : Nat) (w : Bool) : (s.noteData lin n w).tr6 = s.tr6 := rfl
@[simp] theorem State.noteData_tr7 (s : State) (lin : Word32) (n : Nat) (w : Bool) : (s.noteData lin n w).tr7 = s.tr7 := rfl
@[simp] theorem State.noteData_gdtr (s : State) (lin : Word32) (n : Nat) (w : Bool) : (s.noteData lin n w).gdtr = s.gdtr := rfl
@[simp] theorem State.noteData_idtr (s : State) (lin : Word32) (n : Nat) (w : Bool) : (s.noteData lin n w).idtr = s.idtr := rfl
@[simp] theorem State.noteData_ldtr (s : State) (lin : Word32) (n : Nat) (w : Bool) : (s.noteData lin n w).ldtr = s.ldtr := rfl
@[simp] theorem State.noteData_tr (s : State) (lin : Word32) (n : Nat) (w : Bool) : (s.noteData lin n w).tr = s.tr := rfl
@[simp] theorem State.noteData_segs (s : State) (lin : Word32) (n : Nat) (w : Bool) : (s.noteData lin n w).segs = s.segs := rfl
@[simp] theorem State.noteData_cpl (s : State) (lin : Word32) (n : Nat) (w : Bool) : (s.noteData lin n w).cpl = s.cpl := rfl
@[simp] theorem State.noteData_mem (s : State) (lin : Word32) (n : Nat) (w : Bool) : (s.noteData lin n w).mem = s.mem := rfl
@[simp] theorem State.noteData_memMap (s : State) (lin : Word32) (n : Nat) (w : Bool) : (s.noteData lin n w).memMap = s.memMap := rfl
@[simp] theorem State.noteData_tlb (s : State) (lin : Word32) (n : Nat) (w : Bool) : (s.noteData lin n w).tlb = s.tlb := rfl
@[simp] theorem State.noteData_stale (s : State) (lin : Word32) (n : Nat) (w : Bool) : (s.noteData lin n w).stale = s.stale := rfl
@[simp] theorem State.noteData_nmiPending (s : State) (lin : Word32) (n : Nat) (w : Bool) : (s.noteData lin n w).nmiPending = s.nmiPending := rfl
@[simp] theorem State.noteData_nmiInService (s : State) (lin : Word32) (n : Nat) (w : Bool) : (s.noteData lin n w).nmiInService = s.nmiInService := rfl
@[simp] theorem State.noteData_run (s : State) (lin : Word32) (n : Nat) (w : Bool) : (s.noteData lin n w).run = s.run := rfl
@[simp] theorem State.noteData_intr (s : State) (lin : Word32) (n : Nat) (w : Bool) : (s.noteData lin n w).intr = s.intr := rfl
@[simp] theorem State.noteData_repActive (s : State) (lin : Word32) (n : Nat) (w : Bool) : (s.noteData lin n w).repActive = s.repActive := rfl
@[simp] theorem State.noteData_unrestartable (s : State) (lin : Word32) (n : Nat) (w : Bool) : (s.noteData lin n w).unrestartable = s.unrestartable := rfl
@[simp] theorem State.noteData_ioTrace (s : State) (lin : Word32) (n : Nat) (w : Bool) : (s.noteData lin n w).ioTrace = s.ioTrace := rfl
@[simp] theorem State.noteData_draws (s : State) (lin : Word32) (n : Nat) (w : Bool) : (s.noteData lin n w).draws = s.draws := rfl
@[simp] theorem State.noteData_cur (s : State) (lin : Word32) (n : Nat) (w : Bool) : (s.noteData lin n w).cur = s.cur := rfl

@[simp] theorem State.keepQueue_gpr (s : State) : (s.keepQueue).gpr = s.gpr := rfl
@[simp] theorem State.keepQueue_pc (s : State) : (s.keepQueue).pc = s.pc := rfl
@[simp] theorem State.keepQueue_flags (s : State) : (s.keepQueue).flags = s.flags := rfl
@[simp] theorem State.keepQueue_cr0 (s : State) : (s.keepQueue).cr0 = s.cr0 := rfl
@[simp] theorem State.keepQueue_cr2 (s : State) : (s.keepQueue).cr2 = s.cr2 := rfl
@[simp] theorem State.keepQueue_cr3 (s : State) : (s.keepQueue).cr3 = s.cr3 := rfl
@[simp] theorem State.keepQueue_dr0 (s : State) : (s.keepQueue).dr0 = s.dr0 := rfl
@[simp] theorem State.keepQueue_dr1 (s : State) : (s.keepQueue).dr1 = s.dr1 := rfl
@[simp] theorem State.keepQueue_dr2 (s : State) : (s.keepQueue).dr2 = s.dr2 := rfl
@[simp] theorem State.keepQueue_dr3 (s : State) : (s.keepQueue).dr3 = s.dr3 := rfl
@[simp] theorem State.keepQueue_dr6 (s : State) : (s.keepQueue).dr6 = s.dr6 := rfl
@[simp] theorem State.keepQueue_dr7 (s : State) : (s.keepQueue).dr7 = s.dr7 := rfl
@[simp] theorem State.keepQueue_tr6 (s : State) : (s.keepQueue).tr6 = s.tr6 := rfl
@[simp] theorem State.keepQueue_tr7 (s : State) : (s.keepQueue).tr7 = s.tr7 := rfl
@[simp] theorem State.keepQueue_gdtr (s : State) : (s.keepQueue).gdtr = s.gdtr := rfl
@[simp] theorem State.keepQueue_idtr (s : State) : (s.keepQueue).idtr = s.idtr := rfl
@[simp] theorem State.keepQueue_ldtr (s : State) : (s.keepQueue).ldtr = s.ldtr := rfl
@[simp] theorem State.keepQueue_tr (s : State) : (s.keepQueue).tr = s.tr := rfl
@[simp] theorem State.keepQueue_segs (s : State) : (s.keepQueue).segs = s.segs := rfl
@[simp] theorem State.keepQueue_cpl (s : State) : (s.keepQueue).cpl = s.cpl := rfl
@[simp] theorem State.keepQueue_mem (s : State) : (s.keepQueue).mem = s.mem := rfl
@[simp] theorem State.keepQueue_memMap (s : State) : (s.keepQueue).memMap = s.memMap := rfl
@[simp] theorem State.keepQueue_tlb (s : State) : (s.keepQueue).tlb = s.tlb := rfl
@[simp] theorem State.keepQueue_nmiPending (s : State) : (s.keepQueue).nmiPending = s.nmiPending := rfl
@[simp] theorem State.keepQueue_nmiInService (s : State) : (s.keepQueue).nmiInService = s.nmiInService := rfl
@[simp] theorem State.keepQueue_run (s : State) : (s.keepQueue).run = s.run := rfl
@[simp] theorem State.keepQueue_intr (s : State) : (s.keepQueue).intr = s.intr := rfl
@[simp] theorem State.keepQueue_dbgPending (s : State) : (s.keepQueue).dbgPending = s.dbgPending := rfl
@[simp] theorem State.keepQueue_repActive (s : State) : (s.keepQueue).repActive = s.repActive := rfl
@[simp] theorem State.keepQueue_unrestartable (s : State) : (s.keepQueue).unrestartable = s.unrestartable := rfl
@[simp] theorem State.keepQueue_ioTrace (s : State) : (s.keepQueue).ioTrace = s.ioTrace := rfl
@[simp] theorem State.keepQueue_draws (s : State) : (s.keepQueue).draws = s.draws := rfl
@[simp] theorem State.keepQueue_cur (s : State) : (s.keepQueue).cur = s.cur := rfl

@[simp] theorem State.settle_gpr (s : State) : (s.settle).gpr = s.gpr := rfl
@[simp] theorem State.settle_pc (s : State) : (s.settle).pc = s.pc := rfl
@[simp] theorem State.settle_flags (s : State) : (s.settle).flags = s.flags := rfl
@[simp] theorem State.settle_cr0 (s : State) : (s.settle).cr0 = s.cr0 := rfl
@[simp] theorem State.settle_cr2 (s : State) : (s.settle).cr2 = s.cr2 := rfl
@[simp] theorem State.settle_cr3 (s : State) : (s.settle).cr3 = s.cr3 := rfl
@[simp] theorem State.settle_dr0 (s : State) : (s.settle).dr0 = s.dr0 := rfl
@[simp] theorem State.settle_dr1 (s : State) : (s.settle).dr1 = s.dr1 := rfl
@[simp] theorem State.settle_dr2 (s : State) : (s.settle).dr2 = s.dr2 := rfl
@[simp] theorem State.settle_dr3 (s : State) : (s.settle).dr3 = s.dr3 := rfl
@[simp] theorem State.settle_dr6 (s : State) : (s.settle).dr6 = s.dr6 := rfl
@[simp] theorem State.settle_dr7 (s : State) : (s.settle).dr7 = s.dr7 := rfl
@[simp] theorem State.settle_tr6 (s : State) : (s.settle).tr6 = s.tr6 := rfl
@[simp] theorem State.settle_tr7 (s : State) : (s.settle).tr7 = s.tr7 := rfl
@[simp] theorem State.settle_gdtr (s : State) : (s.settle).gdtr = s.gdtr := rfl
@[simp] theorem State.settle_idtr (s : State) : (s.settle).idtr = s.idtr := rfl
@[simp] theorem State.settle_ldtr (s : State) : (s.settle).ldtr = s.ldtr := rfl
@[simp] theorem State.settle_tr (s : State) : (s.settle).tr = s.tr := rfl
@[simp] theorem State.settle_segs (s : State) : (s.settle).segs = s.segs := rfl
@[simp] theorem State.settle_cpl (s : State) : (s.settle).cpl = s.cpl := rfl
@[simp] theorem State.settle_mem (s : State) : (s.settle).mem = s.mem := rfl
@[simp] theorem State.settle_memMap (s : State) : (s.settle).memMap = s.memMap := rfl
@[simp] theorem State.settle_tlb (s : State) : (s.settle).tlb = s.tlb := rfl
@[simp] theorem State.settle_nmiPending (s : State) : (s.settle).nmiPending = s.nmiPending := rfl
@[simp] theorem State.settle_nmiInService (s : State) : (s.settle).nmiInService = s.nmiInService := rfl
@[simp] theorem State.settle_run (s : State) : (s.settle).run = s.run := rfl
@[simp] theorem State.settle_intr (s : State) : (s.settle).intr = s.intr := rfl
@[simp] theorem State.settle_dbgPending (s : State) : (s.settle).dbgPending = s.dbgPending := rfl
@[simp] theorem State.settle_unrestartable (s : State) : (s.settle).unrestartable = s.unrestartable := rfl
@[simp] theorem State.settle_ioTrace (s : State) : (s.settle).ioTrace = s.ioTrace := rfl
@[simp] theorem State.settle_draws (s : State) : (s.settle).draws = s.draws := rfl

@[simp] theorem State.complete_gpr (s : State) (tf : Bool) : (s.complete tf).gpr = s.gpr := rfl
@[simp] theorem State.complete_cr0 (s : State) (tf : Bool) : (s.complete tf).cr0 = s.cr0 := rfl
@[simp] theorem State.complete_cr2 (s : State) (tf : Bool) : (s.complete tf).cr2 = s.cr2 := rfl
@[simp] theorem State.complete_cr3 (s : State) (tf : Bool) : (s.complete tf).cr3 = s.cr3 := rfl
@[simp] theorem State.complete_dr0 (s : State) (tf : Bool) : (s.complete tf).dr0 = s.dr0 := rfl
@[simp] theorem State.complete_dr1 (s : State) (tf : Bool) : (s.complete tf).dr1 = s.dr1 := rfl
@[simp] theorem State.complete_dr2 (s : State) (tf : Bool) : (s.complete tf).dr2 = s.dr2 := rfl
@[simp] theorem State.complete_dr3 (s : State) (tf : Bool) : (s.complete tf).dr3 = s.dr3 := rfl
@[simp] theorem State.complete_dr7 (s : State) (tf : Bool) : (s.complete tf).dr7 = s.dr7 := rfl
@[simp] theorem State.complete_tr6 (s : State) (tf : Bool) : (s.complete tf).tr6 = s.tr6 := rfl
@[simp] theorem State.complete_tr7 (s : State) (tf : Bool) : (s.complete tf).tr7 = s.tr7 := rfl
@[simp] theorem State.complete_gdtr (s : State) (tf : Bool) : (s.complete tf).gdtr = s.gdtr := rfl
@[simp] theorem State.complete_idtr (s : State) (tf : Bool) : (s.complete tf).idtr = s.idtr := rfl
@[simp] theorem State.complete_ldtr (s : State) (tf : Bool) : (s.complete tf).ldtr = s.ldtr := rfl
@[simp] theorem State.complete_tr (s : State) (tf : Bool) : (s.complete tf).tr = s.tr := rfl
@[simp] theorem State.complete_segs (s : State) (tf : Bool) : (s.complete tf).segs = s.segs := rfl
@[simp] theorem State.complete_cpl (s : State) (tf : Bool) : (s.complete tf).cpl = s.cpl := rfl
@[simp] theorem State.complete_mem (s : State) (tf : Bool) : (s.complete tf).mem = s.mem := rfl
@[simp] theorem State.complete_memMap (s : State) (tf : Bool) : (s.complete tf).memMap = s.memMap := rfl
@[simp] theorem State.complete_tlb (s : State) (tf : Bool) : (s.complete tf).tlb = s.tlb := rfl
@[simp] theorem State.complete_nmiPending (s : State) (tf : Bool) : (s.complete tf).nmiPending = s.nmiPending := rfl
@[simp] theorem State.complete_nmiInService (s : State) (tf : Bool) : (s.complete tf).nmiInService = s.nmiInService := rfl
@[simp] theorem State.complete_run (s : State) (tf : Bool) : (s.complete tf).run = s.run := rfl
@[simp] theorem State.complete_intr (s : State) (tf : Bool) : (s.complete tf).intr = s.intr := rfl
@[simp] theorem State.complete_unrestartable (s : State) (tf : Bool) : (s.complete tf).unrestartable = s.unrestartable := rfl
@[simp] theorem State.complete_ioTrace (s : State) (tf : Bool) : (s.complete tf).ioTrace = s.ioTrace := rfl
@[simp] theorem State.complete_draws (s : State) (tf : Bool) : (s.complete tf).draws = s.draws := rfl

@[simp] theorem State.begin_gpr (s : State) : (s.begin).gpr = s.gpr := rfl
@[simp] theorem State.begin_pc (s : State) : (s.begin).pc = s.pc := rfl
@[simp] theorem State.begin_flags (s : State) : (s.begin).flags = s.flags := rfl
@[simp] theorem State.begin_cr0 (s : State) : (s.begin).cr0 = s.cr0 := rfl
@[simp] theorem State.begin_cr2 (s : State) : (s.begin).cr2 = s.cr2 := rfl
@[simp] theorem State.begin_cr3 (s : State) : (s.begin).cr3 = s.cr3 := rfl
@[simp] theorem State.begin_dr0 (s : State) : (s.begin).dr0 = s.dr0 := rfl
@[simp] theorem State.begin_dr1 (s : State) : (s.begin).dr1 = s.dr1 := rfl
@[simp] theorem State.begin_dr2 (s : State) : (s.begin).dr2 = s.dr2 := rfl
@[simp] theorem State.begin_dr3 (s : State) : (s.begin).dr3 = s.dr3 := rfl
@[simp] theorem State.begin_dr6 (s : State) : (s.begin).dr6 = s.dr6 := rfl
@[simp] theorem State.begin_dr7 (s : State) : (s.begin).dr7 = s.dr7 := rfl
@[simp] theorem State.begin_tr6 (s : State) : (s.begin).tr6 = s.tr6 := rfl
@[simp] theorem State.begin_tr7 (s : State) : (s.begin).tr7 = s.tr7 := rfl
@[simp] theorem State.begin_gdtr (s : State) : (s.begin).gdtr = s.gdtr := rfl
@[simp] theorem State.begin_idtr (s : State) : (s.begin).idtr = s.idtr := rfl
@[simp] theorem State.begin_ldtr (s : State) : (s.begin).ldtr = s.ldtr := rfl
@[simp] theorem State.begin_tr (s : State) : (s.begin).tr = s.tr := rfl
@[simp] theorem State.begin_segs (s : State) : (s.begin).segs = s.segs := rfl
@[simp] theorem State.begin_cpl (s : State) : (s.begin).cpl = s.cpl := rfl
@[simp] theorem State.begin_mem (s : State) : (s.begin).mem = s.mem := rfl
@[simp] theorem State.begin_memMap (s : State) : (s.begin).memMap = s.memMap := rfl
@[simp] theorem State.begin_tlb (s : State) : (s.begin).tlb = s.tlb := rfl
@[simp] theorem State.begin_stale (s : State) : (s.begin).stale = s.stale := rfl
@[simp] theorem State.begin_nmiPending (s : State) : (s.begin).nmiPending = s.nmiPending := rfl
@[simp] theorem State.begin_nmiInService (s : State) : (s.begin).nmiInService = s.nmiInService := rfl
@[simp] theorem State.begin_run (s : State) : (s.begin).run = s.run := rfl
@[simp] theorem State.begin_intr (s : State) : (s.begin).intr = s.intr := rfl
@[simp] theorem State.begin_dbgPending (s : State) : (s.begin).dbgPending = s.dbgPending := rfl
@[simp] theorem State.begin_repActive (s : State) : (s.begin).repActive = s.repActive := rfl
@[simp] theorem State.begin_unrestartable (s : State) : (s.begin).unrestartable = s.unrestartable := rfl
@[simp] theorem State.begin_ioTrace (s : State) : (s.begin).ioTrace = s.ioTrace := rfl
@[simp] theorem State.begin_draws (s : State) : (s.begin).draws = s.draws := rfl

@[simp] theorem State.noteBreaks_gpr (s : State) : (s.noteBreaks).gpr = s.gpr := rfl
@[simp] theorem State.noteBreaks_pc (s : State) : (s.noteBreaks).pc = s.pc := rfl
@[simp] theorem State.noteBreaks_flags (s : State) : (s.noteBreaks).flags = s.flags := rfl
@[simp] theorem State.noteBreaks_cr0 (s : State) : (s.noteBreaks).cr0 = s.cr0 := rfl
@[simp] theorem State.noteBreaks_cr2 (s : State) : (s.noteBreaks).cr2 = s.cr2 := rfl
@[simp] theorem State.noteBreaks_cr3 (s : State) : (s.noteBreaks).cr3 = s.cr3 := rfl
@[simp] theorem State.noteBreaks_dr0 (s : State) : (s.noteBreaks).dr0 = s.dr0 := rfl
@[simp] theorem State.noteBreaks_dr1 (s : State) : (s.noteBreaks).dr1 = s.dr1 := rfl
@[simp] theorem State.noteBreaks_dr2 (s : State) : (s.noteBreaks).dr2 = s.dr2 := rfl
@[simp] theorem State.noteBreaks_dr3 (s : State) : (s.noteBreaks).dr3 = s.dr3 := rfl
@[simp] theorem State.noteBreaks_dr7 (s : State) : (s.noteBreaks).dr7 = s.dr7 := rfl
@[simp] theorem State.noteBreaks_tr6 (s : State) : (s.noteBreaks).tr6 = s.tr6 := rfl
@[simp] theorem State.noteBreaks_tr7 (s : State) : (s.noteBreaks).tr7 = s.tr7 := rfl
@[simp] theorem State.noteBreaks_gdtr (s : State) : (s.noteBreaks).gdtr = s.gdtr := rfl
@[simp] theorem State.noteBreaks_idtr (s : State) : (s.noteBreaks).idtr = s.idtr := rfl
@[simp] theorem State.noteBreaks_ldtr (s : State) : (s.noteBreaks).ldtr = s.ldtr := rfl
@[simp] theorem State.noteBreaks_tr (s : State) : (s.noteBreaks).tr = s.tr := rfl
@[simp] theorem State.noteBreaks_segs (s : State) : (s.noteBreaks).segs = s.segs := rfl
@[simp] theorem State.noteBreaks_cpl (s : State) : (s.noteBreaks).cpl = s.cpl := rfl
@[simp] theorem State.noteBreaks_mem (s : State) : (s.noteBreaks).mem = s.mem := rfl
@[simp] theorem State.noteBreaks_memMap (s : State) : (s.noteBreaks).memMap = s.memMap := rfl
@[simp] theorem State.noteBreaks_tlb (s : State) : (s.noteBreaks).tlb = s.tlb := rfl
@[simp] theorem State.noteBreaks_stale (s : State) : (s.noteBreaks).stale = s.stale := rfl
@[simp] theorem State.noteBreaks_nmiPending (s : State) : (s.noteBreaks).nmiPending = s.nmiPending := rfl
@[simp] theorem State.noteBreaks_nmiInService (s : State) : (s.noteBreaks).nmiInService = s.nmiInService := rfl
@[simp] theorem State.noteBreaks_run (s : State) : (s.noteBreaks).run = s.run := rfl
@[simp] theorem State.noteBreaks_intr (s : State) : (s.noteBreaks).intr = s.intr := rfl
@[simp] theorem State.noteBreaks_dbgPending (s : State) : (s.noteBreaks).dbgPending = s.dbgPending := rfl
@[simp] theorem State.noteBreaks_repActive (s : State) : (s.noteBreaks).repActive = s.repActive := rfl
@[simp] theorem State.noteBreaks_unrestartable (s : State) : (s.noteBreaks).unrestartable = s.unrestartable := rfl
@[simp] theorem State.noteBreaks_ioTrace (s : State) : (s.noteBreaks).ioTrace = s.ioTrace := rfl
@[simp] theorem State.noteBreaks_draws (s : State) : (s.noteBreaks).draws = s.draws := rfl
@[simp] theorem State.noteBreaks_cur (s : State) : (s.noteBreaks).cur = s.cur := rfl

@[simp] theorem State.takeNmi_gpr (s : State) : (s.takeNmi).gpr = s.gpr := rfl
@[simp] theorem State.takeNmi_pc (s : State) : (s.takeNmi).pc = s.pc := rfl
@[simp] theorem State.takeNmi_flags (s : State) : (s.takeNmi).flags = s.flags := rfl
@[simp] theorem State.takeNmi_cr0 (s : State) : (s.takeNmi).cr0 = s.cr0 := rfl
@[simp] theorem State.takeNmi_cr2 (s : State) : (s.takeNmi).cr2 = s.cr2 := rfl
@[simp] theorem State.takeNmi_cr3 (s : State) : (s.takeNmi).cr3 = s.cr3 := rfl
@[simp] theorem State.takeNmi_dr0 (s : State) : (s.takeNmi).dr0 = s.dr0 := rfl
@[simp] theorem State.takeNmi_dr1 (s : State) : (s.takeNmi).dr1 = s.dr1 := rfl
@[simp] theorem State.takeNmi_dr2 (s : State) : (s.takeNmi).dr2 = s.dr2 := rfl
@[simp] theorem State.takeNmi_dr3 (s : State) : (s.takeNmi).dr3 = s.dr3 := rfl
@[simp] theorem State.takeNmi_dr6 (s : State) : (s.takeNmi).dr6 = s.dr6 := rfl
@[simp] theorem State.takeNmi_dr7 (s : State) : (s.takeNmi).dr7 = s.dr7 := rfl
@[simp] theorem State.takeNmi_tr6 (s : State) : (s.takeNmi).tr6 = s.tr6 := rfl
@[simp] theorem State.takeNmi_tr7 (s : State) : (s.takeNmi).tr7 = s.tr7 := rfl
@[simp] theorem State.takeNmi_gdtr (s : State) : (s.takeNmi).gdtr = s.gdtr := rfl
@[simp] theorem State.takeNmi_idtr (s : State) : (s.takeNmi).idtr = s.idtr := rfl
@[simp] theorem State.takeNmi_ldtr (s : State) : (s.takeNmi).ldtr = s.ldtr := rfl
@[simp] theorem State.takeNmi_tr (s : State) : (s.takeNmi).tr = s.tr := rfl
@[simp] theorem State.takeNmi_segs (s : State) : (s.takeNmi).segs = s.segs := rfl
@[simp] theorem State.takeNmi_cpl (s : State) : (s.takeNmi).cpl = s.cpl := rfl
@[simp] theorem State.takeNmi_mem (s : State) : (s.takeNmi).mem = s.mem := rfl
@[simp] theorem State.takeNmi_memMap (s : State) : (s.takeNmi).memMap = s.memMap := rfl
@[simp] theorem State.takeNmi_tlb (s : State) : (s.takeNmi).tlb = s.tlb := rfl
@[simp] theorem State.takeNmi_stale (s : State) : (s.takeNmi).stale = s.stale := rfl
@[simp] theorem State.takeNmi_run (s : State) : (s.takeNmi).run = s.run := rfl
@[simp] theorem State.takeNmi_intr (s : State) : (s.takeNmi).intr = s.intr := rfl
@[simp] theorem State.takeNmi_dbgPending (s : State) : (s.takeNmi).dbgPending = s.dbgPending := rfl
@[simp] theorem State.takeNmi_repActive (s : State) : (s.takeNmi).repActive = s.repActive := rfl
@[simp] theorem State.takeNmi_unrestartable (s : State) : (s.takeNmi).unrestartable = s.unrestartable := rfl
@[simp] theorem State.takeNmi_ioTrace (s : State) : (s.takeNmi).ioTrace = s.ioTrace := rfl
@[simp] theorem State.takeNmi_draws (s : State) : (s.takeNmi).draws = s.draws := rfl
@[simp] theorem State.takeNmi_cur (s : State) : (s.takeNmi).cur = s.cur := rfl

@[simp] theorem State.withSp_pc (s : State) (v : Word32) : (s.withSp v).pc = s.pc := by unfold State.withSp; split <;> rfl
@[simp] theorem State.withSp_flags (s : State) (v : Word32) : (s.withSp v).flags = s.flags := by unfold State.withSp; split <;> rfl
@[simp] theorem State.withSp_cr0 (s : State) (v : Word32) : (s.withSp v).cr0 = s.cr0 := by unfold State.withSp; split <;> rfl
@[simp] theorem State.withSp_cr2 (s : State) (v : Word32) : (s.withSp v).cr2 = s.cr2 := by unfold State.withSp; split <;> rfl
@[simp] theorem State.withSp_cr3 (s : State) (v : Word32) : (s.withSp v).cr3 = s.cr3 := by unfold State.withSp; split <;> rfl
@[simp] theorem State.withSp_dr0 (s : State) (v : Word32) : (s.withSp v).dr0 = s.dr0 := by unfold State.withSp; split <;> rfl
@[simp] theorem State.withSp_dr1 (s : State) (v : Word32) : (s.withSp v).dr1 = s.dr1 := by unfold State.withSp; split <;> rfl
@[simp] theorem State.withSp_dr2 (s : State) (v : Word32) : (s.withSp v).dr2 = s.dr2 := by unfold State.withSp; split <;> rfl
@[simp] theorem State.withSp_dr3 (s : State) (v : Word32) : (s.withSp v).dr3 = s.dr3 := by unfold State.withSp; split <;> rfl
@[simp] theorem State.withSp_dr6 (s : State) (v : Word32) : (s.withSp v).dr6 = s.dr6 := by unfold State.withSp; split <;> rfl
@[simp] theorem State.withSp_dr7 (s : State) (v : Word32) : (s.withSp v).dr7 = s.dr7 := by unfold State.withSp; split <;> rfl
@[simp] theorem State.withSp_tr6 (s : State) (v : Word32) : (s.withSp v).tr6 = s.tr6 := by unfold State.withSp; split <;> rfl
@[simp] theorem State.withSp_tr7 (s : State) (v : Word32) : (s.withSp v).tr7 = s.tr7 := by unfold State.withSp; split <;> rfl
@[simp] theorem State.withSp_gdtr (s : State) (v : Word32) : (s.withSp v).gdtr = s.gdtr := by unfold State.withSp; split <;> rfl
@[simp] theorem State.withSp_idtr (s : State) (v : Word32) : (s.withSp v).idtr = s.idtr := by unfold State.withSp; split <;> rfl
@[simp] theorem State.withSp_ldtr (s : State) (v : Word32) : (s.withSp v).ldtr = s.ldtr := by unfold State.withSp; split <;> rfl
@[simp] theorem State.withSp_tr (s : State) (v : Word32) : (s.withSp v).tr = s.tr := by unfold State.withSp; split <;> rfl
@[simp] theorem State.withSp_segs (s : State) (v : Word32) : (s.withSp v).segs = s.segs := by unfold State.withSp; split <;> rfl
@[simp] theorem State.withSp_cpl (s : State) (v : Word32) : (s.withSp v).cpl = s.cpl := by unfold State.withSp; split <;> rfl
@[simp] theorem State.withSp_mem (s : State) (v : Word32) : (s.withSp v).mem = s.mem := by unfold State.withSp; split <;> rfl
@[simp] theorem State.withSp_memMap (s : State) (v : Word32) : (s.withSp v).memMap = s.memMap := by unfold State.withSp; split <;> rfl
@[simp] theorem State.withSp_tlb (s : State) (v : Word32) : (s.withSp v).tlb = s.tlb := by unfold State.withSp; split <;> rfl
@[simp] theorem State.withSp_stale (s : State) (v : Word32) : (s.withSp v).stale = s.stale := by unfold State.withSp; split <;> rfl
@[simp] theorem State.withSp_nmiPending (s : State) (v : Word32) : (s.withSp v).nmiPending = s.nmiPending := by unfold State.withSp; split <;> rfl
@[simp] theorem State.withSp_nmiInService (s : State) (v : Word32) : (s.withSp v).nmiInService = s.nmiInService := by unfold State.withSp; split <;> rfl
@[simp] theorem State.withSp_run (s : State) (v : Word32) : (s.withSp v).run = s.run := by unfold State.withSp; split <;> rfl
@[simp] theorem State.withSp_intr (s : State) (v : Word32) : (s.withSp v).intr = s.intr := by unfold State.withSp; split <;> rfl
@[simp] theorem State.withSp_dbgPending (s : State) (v : Word32) : (s.withSp v).dbgPending = s.dbgPending := by unfold State.withSp; split <;> rfl
@[simp] theorem State.withSp_repActive (s : State) (v : Word32) : (s.withSp v).repActive = s.repActive := by unfold State.withSp; split <;> rfl
@[simp] theorem State.withSp_unrestartable (s : State) (v : Word32) : (s.withSp v).unrestartable = s.unrestartable := by unfold State.withSp; split <;> rfl
@[simp] theorem State.withSp_ioTrace (s : State) (v : Word32) : (s.withSp v).ioTrace = s.ioTrace := by unfold State.withSp; split <;> rfl
@[simp] theorem State.withSp_draws (s : State) (v : Word32) : (s.withSp v).draws = s.draws := by unfold State.withSp; split <;> rfl
@[simp] theorem State.withSp_cur (s : State) (v : Word32) : (s.withSp v).cur = s.cur := by unfold State.withSp; split <;> rfl

@[simp] theorem State.withIndexReg_pc (s : State) (r : Reg) (v : Word32) : (s.withIndexReg r v).pc = s.pc := by unfold State.withIndexReg; split <;> rfl
@[simp] theorem State.withIndexReg_flags (s : State) (r : Reg) (v : Word32) : (s.withIndexReg r v).flags = s.flags := by unfold State.withIndexReg; split <;> rfl
@[simp] theorem State.withIndexReg_cr0 (s : State) (r : Reg) (v : Word32) : (s.withIndexReg r v).cr0 = s.cr0 := by unfold State.withIndexReg; split <;> rfl
@[simp] theorem State.withIndexReg_cr2 (s : State) (r : Reg) (v : Word32) : (s.withIndexReg r v).cr2 = s.cr2 := by unfold State.withIndexReg; split <;> rfl
@[simp] theorem State.withIndexReg_cr3 (s : State) (r : Reg) (v : Word32) : (s.withIndexReg r v).cr3 = s.cr3 := by unfold State.withIndexReg; split <;> rfl
@[simp] theorem State.withIndexReg_dr0 (s : State) (r : Reg) (v : Word32) : (s.withIndexReg r v).dr0 = s.dr0 := by unfold State.withIndexReg; split <;> rfl
@[simp] theorem State.withIndexReg_dr1 (s : State) (r : Reg) (v : Word32) : (s.withIndexReg r v).dr1 = s.dr1 := by unfold State.withIndexReg; split <;> rfl
@[simp] theorem State.withIndexReg_dr2 (s : State) (r : Reg) (v : Word32) : (s.withIndexReg r v).dr2 = s.dr2 := by unfold State.withIndexReg; split <;> rfl
@[simp] theorem State.withIndexReg_dr3 (s : State) (r : Reg) (v : Word32) : (s.withIndexReg r v).dr3 = s.dr3 := by unfold State.withIndexReg; split <;> rfl
@[simp] theorem State.withIndexReg_dr6 (s : State) (r : Reg) (v : Word32) : (s.withIndexReg r v).dr6 = s.dr6 := by unfold State.withIndexReg; split <;> rfl
@[simp] theorem State.withIndexReg_dr7 (s : State) (r : Reg) (v : Word32) : (s.withIndexReg r v).dr7 = s.dr7 := by unfold State.withIndexReg; split <;> rfl
@[simp] theorem State.withIndexReg_tr6 (s : State) (r : Reg) (v : Word32) : (s.withIndexReg r v).tr6 = s.tr6 := by unfold State.withIndexReg; split <;> rfl
@[simp] theorem State.withIndexReg_tr7 (s : State) (r : Reg) (v : Word32) : (s.withIndexReg r v).tr7 = s.tr7 := by unfold State.withIndexReg; split <;> rfl
@[simp] theorem State.withIndexReg_gdtr (s : State) (r : Reg) (v : Word32) : (s.withIndexReg r v).gdtr = s.gdtr := by unfold State.withIndexReg; split <;> rfl
@[simp] theorem State.withIndexReg_idtr (s : State) (r : Reg) (v : Word32) : (s.withIndexReg r v).idtr = s.idtr := by unfold State.withIndexReg; split <;> rfl
@[simp] theorem State.withIndexReg_ldtr (s : State) (r : Reg) (v : Word32) : (s.withIndexReg r v).ldtr = s.ldtr := by unfold State.withIndexReg; split <;> rfl
@[simp] theorem State.withIndexReg_tr (s : State) (r : Reg) (v : Word32) : (s.withIndexReg r v).tr = s.tr := by unfold State.withIndexReg; split <;> rfl
@[simp] theorem State.withIndexReg_segs (s : State) (r : Reg) (v : Word32) : (s.withIndexReg r v).segs = s.segs := by unfold State.withIndexReg; split <;> rfl
@[simp] theorem State.withIndexReg_cpl (s : State) (r : Reg) (v : Word32) : (s.withIndexReg r v).cpl = s.cpl := by unfold State.withIndexReg; split <;> rfl
@[simp] theorem State.withIndexReg_mem (s : State) (r : Reg) (v : Word32) : (s.withIndexReg r v).mem = s.mem := by unfold State.withIndexReg; split <;> rfl
@[simp] theorem State.withIndexReg_memMap (s : State) (r : Reg) (v : Word32) : (s.withIndexReg r v).memMap = s.memMap := by unfold State.withIndexReg; split <;> rfl
@[simp] theorem State.withIndexReg_tlb (s : State) (r : Reg) (v : Word32) : (s.withIndexReg r v).tlb = s.tlb := by unfold State.withIndexReg; split <;> rfl
@[simp] theorem State.withIndexReg_stale (s : State) (r : Reg) (v : Word32) : (s.withIndexReg r v).stale = s.stale := by unfold State.withIndexReg; split <;> rfl
@[simp] theorem State.withIndexReg_nmiPending (s : State) (r : Reg) (v : Word32) : (s.withIndexReg r v).nmiPending = s.nmiPending := by unfold State.withIndexReg; split <;> rfl
@[simp] theorem State.withIndexReg_nmiInService (s : State) (r : Reg) (v : Word32) : (s.withIndexReg r v).nmiInService = s.nmiInService := by unfold State.withIndexReg; split <;> rfl
@[simp] theorem State.withIndexReg_run (s : State) (r : Reg) (v : Word32) : (s.withIndexReg r v).run = s.run := by unfold State.withIndexReg; split <;> rfl
@[simp] theorem State.withIndexReg_intr (s : State) (r : Reg) (v : Word32) : (s.withIndexReg r v).intr = s.intr := by unfold State.withIndexReg; split <;> rfl
@[simp] theorem State.withIndexReg_dbgPending (s : State) (r : Reg) (v : Word32) : (s.withIndexReg r v).dbgPending = s.dbgPending := by unfold State.withIndexReg; split <;> rfl
@[simp] theorem State.withIndexReg_repActive (s : State) (r : Reg) (v : Word32) : (s.withIndexReg r v).repActive = s.repActive := by unfold State.withIndexReg; split <;> rfl
@[simp] theorem State.withIndexReg_unrestartable (s : State) (r : Reg) (v : Word32) : (s.withIndexReg r v).unrestartable = s.unrestartable := by unfold State.withIndexReg; split <;> rfl
@[simp] theorem State.withIndexReg_ioTrace (s : State) (r : Reg) (v : Word32) : (s.withIndexReg r v).ioTrace = s.ioTrace := by unfold State.withIndexReg; split <;> rfl
@[simp] theorem State.withIndexReg_draws (s : State) (r : Reg) (v : Word32) : (s.withIndexReg r v).draws = s.draws := by unfold State.withIndexReg; split <;> rfl
@[simp] theorem State.withIndexReg_cur (s : State) (r : Reg) (v : Word32) : (s.withIndexReg r v).cur = s.cur := by unfold State.withIndexReg; split <;> rfl

@[simp] theorem State.withTaskMode_gpr (s : State) (nested : Bool) : (s.withTaskMode nested).gpr = s.gpr := rfl
@[simp] theorem State.withTaskMode_pc (s : State) (nested : Bool) : (s.withTaskMode nested).pc = s.pc := rfl
@[simp] theorem State.withTaskMode_cr0 (s : State) (nested : Bool) : (s.withTaskMode nested).cr0 = s.cr0 := rfl
@[simp] theorem State.withTaskMode_cr2 (s : State) (nested : Bool) : (s.withTaskMode nested).cr2 = s.cr2 := rfl
@[simp] theorem State.withTaskMode_cr3 (s : State) (nested : Bool) : (s.withTaskMode nested).cr3 = s.cr3 := rfl
@[simp] theorem State.withTaskMode_dr0 (s : State) (nested : Bool) : (s.withTaskMode nested).dr0 = s.dr0 := rfl
@[simp] theorem State.withTaskMode_dr1 (s : State) (nested : Bool) : (s.withTaskMode nested).dr1 = s.dr1 := rfl
@[simp] theorem State.withTaskMode_dr2 (s : State) (nested : Bool) : (s.withTaskMode nested).dr2 = s.dr2 := rfl
@[simp] theorem State.withTaskMode_dr3 (s : State) (nested : Bool) : (s.withTaskMode nested).dr3 = s.dr3 := rfl
@[simp] theorem State.withTaskMode_dr6 (s : State) (nested : Bool) : (s.withTaskMode nested).dr6 = s.dr6 := rfl
@[simp] theorem State.withTaskMode_tr6 (s : State) (nested : Bool) : (s.withTaskMode nested).tr6 = s.tr6 := rfl
@[simp] theorem State.withTaskMode_tr7 (s : State) (nested : Bool) : (s.withTaskMode nested).tr7 = s.tr7 := rfl
@[simp] theorem State.withTaskMode_gdtr (s : State) (nested : Bool) : (s.withTaskMode nested).gdtr = s.gdtr := rfl
@[simp] theorem State.withTaskMode_idtr (s : State) (nested : Bool) : (s.withTaskMode nested).idtr = s.idtr := rfl
@[simp] theorem State.withTaskMode_ldtr (s : State) (nested : Bool) : (s.withTaskMode nested).ldtr = s.ldtr := rfl
@[simp] theorem State.withTaskMode_tr (s : State) (nested : Bool) : (s.withTaskMode nested).tr = s.tr := rfl
@[simp] theorem State.withTaskMode_segs (s : State) (nested : Bool) : (s.withTaskMode nested).segs = s.segs := rfl
@[simp] theorem State.withTaskMode_mem (s : State) (nested : Bool) : (s.withTaskMode nested).mem = s.mem := rfl
@[simp] theorem State.withTaskMode_memMap (s : State) (nested : Bool) : (s.withTaskMode nested).memMap = s.memMap := rfl
@[simp] theorem State.withTaskMode_tlb (s : State) (nested : Bool) : (s.withTaskMode nested).tlb = s.tlb := rfl
@[simp] theorem State.withTaskMode_stale (s : State) (nested : Bool) : (s.withTaskMode nested).stale = s.stale := rfl
@[simp] theorem State.withTaskMode_nmiPending (s : State) (nested : Bool) : (s.withTaskMode nested).nmiPending = s.nmiPending := rfl
@[simp] theorem State.withTaskMode_nmiInService (s : State) (nested : Bool) : (s.withTaskMode nested).nmiInService = s.nmiInService := rfl
@[simp] theorem State.withTaskMode_run (s : State) (nested : Bool) : (s.withTaskMode nested).run = s.run := rfl
@[simp] theorem State.withTaskMode_intr (s : State) (nested : Bool) : (s.withTaskMode nested).intr = s.intr := rfl
@[simp] theorem State.withTaskMode_dbgPending (s : State) (nested : Bool) : (s.withTaskMode nested).dbgPending = s.dbgPending := rfl
@[simp] theorem State.withTaskMode_repActive (s : State) (nested : Bool) : (s.withTaskMode nested).repActive = s.repActive := rfl
@[simp] theorem State.withTaskMode_unrestartable (s : State) (nested : Bool) : (s.withTaskMode nested).unrestartable = s.unrestartable := rfl
@[simp] theorem State.withTaskMode_ioTrace (s : State) (nested : Bool) : (s.withTaskMode nested).ioTrace = s.ioTrace := rfl
@[simp] theorem State.withTaskMode_draws (s : State) (nested : Bool) : (s.withTaskMode nested).draws = s.draws := rfl
@[simp] theorem State.withTaskMode_cur (s : State) (nested : Bool) : (s.withTaskMode nested).cur = s.cur := rfl

@[simp] theorem State.noteRestart_gpr (s : State) (t : State) (x : Exc) : (s.noteRestart t x).gpr = s.gpr := by cases x <;> rfl
@[simp] theorem State.noteRestart_pc (s : State) (t : State) (x : Exc) : (s.noteRestart t x).pc = s.pc := by cases x <;> rfl
@[simp] theorem State.noteRestart_flags (s : State) (t : State) (x : Exc) : (s.noteRestart t x).flags = s.flags := by cases x <;> rfl
@[simp] theorem State.noteRestart_cr0 (s : State) (t : State) (x : Exc) : (s.noteRestart t x).cr0 = s.cr0 := by cases x <;> rfl
@[simp] theorem State.noteRestart_cr2 (s : State) (t : State) (x : Exc) : (s.noteRestart t x).cr2 = s.cr2 := by cases x <;> rfl
@[simp] theorem State.noteRestart_cr3 (s : State) (t : State) (x : Exc) : (s.noteRestart t x).cr3 = s.cr3 := by cases x <;> rfl
@[simp] theorem State.noteRestart_dr0 (s : State) (t : State) (x : Exc) : (s.noteRestart t x).dr0 = s.dr0 := by cases x <;> rfl
@[simp] theorem State.noteRestart_dr1 (s : State) (t : State) (x : Exc) : (s.noteRestart t x).dr1 = s.dr1 := by cases x <;> rfl
@[simp] theorem State.noteRestart_dr2 (s : State) (t : State) (x : Exc) : (s.noteRestart t x).dr2 = s.dr2 := by cases x <;> rfl
@[simp] theorem State.noteRestart_dr3 (s : State) (t : State) (x : Exc) : (s.noteRestart t x).dr3 = s.dr3 := by cases x <;> rfl
@[simp] theorem State.noteRestart_dr6 (s : State) (t : State) (x : Exc) : (s.noteRestart t x).dr6 = s.dr6 := by cases x <;> rfl
@[simp] theorem State.noteRestart_dr7 (s : State) (t : State) (x : Exc) : (s.noteRestart t x).dr7 = s.dr7 := by cases x <;> rfl
@[simp] theorem State.noteRestart_tr6 (s : State) (t : State) (x : Exc) : (s.noteRestart t x).tr6 = s.tr6 := by cases x <;> rfl
@[simp] theorem State.noteRestart_tr7 (s : State) (t : State) (x : Exc) : (s.noteRestart t x).tr7 = s.tr7 := by cases x <;> rfl
@[simp] theorem State.noteRestart_gdtr (s : State) (t : State) (x : Exc) : (s.noteRestart t x).gdtr = s.gdtr := by cases x <;> rfl
@[simp] theorem State.noteRestart_idtr (s : State) (t : State) (x : Exc) : (s.noteRestart t x).idtr = s.idtr := by cases x <;> rfl
@[simp] theorem State.noteRestart_ldtr (s : State) (t : State) (x : Exc) : (s.noteRestart t x).ldtr = s.ldtr := by cases x <;> rfl
@[simp] theorem State.noteRestart_tr (s : State) (t : State) (x : Exc) : (s.noteRestart t x).tr = s.tr := by cases x <;> rfl
@[simp] theorem State.noteRestart_segs (s : State) (t : State) (x : Exc) : (s.noteRestart t x).segs = s.segs := by cases x <;> rfl
@[simp] theorem State.noteRestart_cpl (s : State) (t : State) (x : Exc) : (s.noteRestart t x).cpl = s.cpl := by cases x <;> rfl
@[simp] theorem State.noteRestart_mem (s : State) (t : State) (x : Exc) : (s.noteRestart t x).mem = s.mem := by cases x <;> rfl
@[simp] theorem State.noteRestart_memMap (s : State) (t : State) (x : Exc) : (s.noteRestart t x).memMap = s.memMap := by cases x <;> rfl
@[simp] theorem State.noteRestart_tlb (s : State) (t : State) (x : Exc) : (s.noteRestart t x).tlb = s.tlb := by cases x <;> rfl
@[simp] theorem State.noteRestart_stale (s : State) (t : State) (x : Exc) : (s.noteRestart t x).stale = s.stale := by cases x <;> rfl
@[simp] theorem State.noteRestart_nmiPending (s : State) (t : State) (x : Exc) : (s.noteRestart t x).nmiPending = s.nmiPending := by cases x <;> rfl
@[simp] theorem State.noteRestart_nmiInService (s : State) (t : State) (x : Exc) : (s.noteRestart t x).nmiInService = s.nmiInService := by cases x <;> rfl
@[simp] theorem State.noteRestart_run (s : State) (t : State) (x : Exc) : (s.noteRestart t x).run = s.run := by cases x <;> rfl
@[simp] theorem State.noteRestart_intr (s : State) (t : State) (x : Exc) : (s.noteRestart t x).intr = s.intr := by cases x <;> rfl
@[simp] theorem State.noteRestart_dbgPending (s : State) (t : State) (x : Exc) : (s.noteRestart t x).dbgPending = s.dbgPending := by cases x <;> rfl
@[simp] theorem State.noteRestart_repActive (s : State) (t : State) (x : Exc) : (s.noteRestart t x).repActive = s.repActive := by cases x <;> rfl
@[simp] theorem State.noteRestart_ioTrace (s : State) (t : State) (x : Exc) : (s.noteRestart t x).ioTrace = s.ioTrace := by cases x <;> rfl
@[simp] theorem State.noteRestart_draws (s : State) (t : State) (x : Exc) : (s.noteRestart t x).draws = s.draws := by cases x <;> rfl
@[simp] theorem State.noteRestart_cur (s : State) (t : State) (x : Exc) : (s.noteRestart t x).cur = s.cur := by cases x <;> rfl

@[simp] theorem State.noteSizes_gpr (s : State) (i : Instr) : (s.noteSizes i).gpr = s.gpr := by unfold State.noteSizes; split <;> rfl
@[simp] theorem State.noteSizes_pc (s : State) (i : Instr) : (s.noteSizes i).pc = s.pc := by unfold State.noteSizes; split <;> rfl
@[simp] theorem State.noteSizes_flags (s : State) (i : Instr) : (s.noteSizes i).flags = s.flags := by unfold State.noteSizes; split <;> rfl
@[simp] theorem State.noteSizes_cr0 (s : State) (i : Instr) : (s.noteSizes i).cr0 = s.cr0 := by unfold State.noteSizes; split <;> rfl
@[simp] theorem State.noteSizes_cr2 (s : State) (i : Instr) : (s.noteSizes i).cr2 = s.cr2 := by unfold State.noteSizes; split <;> rfl
@[simp] theorem State.noteSizes_cr3 (s : State) (i : Instr) : (s.noteSizes i).cr3 = s.cr3 := by unfold State.noteSizes; split <;> rfl
@[simp] theorem State.noteSizes_dr0 (s : State) (i : Instr) : (s.noteSizes i).dr0 = s.dr0 := by unfold State.noteSizes; split <;> rfl
@[simp] theorem State.noteSizes_dr1 (s : State) (i : Instr) : (s.noteSizes i).dr1 = s.dr1 := by unfold State.noteSizes; split <;> rfl
@[simp] theorem State.noteSizes_dr2 (s : State) (i : Instr) : (s.noteSizes i).dr2 = s.dr2 := by unfold State.noteSizes; split <;> rfl
@[simp] theorem State.noteSizes_dr3 (s : State) (i : Instr) : (s.noteSizes i).dr3 = s.dr3 := by unfold State.noteSizes; split <;> rfl
@[simp] theorem State.noteSizes_dr6 (s : State) (i : Instr) : (s.noteSizes i).dr6 = s.dr6 := by unfold State.noteSizes; split <;> rfl
@[simp] theorem State.noteSizes_dr7 (s : State) (i : Instr) : (s.noteSizes i).dr7 = s.dr7 := by unfold State.noteSizes; split <;> rfl
@[simp] theorem State.noteSizes_tr6 (s : State) (i : Instr) : (s.noteSizes i).tr6 = s.tr6 := by unfold State.noteSizes; split <;> rfl
@[simp] theorem State.noteSizes_tr7 (s : State) (i : Instr) : (s.noteSizes i).tr7 = s.tr7 := by unfold State.noteSizes; split <;> rfl
@[simp] theorem State.noteSizes_gdtr (s : State) (i : Instr) : (s.noteSizes i).gdtr = s.gdtr := by unfold State.noteSizes; split <;> rfl
@[simp] theorem State.noteSizes_idtr (s : State) (i : Instr) : (s.noteSizes i).idtr = s.idtr := by unfold State.noteSizes; split <;> rfl
@[simp] theorem State.noteSizes_ldtr (s : State) (i : Instr) : (s.noteSizes i).ldtr = s.ldtr := by unfold State.noteSizes; split <;> rfl
@[simp] theorem State.noteSizes_tr (s : State) (i : Instr) : (s.noteSizes i).tr = s.tr := by unfold State.noteSizes; split <;> rfl
@[simp] theorem State.noteSizes_segs (s : State) (i : Instr) : (s.noteSizes i).segs = s.segs := by unfold State.noteSizes; split <;> rfl
@[simp] theorem State.noteSizes_cpl (s : State) (i : Instr) : (s.noteSizes i).cpl = s.cpl := by unfold State.noteSizes; split <;> rfl
@[simp] theorem State.noteSizes_mem (s : State) (i : Instr) : (s.noteSizes i).mem = s.mem := by unfold State.noteSizes; split <;> rfl
@[simp] theorem State.noteSizes_memMap (s : State) (i : Instr) : (s.noteSizes i).memMap = s.memMap := by unfold State.noteSizes; split <;> rfl
@[simp] theorem State.noteSizes_tlb (s : State) (i : Instr) : (s.noteSizes i).tlb = s.tlb := by unfold State.noteSizes; split <;> rfl
@[simp] theorem State.noteSizes_stale (s : State) (i : Instr) : (s.noteSizes i).stale = s.stale := by unfold State.noteSizes; split <;> rfl
@[simp] theorem State.noteSizes_nmiPending (s : State) (i : Instr) : (s.noteSizes i).nmiPending = s.nmiPending := by unfold State.noteSizes; split <;> rfl
@[simp] theorem State.noteSizes_nmiInService (s : State) (i : Instr) : (s.noteSizes i).nmiInService = s.nmiInService := by unfold State.noteSizes; split <;> rfl
@[simp] theorem State.noteSizes_run (s : State) (i : Instr) : (s.noteSizes i).run = s.run := by unfold State.noteSizes; split <;> rfl
@[simp] theorem State.noteSizes_intr (s : State) (i : Instr) : (s.noteSizes i).intr = s.intr := by unfold State.noteSizes; split <;> rfl
@[simp] theorem State.noteSizes_dbgPending (s : State) (i : Instr) : (s.noteSizes i).dbgPending = s.dbgPending := by unfold State.noteSizes; split <;> rfl
@[simp] theorem State.noteSizes_repActive (s : State) (i : Instr) : (s.noteSizes i).repActive = s.repActive := by unfold State.noteSizes; split <;> rfl
@[simp] theorem State.noteSizes_unrestartable (s : State) (i : Instr) : (s.noteSizes i).unrestartable = s.unrestartable := by unfold State.noteSizes; split <;> rfl
@[simp] theorem State.noteSizes_ioTrace (s : State) (i : Instr) : (s.noteSizes i).ioTrace = s.ioTrace := by unfold State.noteSizes; split <;> rfl
@[simp] theorem State.noteSizes_draws (s : State) (i : Instr) : (s.noteSizes i).draws = s.draws := by unfold State.noteSizes; split <;> rfl

@[simp] theorem Gprs.get_set_same (g : Gprs) (r : Reg) (v : Word32) : (g.set r v).get r = v := by
  cases r <;> rfl

@[simp] theorem Gprs.get_set_other (g : Gprs) {r q : Reg} (v : Word32) (h : q ≠ r) : (g.set r v).get q = g.get q := by
  cases r <;> cases q <;> first | rfl | exact absurd rfl h

@[simp] theorem Segs.get_set_same (g : Segs) (r : SegReg) (c : SegCache) : (g.set r c).get r = c := by
  cases r <;> rfl

@[simp] theorem Segs.get_set_other (g : Segs) {r q : SegReg} (c : SegCache) (h : q ≠ r) : (g.set r c).get q = g.get q := by
  cases r <;> cases q <;> first | rfl | exact absurd rfl h

/-- Writing a register gives it the value and leaves the others. -/
theorem State.reg_setReg (s : State) (r q : Reg) (v : Word32) :
    (s.setReg r v).reg q = if q = r then v else s.reg q := by
  unfold State.reg State.setReg
  split
  · next h => subst h; exact Gprs.get_set_same ..
  · next h => exact Gprs.get_set_other _ _ h

/-- Writing a segment register gives it the cache and leaves the others. -/
theorem State.seg_setSeg (s : State) (r q : SegReg) (c : SegCache) :
    (s.setSeg r c).seg q = if q = r then c else s.seg q := by
  unfold State.seg State.setSeg
  split
  · next h => subst h; exact Segs.get_set_same ..
  · next h => exact Segs.get_set_other _ _ h

@[simp] theorem State.complete_cur (s : State) (tf : Bool) : (s.complete tf).cur = Latch.idle := rfl

@[simp] theorem State.settle_cur (s : State) : s.settle.cur = Latch.idle := rfl

@[simp] theorem State.begin_cur (s : State) : s.begin.cur = { Latch.idle with npc := s.pc } := rfl

end Sys2Proof.Machine
end

