-- ==== Sys2Proof/Laws/Access.lean ====
section
/-! SUPPORT. What the shared operations over memory and the stack can do: each stays within any relation that allows its few kinds of change, and each is inverted once. -/

namespace Sys2Proof.Machine

/-- A relation that allows every change an access to memory can make. -/
structure AccessRel (R : State → State → Prop) : Prop extends Steps R where
  draws : ∀ s : State, R s { s with draws := s.draws + 1 }
  device : ∀ (s : State) (e : IoEvent), R s { s with ioTrace := e :: s.ioTrace }
  store : ∀ (s : State) (a : Nat) (vs : List Byte), R s { s.noteStore a vs with mem := Memory.setRun s.mem a vs }
  walk : ∀ (s : State) (w : List Host.Cell), R s { s with cur := { s.cur with walk := w } }
  tlb : ∀ (s : State) (t : List TlbEntry), R s { s with tlb := t }
  data : ∀ (s : State) (lin : Word32) (n : Nat) (w : Bool), R s (s.noteData lin n w)

/-- A relation that allows what a push or a pop can do too. -/
structure StackRel (R : State → State → Prop) : Prop extends AccessRel R where
  sp : ∀ (s : State) (v : Word32), R s (s.withSp v)

variable {R : State → State → Prop}

theorem within_draw (h : AccessRel R) : Within R draw := fun s => h.draws s

theorem within_readEvent (h : AccessRel R) (a n : Nat) : Within R (readEvent a n) := by
  intro s
  unfold readEvent
  split
  · exact h.refl s
  · exact h.refl s
  · exact h.device s _
  · exact h.draws s

theorem within_writeEvent (h : AccessRel R) (a : Nat) (bs : List Byte) : Within R (writeEvent a bs) := by
  intro s
  unfold writeEvent
  split
  · exact h.store s a bs
  · exact h.refl s
  · exact h.device s _
  · exact h.refl s

theorem within_readByte (h : AccessRel R) (a : Nat) : Within R (readByte a) :=
  within_bind h.toSteps (within_readEvent h a 1) fun _ => within_pure h.toSteps _

theorem within_writeByte (h : AccessRel R) (a : Nat) (v : Byte) : Within R (writeByte a v) := within_writeEvent h a _

theorem within_readBytesFrom (h : AccessRel R) (as : List Nat) (held : List Byte) : Within R (readBytesFrom as held) := by
  induction as generalizing held with
  | nil => exact within_pure h.toSteps _
  | cons a as ih =>
    cases held with
    | cons b held => exact within_bind h.toSteps (ih held) fun _ => within_pure h.toSteps _
    | nil =>
      exact within_bind h.toSteps (within_get h.toSteps) fun _ => within_bind h.toSteps (within_readEvent h _ _) fun w =>
        within_bind h.toSteps (ih _) fun _ => within_pure h.toSteps _

theorem within_readBytes (h : AccessRel R) (as : List Nat) : Within R (readBytes as) := within_readBytesFrom h as []

theorem within_writeBytesFrom (h : AccessRel R) (as : List Nat) (bs : List Byte) (k : Nat) :
    Within R (writeBytesFrom as bs k) := by
  induction as generalizing bs k with
  | nil => exact within_pure h.toSteps _
  | cons a as ih =>
    cases bs with
    | nil => exact within_pure h.toSteps _
    | cons b bs =>
      cases k with
      | succ k => exact ih bs k
      | zero =>
        exact within_bind h.toSteps (within_get h.toSteps) fun _ =>
          within_bind h.toSteps (within_writeEvent h _ _) fun _ => ih bs _

theorem within_writeBytes (h : AccessRel R) (as : List Nat) (bs : List Byte) : Within R (writeBytes as bs) :=
  within_writeBytesFrom h as bs 0

theorem within_physRead32 (h : AccessRel R) (a : Nat) : Within R (physRead32 a) :=
  within_bind h.toSteps (within_readBytes h _) fun _ => within_pure h.toSteps _

/-- The bits that are chosen are among the listed ones, and without any there is no choice. -/
theorem anyOf_eq_ok {mask u : Byte} {s t : State} (h : anyOf mask s = .ok u t) :
    u &&& ~~~mask = 0 ∧ t = if mask = 0 then s else { s with draws := s.draws + 1 } := by
  unfold anyOf at h
  split at h
  · next hm => cases h; exact ⟨BitVec.zero_and, by rw [if_pos hm]⟩
  · next hm => cases h; exact ⟨by simp [BitVec.and_assoc], by rw [if_neg hm]⟩

theorem within_anyOf (h : AccessRel R) (mask : Byte) : Within R (anyOf mask) :=
  within_ite (within_pure h.toSteps _) (within_bind h.toSteps (within_draw h) fun _ => within_pure h.toSteps _)

theorem within_setWalkBits (h : AccessRel R) (a : Nat) (bits loose : Byte) : Within R (setWalkBits a bits loose) :=
  within_bind h.toSteps (within_readByte h a) fun _ =>
    within_ite (within_pure h.toSteps _)
      (within_bind h.toSteps (within_anyOf h _) fun _ =>
        within_bind h.toSteps (within_writeByte h _ _) fun _ => within_update fun s => by
          unfold State.noteWalk
          split
          · exact h.walk s _
          · exact h.refl s)

theorem within_raisePageFault (h : AccessRel R) {α : Type} (lin : Word32) (p w u : Bool) :
    Within R (raisePageFault lin p w u : M α) :=
  within_bind h.toSteps (within_draw h) fun _ => within_raise h.toSteps _

theorem within_checkRights (h : AccessRel R) (r : BitVec 2) (lin : Word32) (w u : Bool) :
    Within R (checkRights r lin w u) :=
  within_ite (within_raisePageFault h _ _ _ _) (within_pure h.toSteps _)

theorem within_fillTlb (h : AccessRel R) (e : TlbEntry) : Within R (fillTlb e) :=
  within_bind h.toSteps (within_get h.toSteps) fun _ => within_ite (within_update fun s => h.tlb s _)
    (within_bind h.toSteps (within_draw h) fun _ => within_update fun s => h.tlb s _)

theorem tlbFits_iff (tlb : List TlbEntry) :
    tlbFits tlb = true ↔ ∀ k : BitVec 3, (tlb.filter fun e => tlbSet e.page == k).length ≤ 4 := by
  unfold tlbFits
  rw [List.all_eq_true]
  refine ⟨fun h k => ?_, fun h n _ => decide_eq_true (h _)⟩
  have := h k.toNat (List.mem_range.2 k.isLt)
  simpa using this

/-- Filling the TLB leaves no set with more than four entries. -/
theorem fillTlb_fits {e : TlbEntry} {s t : State} (h : fillTlb e s = .ok () t) (hs : tlbFits s.tlb = true) :
    tlbFits t.tlb = true := by
  rw [tlbFits_iff] at hs ⊢
  intro k
  have sub (l : List TlbEntry) (hl : l.Sublist s.tlb) :
      (l.filter fun x => tlbSet x.page == k).length ≤ 4 :=
    Nat.le_trans (hl.filter _).length_le (hs k)
  unfold fillTlb at h
  simp only [bind_apply, get_apply] at h
  split at h
  · next hn =>
    simp only [update_apply, EStateM.Result.ok.injEq, true_and] at h
    subst h
    rw [List.filter_cons]
    split
    · next hk =>
      have : tlbSet e.page = k := by simpa using hk
      subst this
      exact Nat.succ_le_of_lt hn
    · exact sub _ List.filter_sublist
  · simp only [bind_apply, draw_apply, update_apply, EStateM.Result.ok.injEq, true_and] at h
    subst h
    rw [List.filter_cons, List.filter_append]
    split
    · next hk =>
      have : tlbSet e.page = k := by simpa using hk
      subst this
      have hr : ∀ l : List TlbEntry, ((l.filter fun x => tlbSet x.page != tlbSet e.page).filter
          fun x => tlbSet x.page == tlbSet e.page) = [] := fun l => by simp [List.filter_eq_nil_iff]
      rw [List.length_cons, List.length_append, hr]
      exact Nat.succ_le_succ (Nat.le_trans (List.length_filter_le _ _) (List.length_take_le 3 _))
    · next hk =>
      rw [List.filter_eq_nil_iff.2]
      · exact sub _ (List.filter_sublist.trans List.filter_sublist)
      · intro x hx hx'
        have hx := (List.mem_filter.1 (List.mem_of_mem_eraseIdx (List.mem_of_mem_take hx))).2
        simp only [beq_iff_eq] at hx hx' hk
        exact hk (by rw [← hx, hx'])

theorem within_walkTables (h : AccessRel R) (lin : Word32) (w u : Bool) : Within R (walkTables lin w u) := by
  have hs := h.toSteps
  unfold walkTables
  refine within_bind hs (within_reads hs _) fun pdeA => within_bind hs (within_physRead32 h _) fun pde =>
    within_ite (within_raisePageFault h _ _ _ _) (within_bind hs (within_setWalkBits h _ _ _) fun _ =>
      within_bind hs (within_physRead32 h _) fun pte => within_ite (within_raisePageFault h _ _ _ _) ?_)
  exact within_bind hs (within_checkRights h _ _ _ _) fun _ => within_bind hs (within_setWalkBits h _ _ _) fun _ =>
    within_bind hs (within_fillTlb h _) fun _ => within_pure hs _

theorem within_translate (h : AccessRel R) (lin : Word32) (w u : Bool) : Within R (translate lin w u) := by
  have hs := h.toSteps
  unfold translate
  refine within_bind hs (within_get hs) fun s => within_ite (within_pure hs _) ?_
  cases s.tlbFind lin with
  | none => exact within_bind hs (within_walkTables h _ _ _) fun _ => within_pure hs _
  | some e =>
    have k : ∀ d : Word32, Within R (if (w && !e.dirty || bitAt d 0) = true then (do
          let e' ← walkTables lin w u
          pure (frameAddress e'.frame lin))
        else (do
          checkRights e.rights lin w u
          pure (frameAddress e.frame lin)) : M Nat) := fun d =>
      within_ite (within_bind hs (within_walkTables h _ _ _) fun _ => within_pure hs _)
        (within_bind hs (within_checkRights h _ _ _ _) fun _ => within_pure hs _)
    exact within_ite (within_bind hs (within_pure hs _) k) (within_bind hs (within_draw h) k)

theorem within_physicalBytes (h : AccessRel R) (lin : Word32) (n : Nat) (w u : Bool) :
    Within R (physicalBytes lin n w u) := by
  have hs := h.toSteps
  exact within_bind hs (within_translate h _ _ _) fun p => within_ite (within_pure hs _)
    (within_bind hs (within_translate h _ _ _) fun q => within_pure hs _)

theorem within_linRead (h : AccessRel R) (lin : Word32) (n : Nat) (u : Bool) : Within R (linRead lin n u) :=
  within_bind h.toSteps (within_physicalBytes h _ _ _ _) fun _ =>
    within_bind h.toSteps (within_readBytes h _) fun _ => within_pure h.toSteps _

theorem within_linWrite (h : AccessRel R) (lin : Word32) (n v : Nat) (u : Bool) : Within R (linWrite lin n v u) :=
  within_bind h.toSteps (within_physicalBytes h _ _ _ _) fun _ => within_writeBytes h _ _

theorem within_sysRead (h : AccessRel R) (lin : Word32) (n : Nat) : Within R (sysRead lin n) := within_linRead h _ _ _

theorem within_sysWrite (h : AccessRel R) (lin : Word32) (n v : Nat) : Within R (sysWrite lin n v) :=
  within_linWrite h _ _ _ _

theorem within_linear (h : Steps R) (r : SegReg) (off : Word32) (n : Nat) (k : Access) : Within R (linear r off n k) := by
  intro s
  unfold linear
  split <;> exact h.refl s

theorem within_dataAddresses (h : AccessRel R) (r : SegReg) (off : Word32) (n : Nat) (w : Bool) :
    Within R (dataAddresses r off n w) := by
  have hs := h.toSteps
  exact within_bind hs (within_linear hs _ _ _ _) fun lin => within_bind hs (within_reads hs _) fun u =>
    within_bind hs (within_physicalBytes h _ _ _ _) fun ps =>
      within_bind hs (within_update fun s => h.data s _ _ _) fun _ => within_pure hs _

theorem within_segRead (h : AccessRel R) (r : SegReg) (off : Word32) (n : Nat) : Within R (segRead r off n) :=
  within_bind h.toSteps (within_dataAddresses h _ _ _ _) fun _ =>
    within_bind h.toSteps (within_readBytes h _) fun _ => within_pure h.toSteps _

theorem within_segWrite (h : AccessRel R) (r : SegReg) (off : Word32) (n v : Nat) : Within R (segWrite r off n v) :=
  within_bind h.toSteps (within_dataAddresses h _ _ _ _) fun _ => within_writeBytes h _ _

theorem within_segProbe (h : AccessRel R) (r : SegReg) (off : Word32) (n : Nat) (w : Bool) :
    Within R (segProbe r off n w) := by
  have hs := h.toSteps
  exact within_bind hs (within_linear hs _ _ _ _) fun lin => within_bind hs (within_reads hs _) fun u =>
    within_bind hs (within_physicalBytes h _ _ _ _) fun ps => within_pure hs _

theorem within_push (h : StackRel R) (n v : Nat) : Within R (push n v) := by
  have hs := h.toSteps
  exact within_bind hs (within_get hs) fun s => within_bind hs (within_raiseIf hs _ _) fun _ =>
    within_bind hs (within_segWrite h.toAccessRel _ _ _ _) fun _ => within_update fun s => h.sp s _

theorem within_probePushes (h : AccessRel R) (n count : Nat) (sp : Word32) : Within R (probePushes n count sp) := by
  have hs := h.toSteps
  induction count generalizing sp with
  | zero => exact within_pure hs _
  | succ k ih =>
    exact within_bind hs (within_get hs) fun _ => within_bind hs (within_raiseIf hs _ _) fun _ =>
      within_bind hs (within_segProbe h _ _ _ _) fun _ => ih _

theorem within_pushAll (h : StackRel R) (n : Nat) (vs : List Nat) : Within R (pushAll n vs) := by
  induction vs with
  | nil => exact within_pure h.toSteps _
  | cons v vs ih => exact within_bind h.toSteps (within_push h n v) fun _ => ih

theorem within_pop (h : StackRel R) (n : Nat) : Within R (pop n) := by
  have hs := h.toSteps
  exact within_bind hs (within_get hs) fun s => within_bind hs (within_segRead h.toAccessRel _ _ _) fun v =>
    within_bind hs (within_update fun s => h.sp s _) fun _ => within_pure hs _

theorem within_stackRead (h : AccessRel R) (d n : Nat) : Within R (stackRead d n) :=
  within_bind h.toSteps (within_get h.toSteps) fun _ => within_segRead h _ _ _

/-- What `linear` does: the checks of the segment, and the base added. -/
theorem linear_eq_ok {r : SegReg} {off : Word32} {n : Nat} {k : Access} {s t : State} {lin : Word32} :
    linear r off n k s = .ok lin t ↔ s.segFault r off n k = none ∧ lin = (s.seg r).base + off ∧ t = s := by
  unfold linear
  split
  · next e h => simp [h]
  · next h => simp [h, eq_comm]

/-- What `translate` does with paging off: a linear address is physical. -/
theorem translate_of_not_pg {s : State} (h : s.cr0.pg = false) (lin : Word32) (w u : Bool) :
    translate lin w u s = .ok lin.toNat s := by
  simp [translate, bind_apply, h]

/-- The physical addresses of an access with paging off: they follow each other modulo 2^32. -/
theorem physicalBytes_of_not_pg {s : State} (h : s.cr0.pg = false) (lin : Word32) (n : Nat) (w u : Bool) :
    physicalBytes lin n w u s =
      .ok (if n ≤ 4096 - lin.toNat % 4096 then (List.range n).map (lin.toNat + ·)
        else (List.range (4096 - lin.toNat % 4096)).map (lin.toNat + ·) ++
          (List.range (n - (4096 - lin.toNat % 4096))).map
            ((lin + BitVec.ofNat 32 (4096 - lin.toNat % 4096)).toNat + ·)) s := by
  unfold physicalBytes
  rw [bind_of_ok (translate_of_not_pg h lin w u)]
  split
  · rfl
  · rw [bind_of_ok (translate_of_not_pg h _ w u)]; rfl

/-- The bytes of one bus event follow each other, and there is at least one. -/
theorem eventSize_cons (s : State) (a : Nat) (as : List Nat) :
    ∃ k, s.eventSize (a :: as) = k + 1 ∧ (a :: as).take (k + 1) = (List.range (k + 1)).map (a + ·) := by
  unfold State.eventSize
  split
  · next h => exact ⟨3, rfl, by simp only [State.isUnit, Bool.and_eq_true, beq_iff_eq] at h; exact h.1.2⟩
  · split
    · next h => exact ⟨1, rfl, by simp only [State.isUnit, Bool.and_eq_true, beq_iff_eq] at h; exact h.1.2⟩
    · exact ⟨0, rfl, rfl⟩

/-- What `readEvent` does on RAM and ROM. -/
theorem readEvent_of_memory {s : State} {a : Nat} (h : s.kindAt a = .ram ∨ s.kindAt a = .rom) (n : Nat) :
    readEvent a n s = .ok ((List.range n).map fun k => Memory.get s.mem (a + k)) s := by
  unfold readEvent
  rcases h with h1 | h1 <;> simp [h1]

/-- What `readBytes` does on RAM and ROM: it reads memory and changes nothing. -/
theorem readBytes_of_memory {s : State} {as : List Nat}
    (h : ∀ a ∈ as, s.kindAt a = .ram ∨ s.kindAt a = .rom) : readBytes as s = .ok (as.map (Memory.get s.mem)) s := by
  have k : ∀ n, readBytesFrom as ((as.take n).map (Memory.get s.mem)) s = .ok (as.map (Memory.get s.mem)) s := by
    induction as with
    | nil => intro n; simp [readBytesFrom]
    | cons a as ih =>
      have ih := ih fun b hb => h b (List.mem_cons_of_mem _ hb)
      intro n
      cases n with
      | succ n =>
        rw [List.take_succ_cons, List.map_cons, readBytesFrom, bind_of_ok (ih n)]
        rfl
      | zero =>
        obtain ⟨j, hj, hr⟩ := eventSize_cons s a as
        have hw : (List.range (j + 1)).map (fun k => Memory.get s.mem (a + k)) =
            Memory.get s.mem a :: (as.take j).map (Memory.get s.mem) := by
          rw [← List.map_cons, ← List.take_succ_cons, hr, List.map_map]; rfl
        rw [List.take_zero, List.map_nil, readBytesFrom, bind_of_ok (get_apply s), hj,
          bind_of_ok (readEvent_of_memory (h a (List.mem_cons_self ..)) _), hw, List.tail_cons, bind_of_ok (ih j)]
        rfl
  exact k 0

/-- The memory after bytes are written at addresses. -/
def Memory.setAll : Memory → List Nat → List Byte → Memory
  | m, a :: as, b :: bs => Memory.setAll (Memory.set m a b) as bs
  | m, [], _ => m
  | m, _ :: _, [] => m

theorem Memory.wf_setAll {m : Memory} (h : Memory.wf m = true) (as : List Nat) (bs : List Byte) :
    Memory.wf (Memory.setAll m as bs) = true := by
  induction as generalizing m bs with
  | nil => cases bs <;> exact h
  | cons a as ih =>
    cases bs with
    | nil => exact h
    | cons b bs => exact ih (Memory.wf_set h a b) bs

/-- An address that is not written keeps its byte. -/
theorem Memory.get_setAll_other (m : Memory) {as : List Nat} {x : Nat} (bs : List Byte) (h : x ∉ as) :
    Memory.get (Memory.setAll m as bs) x = Memory.get m x := by
  induction as generalizing m bs with
  | nil => cases bs <;> rfl
  | cons a as ih =>
    cases bs with
    | nil => rfl
    | cons b bs =>
      simp only [List.mem_cons, not_or] at h
      rw [Memory.setAll, ih _ _ h.2, Memory.get_set_other _ _ h.1]

/-- The bytes written at distinct addresses are read back. -/
theorem Memory.map_get_setAll {m : Memory} (hm : Memory.wf m = true) {as : List Nat} {bs : List Byte}
    (hd : as.Nodup) (hl : as.length = bs.length) : as.map (Memory.get (Memory.setAll m as bs)) = bs := by
  induction as generalizing m bs with
  | nil =>
    cases bs with
    | nil => rfl
    | cons b bs => simp at hl
  | cons a as ih =>
    cases bs with
    | nil => simp at hl
    | cons b bs =>
      simp only [List.nodup_cons] at hd
      simp only [List.length_cons, Nat.add_right_cancel_iff] at hl
      simp only [List.map_cons, Memory.setAll]
      rw [ih (Memory.wf_set hm a b) hd.2 hl, Memory.get_setAll_other _ _ hd.1, Memory.get_set_same hm]

/-- Writing at addresses can be cut in two. -/
theorem Memory.setAll_take_drop (m : Memory) (as : List Nat) (bs : List Byte) (n : Nat) :
    Memory.setAll (Memory.setAll m (as.take n) (bs.take n)) (as.drop n) (bs.drop n) = Memory.setAll m as bs := by
  induction n generalizing m as bs with
  | zero => rfl
  | succ n ih =>
    cases as with
    | nil => cases bs <;> rfl
    | cons a as =>
      cases bs with
      | nil => cases h : (a :: as).drop (n + 1) <;> rfl
      | cons b bs => exact ih _ as bs

/-- Writing a run of bytes is writing them at consecutive addresses. -/
theorem Memory.setAll_range (m : Memory) (a n : Nat) {bs : List Byte} (h : bs.length ≤ n) :
    Memory.setAll m ((List.range n).map (a + ·)) bs = Memory.setRun m a bs := by
  induction bs generalizing m a n with
  | nil => cases (List.range n).map (a + ·) <;> rfl
  | cons b bs ih =>
    cases n with
    | zero => simp at h
    | succ n =>
      have hr : (List.range (n + 1)).map (a + ·) = a :: (List.range n).map (a + 1 + ·) := by
        rw [List.range_succ_eq_map, List.map_cons, List.map_map]
        simp [Function.comp_def, Nat.add_assoc, Nat.add_comm 1]
      rw [hr]
      exact ih _ _ _ (by simpa using h)

/-- What `writeEvent` does on RAM. -/
theorem writeEvent_of_ram {s : State} {a : Nat} (h : s.kindAt a = .ram) (bs : List Byte) :
    writeEvent a bs s = .ok () { s.noteStore a bs with mem := Memory.setRun s.mem a bs } := by
  unfold writeEvent
  simp [h]

/-- What `writeBytes` does on RAM: the memory, and nothing else but the note of what the prefetch queue may hold. -/
theorem writeBytes_of_ram {s : State} {as : List Nat} (h : ∀ a ∈ as, s.kindAt a = .ram) (bs : List Byte) :
    ∃ q, writeBytes as bs s = .ok () { s with mem := Memory.setAll s.mem as bs, stale := q } := by
  have k : ∀ n, ∃ q, writeBytesFrom as bs n s =
      .ok () { s with mem := Memory.setAll s.mem (as.drop n) (bs.drop n), stale := q } := by
    induction as generalizing s bs with
    | nil => intro n; exact ⟨s.stale, by cases bs <;> cases n <;> simp [writeBytesFrom, Memory.setAll]⟩
    | cons a as ih =>
      intro n
      cases bs with
      | nil => exact ⟨s.stale, by cases n <;> cases h : List.drop _ (a :: as) <;> simp [writeBytesFrom, Memory.setAll]⟩
      | cons b bs =>
        cases n with
        | succ n => exact ih (fun x hx => h x (List.mem_cons_of_mem _ hx)) bs n
        | zero =>
          obtain ⟨j, hj, hr⟩ := eventSize_cons s a as
          have hs : Memory.setRun s.mem a ((b :: bs).take (j + 1)) =
              Memory.setAll s.mem ((a :: as).take (j + 1)) ((b :: bs).take (j + 1)) := by
            rw [hr, Memory.setAll_range _ _ _ (List.length_take_le _ _)]
          rw [writeBytesFrom, bind_of_ok (get_apply s), hj, bind_of_ok (writeEvent_of_ram (h a (List.mem_cons_self ..)) _)]
          obtain ⟨q, hq⟩ := ih (s := { s.noteStore a ((b :: bs).take (j + 1)) with
              mem := Memory.setRun s.mem a ((b :: bs).take (j + 1)) })
            (fun x hx => h x (List.mem_cons_of_mem _ hx)) bs j
          refine ⟨q, ?_⟩
          rw [Nat.add_sub_cancel, hq, ← Memory.setAll_take_drop s.mem (List.drop 0 (a :: as)) (List.drop 0 (b :: bs)) (j + 1)]
          rw [List.drop_zero, List.drop_zero, hs]
          rfl
  exact k 0

end Sys2Proof.Machine
end

