-- ==== Sys2Proof/Laws/Descriptors.lean ====
section
/-! SUPPORT. What the shared operations over descriptors can do, and that nothing but LAR depends on the reserved bits of a descriptor, and nothing on those of a page entry. -/

namespace Sys2Proof.Machine

/-- The inner stack's descriptor is the one its selector names, if it fits the level. -/
theorem innerStackSegment_eq_ok {sel : Word16} {level : BitVec 2} {d : Desc} {s t : State} :
    innerStackSegment sel level s = .ok d t ↔ readDesc sel .gp s = .ok d t ∧ StackFits sel d level := by
  unfold innerStackSegment checkStackDesc
  rw [raiseIf_bind_eq_ok, bind_eq_ok]
  simp only [raiseIf_bind_eq_ok, pure_apply, StackFits, Bool.not_eq_eq_eq_not, Bool.not_false, Bool.and_eq_true, beq_iff_eq]
  constructor
  · rintro ⟨hn, d', u, hd, ⟨⟨hw, hr⟩, hl⟩, hp, ⟨⟩⟩
    exact ⟨hd, hn, hw, hr, hl, hp⟩
  · rintro ⟨hd, hn, hw, hr, hl, hp⟩
    exact ⟨hn, d, t, hd, ⟨⟨hw, hr⟩, hl⟩, hp, rfl⟩

/-! ### Reserved bits -/

/-- `v` with its bits under the mask `m` replaced by those of `u`. -/
def mergeBits {w : Nat} (v u m : BitVec w) : BitVec w := (v &&& ~~~m) ||| (u &&& m)

theorem bitAt_mergeBits {w : Nat} (v u m : BitVec w) (i : Nat) (h : m.getLsbD i = false) :
    bitAt (mergeBits v u m) i = bitAt v i := by
  simpa [mergeBits, bitAt, h] using BitVec.lt_of_getLsbD

theorem extract_mergeBits {w : Nat} (v u m : BitVec w) (i n : Nat) (h : ∀ k < n, m.getLsbD (i + k) = false) :
    (mergeBits v u m).extractLsb' i n = v.extractLsb' i n := by
  ext k hk
  simpa [hk, bitAt] using bitAt_mergeBits v u m (i + k) (h k hk)

/-- The reserved bits of a descriptor: byte 6 bit 5, and of a gate byte 4 bits 7 to 5 (21_segmentation_protection.md R161,
R179). -/
def Desc.reserved (d : Desc) : BitVec 64 := if d.isGate then 0x000000E000000000 else 0x0020000000000000

/-- What a segment register, LDTR or TR takes from a descriptor, its access byte too, does not depend on its reserved bit. -/
theorem Desc.cache_ignores_reserved (d u : Desc) (sel : Word16) (h : d.isGate = false) :
    Desc.cache (mergeBits d u d.reserved) sel = d.cache sel
      ∧ (mergeBits d u d.reserved).extractLsb' 40 8 = (d.extractLsb' 40 8 : Byte) := by
  have b := bitAt_mergeBits d u d.reserved
  have e := extract_mergeBits d u d.reserved
  simp only [Desc.reserved, h, Bool.false_eq_true, if_false] at b e ⊢
  simp only [Desc.cache, Desc.base, Desc.limit, Desc.isReadable, Desc.isWritable, Desc.isCode, Desc.isData, Desc.isSegment,
    Desc.isConforming, Desc.dpl, b 41 (by decide), b 42 (by decide), b 43 (by decide), b 44 (by decide), b 54 (by decide),
    b 55 (by decide), e 0 16 (by decide), e 16 24 (by decide), e 40 8 (by decide), e 45 2 (by decide), e 48 4 (by decide),
    e 56 8 (by decide), and_self]

/-- What a gate gives, its access byte too, does not depend on its reserved bits. -/
theorem Desc.gate_ignores_reserved (d u : Desc) (is386 : Bool) (h : d.isGate = true) :
    Desc.gateSelector (mergeBits d u d.reserved) = d.gateSelector
      ∧ Desc.gateOffset (mergeBits d u d.reserved) is386 = d.gateOffset is386
      ∧ Desc.gateCount (mergeBits d u d.reserved) = d.gateCount
      ∧ (mergeBits d u d.reserved).extractLsb' 40 8 = (d.extractLsb' 40 8 : Byte) := by
  have e := extract_mergeBits d u d.reserved
  simp only [Desc.reserved, h, if_true] at e ⊢
  simp only [Desc.gateSelector, Desc.gateOffset, Desc.gateCount, e 0 16 (by decide), e 16 16 (by decide), e 32 5 (by decide),
    e 40 8 (by decide), e 48 16 (by decide), and_self]

/-- The reserved bits 3, 4, 7 and 8 of a page entry (22_paging.md R237). -/
def reservedOfEntry : Word32 := 0x198

/-- What a page walk reads in an entry, the address, the rights, P, A and D, does not depend on its reserved bits. -/
theorem entry_ignores_reserved (e u : Word32) :
    pageOf (mergeBits e u reservedOfEntry) = pageOf e
      ∧ (mergeBits e u reservedOfEntry).extractLsb' 1 2 = (e.extractLsb' 1 2 : BitVec 2)
      ∧ ∀ i ∈ [0, 5, 6], bitAt (mergeBits e u reservedOfEntry) i = bitAt e i :=
  ⟨extract_mergeBits e u _ 12 20 (by decide), extract_mergeBits e u _ 1 2 (by decide),
    fun i hi => bitAt_mergeBits e u _ i (by revert i; decide)⟩

end Sys2Proof.Machine
end

