-- ==== Sys2Proof/Laws/Places.lean ====
section
/-! SUPPORT. Operands and their places: reading and writing bytes always succeeds once the addresses are known, and each operand operation is given by the place it opens. -/

namespace Sys2Proof.Machine

theorem readEvent_ok (a n : Nat) (s : State) : ∃ w t, readEvent a n s = .ok w t := by
  unfold readEvent
  split <;> exact ⟨_, _, rfl⟩

theorem writeEvent_ok (a : Nat) (bs : List Byte) (s : State) : ∃ t, writeEvent a bs s = .ok () t := by
  unfold writeEvent
  split <;> exact ⟨_, rfl⟩

/-- Reading bytes at known addresses succeeds. -/
theorem readBytes_ok (ps : List Nat) (s : State) : readBytes ps s = .ok (s.bytesAt ps) (s.afterReading ps) := by
  suffices h : ∀ held, ∃ bs t, readBytesFrom ps held s = .ok bs t by
    obtain ⟨bs, t, h⟩ := h []
    simp [State.bytesAt, State.afterReading, readBytes, h]
  induction ps generalizing s with
  | nil => exact fun _ => ⟨_, _, rfl⟩
  | cons a ps ih =>
    intro held
    cases held with
    | cons b held =>
      obtain ⟨bs, t, h⟩ := ih s held
      exact ⟨b :: bs, t, by rw [readBytesFrom, bind_of_ok h]; rfl⟩
    | nil =>
      obtain ⟨w, t, h⟩ := readEvent_ok a (s.eventSize (a :: ps)) s
      obtain ⟨bs, t', h'⟩ := ih t w.tail
      exact ⟨w.headD 0 :: bs, t', by rw [readBytesFrom, bind_of_ok (get_apply s), bind_of_ok h, bind_of_ok h']; rfl⟩

/-- Writing bytes at known addresses succeeds. -/
theorem writeBytes_ok (ps : List Nat) (bs : List Byte) (s : State) : writeBytes ps bs s = .ok () (s.afterWriting ps bs) := by
  suffices h : ∀ k, ∃ t, writeBytesFrom ps bs k s = .ok () t by
    obtain ⟨t, h⟩ := h 0
    simp [State.afterWriting, writeBytes, h]
  induction ps generalizing s bs with
  | nil => exact fun _ => ⟨s, rfl⟩
  | cons a ps ih =>
    cases bs with
    | nil => exact fun _ => ⟨s, rfl⟩
    | cons b bs =>
      intro k
      cases k with
      | succ k => exact ih bs s k
      | zero =>
        obtain ⟨t, h⟩ := writeEvent_ok a ((b :: bs).take (s.eventSize (a :: ps))) s
        obtain ⟨t', h'⟩ := ih bs t (s.eventSize (a :: ps) - 1)
        exact ⟨t', by rw [writeBytesFrom, bind_of_ok (get_apply s), bind_of_ok h, h']⟩

/-- On ordinary memory an access reads what memory holds. -/
theorem bytesAt_of_memory {s : State} {ps : List Nat} (h : ∀ a ∈ ps, s.kindAt a = .ram ∨ s.kindAt a = .rom) :
    s.bytesAt ps = ps.map (Memory.get s.mem) := by
  simp [State.bytesAt, readBytes_of_memory h]

/-- On ordinary memory an access that reads changes nothing. -/
theorem afterReading_of_memory {s : State} {ps : List Nat} (h : ∀ a ∈ ps, s.kindAt a = .ram ∨ s.kindAt a = .rom) :
    s.afterReading ps = s := by
  simp [State.afterReading, readBytes_of_memory h]

/-- An instruction that reads and then writes its operand, by the place it opens. -/
theorem modifyRm_of_open {n : Nat} {e : Rm Reg} {s s1 s2 : State} {p : Place Reg} {f : BitVec n → M (BitVec n)}
    {v : BitVec n} (h : openRm n e s = .ok p s1) (hf : f (p.value n s1) (p.seen s1) = .ok v s2) :
    modifyRm n e f s = .ok () (p.put v s2) := by
  cases e with
  | reg r =>
    cases h
    unfold modifyRm
    simp only [bind_apply, reads, update]
    simp only [Place.value, Place.seen] at hf
    rw [hf]
    rfl
  | mem m =>
    simp only [openRm, bind_apply, get_apply] at h
    unfold modifyRm modifyMem modifyAt
    simp only [bind_apply, get_apply]
    split at h
    · next ps t _ =>
      cases h
      simp only [readBytes_ok]
      simp only [Place.value, Place.seen] at hf
      rw [hf]
      exact writeBytes_ok _ _ _
    · cases h

/-- The same for a byte operand. -/
theorem modifyRm8_of_open {e : Rm Reg8} {s s1 s2 : State} {p : Place Reg8} {f : Byte → M Byte}
    {v : Byte} (h : openRm 8 e s = .ok p s1) (hf : f (p.byte s1) (p.seen s1) = .ok v s2) :
    modifyRm8 e f s = .ok () (p.putByte v s2) := by
  cases e with
  | reg r =>
    cases h
    unfold modifyRm8
    simp only [bind_apply, reads, update]
    simp only [Place.byte, Place.seen] at hf
    rw [hf]
    rfl
  | mem m =>
    simp only [openRm, bind_apply, get_apply] at h
    unfold modifyRm8 modifyMem modifyAt
    simp only [bind_apply, get_apply]
    split at h
    · next ps t _ =>
      cases h
      simp only [readBytes_ok]
      simp only [Place.byte, Place.seen] at hf
      rw [hf]
      exact writeBytes_ok _ _ _
    · cases h

/-- Writing an operand, by the place it opens. -/
theorem writeRm_of_open {n : Nat} {e : Rm Reg} {s s1 : State} {p : Place Reg} (v : BitVec n)
    (h : openRm n e s = .ok p s1) : writeRm e v s = .ok () (p.put v s1) := by
  cases e with
  | reg r => cases h; rfl
  | mem m =>
    simp only [openRm, bind_apply, get_apply] at h
    unfold writeRm writeMem segWrite
    simp only [bind_apply, get_apply]
    split at h
    · next ps t _ =>
      cases h
      exact writeBytes_ok _ _ _
    · cases h

/-- Writing a byte operand, by the place it opens. -/
theorem writeRm8_of_open {e : Rm Reg8} {s s1 : State} {p : Place Reg8} (v : Byte)
    (h : openRm 8 e s = .ok p s1) : writeRm8 e v s = .ok () (p.putByte v s1) := by
  cases e with
  | reg r => cases h; rfl
  | mem m =>
    simp only [openRm, bind_apply, get_apply] at h
    unfold writeRm8 writeMem segWrite
    simp only [bind_apply, get_apply]
    split at h
    · next ps t _ =>
      cases h
      exact writeBytes_ok _ _ _
    · cases h

/-- What is done at the operand size is done with that many bits. -/
theorem bySize_apply (f : Nat → M Unit) (s : State) : bySize f s = f s.osBits s := by
  unfold bySize State.osBits
  simp only [bind_apply, get_apply]
  split <;> rfl

/-- An instruction whose meaning completes. -/
theorem runInstr_of_ok {m : M Unit} {s t : State} (h : m s = .ok () t) : runInstr m s = .next (t.complete s.flags.tf) := by
  simp [runInstr, h]

/-- An instruction whose meaning ends in an event. -/
theorem runInstr_of_error {m : M Unit} {s t : State} {x : Exc} (h : m s = .error x t) : runInstr m s = takeExc s t x := by
  simp [runInstr, h]

/-- A two-operand operation: the flags it leaves and the result it gives. -/
theorem alu_apply {n : Nat} (op : Alu) (a b : BitVec n) (s : State) :
    alu op a b s =
      let u := if isLogical op then s.fresh else 0
      let t := if isLogical op then s.drawn else s
      .ok (aluCompute op s.flags a b u).1 (t.withFlags (aluCompute op s.flags a b u).2) := by
  cases op <;> rfl

end Sys2Proof.Machine
end

