-- ==== Sys2Proof/Laws/Within.lean ====
section
/-! SUPPORT. The shared operations of instructions, exceptions and task switches stay within every relation between states that allows the changes they can make. An invariant, or a promise that some registers do not change, is such a relation. -/

namespace Sys2Proof.Machine

/-- A relation that allows every change of state an instruction can make, but for the loading of the registers that
only privileged instructions write (47_os_support.md R570). VM and CPL change in protected mode only. -/
structure MachineRel (R : State → State → Prop) : Prop extends Steps R where
  pe : ∀ {s t : State}, R s t → t.cr0.pe = s.cr0.pe
  gpr : ∀ (s : State) (x : Gprs), R s { s with gpr := x }
  pc : ∀ (s : State) (x : Word32), R s { s with pc := x }
  cur : ∀ (s : State) (x : Latch), R s { s with cur := x }
  segs : ∀ (s : State) (x : Segs), R s { s with segs := x }
  stale : ∀ (s : State) (x : List StaleByte), R s { s with stale := x }
  tlb : ∀ (s : State) (x : List TlbEntry), R s { s with tlb := x }
  draws : ∀ (s : State) (x : Nat), R s { s with draws := x }
  ioTrace : ∀ (s : State) (x : List IoEvent), R s { s with ioTrace := x }
  dbgPending : ∀ (s : State) (x : Bool), R s { s with dbgPending := x }
  repActive : ∀ (s : State) (x : Bool), R s { s with repActive := x }
  unrestartable : ∀ (s : State) (x : Bool), R s { s with unrestartable := x }
  run : ∀ (s : State) (x : RunState), R s { s with run := x }
  nmiInService : ∀ (s : State) (x : Bool), R s { s with nmiInService := x }
  nmiPending : ∀ (s : State) (x : Bool), R s { s with nmiPending := x }
  intr : ∀ (s : State) (x : Option Byte), R s { s with intr := x }
  cr2 : ∀ (s : State) (x : Word32), R s { s with cr2 := x }
  ldtr : ∀ (s : State) (x : SystemReg), R s { s with ldtr := x }
  tr : ∀ (s : State) (x : SystemReg), R s { s with tr := x }
  ts : ∀ (s : State) (x : Bool), R s { s with cr0 := { s.cr0 with ts := x } }
  mem : ∀ (s : State) (a : Nat) (v : Byte), R s { s with mem := Memory.set s.mem a v }
  dr6 : ∀ (s : State) (v : Word32), v &&& ~~~dr6Mask = 0 → R s { s with dr6 := s.dr6 ||| v }
  dr7 : ∀ s : State, R s { s with dr7 := s.dr7 &&& ~~~(0x55 : Word32) }
  cr3 : ∀ (s : State) (v : Word32), R s { s with cr3 := v &&& 0xFFFFF000 }
  flags : ∀ (s : State) (f : Flags), f.vm = s.flags.vm → R s { s with flags := f }
  mode : ∀ (s : State) (f : Flags) (l : BitVec 2), s.cr0.pe = true → R s { s with flags := f, cpl := l }

variable {R : State → State → Prop} {α β : Type}

/-- The four breakpoint bits are named bits of DR6. -/
theorem breakBits_named (b0 b1 b2 b3 : Bool) :
    (BitVec.ofBool b3 ++ BitVec.ofBool b2 ++ BitVec.ofBool b1 ++ BitVec.ofBool b0).setWidth 32 &&& ~~~dr6Mask = 0 := by
  revert b0 b1 b2 b3
  decide

theorem MachineRel.noteDebug (h : MachineRel R) (s : State) (a b c d e : Bool) :
    R s { s with
      dr6 := s.dr6 ||| (BitVec.ofBool a ++ BitVec.ofBool b ++ BitVec.ofBool c ++ BitVec.ofBool d).setWidth 32
      dbgPending := e } :=
  h.trans (h.dr6 s _ (breakBits_named _ _ _ _)) (h.dbgPending _ _)

theorem MachineRel.setRun (h : MachineRel R) (s : State) (a : Nat) (vs : List Byte) :
    R s { s with mem := Memory.setRun s.mem a vs } := by
  induction vs generalizing s a with
  | nil => exact h.refl s
  | cons v vs ih => exact h.trans (h.mem s a v) (ih { s with mem := Memory.set s.mem a v } (a + 1))

/-- The changes an access makes are among them. -/
theorem MachineRel.access (h : MachineRel R) : StackRel R where
  refl := h.refl
  trans := h.trans
  draws s := h.draws s _
  device s _ := h.ioTrace s _
  store s a vs := h.trans (h.stale s _) (h.setRun (s.noteStore a vs) a vs)
  walk s _ := h.cur s _
  tlb s t := h.tlb s t
  data s _ _ _ := h.noteDebug s _ _ _ _ _
  sp s v := by unfold State.withSp; split <;> exact h.gpr s _

theorem MachineRel.index (h : MachineRel R) (s : State) (r : Reg) (v : Word32) : R s (s.withIndexReg r v) := by
  unfold State.withIndexReg
  split <;> exact h.gpr s _

theorem MachineRel.jump (h : MachineRel R) (s : State) (p : Word32) (c : Latch) : R s { s with pc := p, cur := c } :=
  h.trans (h.pc s p) (h.cur { s with pc := p } c)

theorem MachineRel.code (h : MachineRel R) (s : State) (g : Segs) (p : Word32) (c : Latch) :
    R s { s with segs := g, pc := p, cur := c } :=
  h.trans (h.segs s g) (h.jump { s with segs := g } p c)

theorem MachineRel.handler (h : MachineRel R) (s : State) (g : Segs) (p : Word32) (f : Flags) (c : Latch)
    (hf : f.vm = s.flags.vm) : R s { s with segs := g, pc := p, flags := f, cur := c } :=
  h.trans (h.code s g p c) (h.flags { s with segs := g, pc := p, cur := c } f hf)

theorem MachineRel.nmiCur (h : MachineRel R) (s : State) (b : Bool) (c : Latch) :
    R s { s with nmiInService := b, cur := c } :=
  h.trans (h.nmiInService s b) (h.cur { s with nmiInService := b } c)

theorem MachineRel.trap (h : MachineRel R) (s : State) (v : Word32) (b : Bool) (hv : v &&& ~~~dr6Mask = 0) :
    R s { s with dr6 := s.dr6 ||| v, dbgPending := b } :=
  h.trans (h.dr6 s v hv) (h.dbgPending { s with dr6 := s.dr6 ||| v } b)

theorem MachineRel.trTs (h : MachineRel R) (s : State) (x : SystemReg) :
    R s { s with tr := x, cr0 := { s.cr0 with ts := true } } :=
  h.trans (h.tr s x) (h.ts { s with tr := x } true)

theorem MachineRel.tlbCr3 (h : MachineRel R) (s : State) (v : Word32) :
    R s { s.flushTlb with cr3 := v &&& 0xFFFFF000 } :=
  h.trans (h.tlb s []) (h.cr3 s.flushTlb v)

theorem MachineRel.codeMode (h : MachineRel R) (s : State) (hp : s.cr0.pe = true) (g : Segs) (p : Word32) (f : Flags)
    (l : BitVec 2) (c : Latch) : R s { s with segs := g, pc := p, flags := f, cpl := l, cur := c } :=
  h.trans (h.code s g p c) (h.mode { s with segs := g, pc := p, cur := c } f l hp)

theorem MachineRel.codeModeGpr (h : MachineRel R) (s : State) (hp : s.cr0.pe = true) (g : Segs) (p : Word32)
    (f : Flags) (l : BitVec 2) (c : Latch) (r : Gprs) :
    R s { s with segs := g, pc := p, flags := f, cpl := l, cur := c, gpr := r } :=
  h.trans (h.codeMode s hp g p f l c) (h.gpr { s with segs := g, pc := p, flags := f, cpl := l, cur := c } r)

theorem MachineRel.withTaskMode (h : MachineRel R) (s : State) (hp : s.cr0.pe = true) (b : Bool) :
    R s (s.withTaskMode b) :=
  h.trans (h.dr7 s) (h.mode { s with dr7 := s.dr7 &&& ~~~(0x55 : Word32) } _ _ hp)

/-- A page fault inside a task switch is noted. -/
theorem MachineRel.noteRestart (h : MachineRel R) (s t : State) (x : Exc) : R s (s.noteRestart t x) := by
  cases x with
  | pageFault lin code => exact h.unrestartable s _
  | vector v err => exact h.refl s
  | shutdown => exact h.refl s
  | stop f => exact h.refl s
  | refuse q => exact h.refl s

/-- From every state in protected mode or V86 mode, the state in which `m` ends is related to it by `R`. -/
def WithinP (R : State → State → Prop) (m : M α) : Prop := ∀ s, s.cr0.pe = true → R s (endState (m s))

theorem Within.p {m : M α} (h : Within R m) : WithinP R m := fun s _ => h s

theorem withinP_bind (h : MachineRel R) {x : M α} {f : α → M β} (hx : WithinP R x) (hf : ∀ a, WithinP R (f a)) :
    WithinP R (x >>= f) := by
  intro s hp
  have h1 := hx s hp
  rw [bind_apply]
  cases hs : x s with
  | ok a t => rw [hs] at h1; exact h.trans h1 (hf a t ((h.pe h1).trans hp))
  | error e t => rw [hs] at h1; exact h1

theorem withinP_update {f : State → State} (hf : ∀ s, s.cr0.pe = true → R s (f s)) : WithinP R (update f) := hf

theorem withinP_ite {c : Prop} [Decidable c] {x y : M α} (hx : WithinP R x) (hy : WithinP R y) :
    WithinP R (if c then x else y) := by
  split <;> assumption

theorem within_whenever (h : Steps R) {c : Bool} {m : M Unit} (hm : Within R m) : Within R (whenever c m) :=
  within_ite hm (within_pure h _)

/-- A choice that takes its first branch in protected mode only. -/
theorem within_protected {x y : State → M α} (hx : ∀ a, WithinP R (x a)) (hy : ∀ a, Within R (y a)) :
    Within R (get >>= fun s => if s.protected then x s else y s) := by
  intro s
  rw [bind_of_ok (get_apply s)]
  split
  · next hv =>
    simp only [State.protected, Bool.and_eq_true] at hv
    exact hx s s hv.1
  · exact hy s s

theorem within_readDesc (h : MachineRel R) (sel : Word16) (bad : Word16 → Exc) : Within R (readDesc sel bad) := by
  unfold readDesc
  have hs := h.toSteps
  have ha := h.access.toAccessRel
  repeat' first
    | with_reducible exact within_sysRead ha _ _
    | with_reducible exact within_raise hs _
    | with_reducible exact within_pure hs _
    | with_reducible exact within_get hs
    | with_reducible apply within_bind hs
    | split
    | intro _

theorem within_markAccessed (h : MachineRel R) (sel : Word16) (d : Desc) : Within R (markAccessed sel d) := by
  unfold markAccessed
  have hs := h.toSteps
  have ha := h.access.toAccessRel
  repeat' first
    | with_reducible exact within_sysWrite ha _ _ _
    | with_reducible exact within_pure hs _
    | with_reducible exact within_get hs
    | with_reducible apply within_bind hs
    | with_reducible apply within_ite
    | split
    | intro _

theorem within_setSegment (h : MachineRel R) (r : SegReg) (c : SegCache) : Within R (setSegment r c) := by
  unfold setSegment
  have hs := h.toSteps
  repeat' first
    | exact within_update fun s => h.segs s _
    | with_reducible apply within_bind hs
    | intro _

theorem within_loadDataSegment (h : MachineRel R) (r : SegReg) (sel : Word16) (bad : Word16 → Exc) :
    Within R (loadDataSegment r sel bad) := by
  unfold loadDataSegment
  have hs := h.toSteps
  repeat' first
    | with_reducible exact within_raiseIf hs _ _
    | with_reducible exact within_reads hs _
    | with_reducible apply within_readDesc h
    | with_reducible apply within_markAccessed h
    | with_reducible apply within_setSegment h
    | with_reducible apply within_bind hs
    | intro _

theorem within_checkStackDesc (h : MachineRel R) (sel : Word16) (level : BitVec 2) (bad : Word16 → Exc) (d : Desc) :
    Within R (checkStackDesc sel level bad d) :=
  within_bind h.toSteps (within_raiseIf h.toSteps _ _) fun _ =>
    within_bind h.toSteps (within_raiseIf h.toSteps _ _) fun _ => within_pure h.toSteps _

theorem within_checkStackSegment (h : MachineRel R) (sel : Word16) (level : BitVec 2) (bad : Word16 → Exc) :
    Within R (checkStackSegment sel level bad) :=
  within_bind h.toSteps (within_readDesc h _ _) fun _ => within_checkStackDesc h _ _ _ _

theorem within_innerStackSegment (h : MachineRel R) (sel : Word16) (level : BitVec 2) :
    Within R (innerStackSegment sel level) :=
  within_bind h.toSteps (within_raiseIf h.toSteps _ _) fun _ =>
    within_bind h.toSteps (within_readDesc h _ _) fun _ => within_checkStackDesc h _ _ _ _

theorem within_loadSegment (h : MachineRel R) (r : SegReg) (sel : Word16) : Within R (loadSegment r sel) := by
  unfold loadSegment
  have hs := h.toSteps
  repeat' first
    | with_reducible exact within_raiseIf hs _ _
    | with_reducible apply within_markAccessed h
    | with_reducible apply within_setSegment h
    | with_reducible apply within_loadDataSegment h
    | with_reducible apply within_checkStackSegment h
    | with_reducible exact within_get hs
    | with_reducible apply within_bind hs
    | with_reducible apply within_ite
    | intro _

theorem within_setBusy (h : MachineRel R) (sel : Word16) (busy : Bool) : Within R (setBusy sel busy) := by
  unfold setBusy
  have hs := h.toSteps
  have ha := h.access.toAccessRel
  repeat' first
    | with_reducible exact within_sysRead ha _ _
    | with_reducible exact within_sysWrite ha _ _ _
    | with_reducible exact within_get hs
    | with_reducible apply within_bind hs
    | with_reducible apply within_ite
    | intro _

theorem within_innerStack (h : MachineRel R) (level : BitVec 2) : Within R (innerStack level) := by
  unfold innerStack
  have hs := h.toSteps
  have ha := h.access.toAccessRel
  repeat' first
    | with_reducible exact within_sysRead ha _ _
    | with_reducible exact within_raiseIf hs _ _
    | with_reducible exact within_pure hs _
    | with_reducible exact within_get hs
    | with_reducible apply within_bind hs
    | with_reducible apply within_ite
    | intro _

theorem within_jumpTo (h : MachineRel R) (off : Word32) : Within R (jumpTo off) := by
  unfold jumpTo
  have hs := h.toSteps
  repeat' first
    | with_reducible exact within_raiseIf hs _ _
    | with_reducible exact within_get hs
    | exact within_update fun s => h.jump s _ _
    | with_reducible apply within_bind hs
    | intro _

theorem within_enterCode (h : MachineRel R) (sel : Word16) (d : Desc) (level : BitVec 2) (off : Word32) :
    WithinP R (enterCode sel d level off) := by
  unfold enterCode
  repeat' first
    | exact withinP_update fun s hp => h.codeMode s hp _ _ _ _ _
    | with_reducible exact Within.p (within_markAccessed h _ _)
    | with_reducible apply withinP_bind h
    | intro _

theorem within_sysRead32 (h : MachineRel R) (a : Word32) : Within R (sysRead32 a) := by
  unfold sysRead32
  have hs := h.toSteps
  have ha := h.access.toAccessRel
  repeat' first
    | with_reducible exact within_sysRead ha _ _
    | with_reducible exact within_pure hs _
    | with_reducible apply within_bind hs
    | intro _

theorem within_sysRead16 (h : MachineRel R) (a : Word32) : Within R (sysRead16 a) := by
  unfold sysRead16
  have hs := h.toSteps
  have ha := h.access.toAccessRel
  repeat' first
    | with_reducible exact within_sysRead ha _ _
    | with_reducible exact within_pure hs _
    | with_reducible apply within_bind hs
    | intro _

theorem within_sysWriteItems (h : MachineRel R) (base : Word32) (n stride : Nat) (x0 : Nat) (x1 : List Nat) :
    Within R (sysWriteItems base n stride x0 x1) := by
  have ha := h.access.toAccessRel
  induction x1 generalizing x0 with
  | nil => exact within_pure h.toSteps _
  | cons a as ih => exact within_bind h.toSteps (within_sysWrite ha _ _ _) fun _ => ih _

theorem within_saveTask386 (h : MachineRel R) (base ret flags : Word32) : Within R (saveTask386 base ret flags) := by
  unfold saveTask386
  have hs := h.toSteps
  repeat' first
    | with_reducible apply within_sysWriteItems h
    | with_reducible exact within_get hs
    | with_reducible apply within_bind hs
    | intro _

theorem within_saveTask286 (h : MachineRel R) (base ret flags : Word32) : Within R (saveTask286 base ret flags) := by
  unfold saveTask286
  have hs := h.toSteps
  repeat' first
    | with_reducible apply within_sysWriteItems h
    | with_reducible exact within_get hs
    | with_reducible apply within_bind hs
    | intro _

theorem within_sysRead16Wide (h : MachineRel R) (a : Word32) : Within R (sysRead16Wide a) :=
  within_bind h.toSteps (within_sysRead16 h a) fun _ => within_pure h.toSteps _

theorem within_readHalf (h : MachineRel R) (a : Word32) : Within R (readHalf a) :=
  within_bind h.toSteps (within_sysRead16 h a) fun _ =>
    within_bind h.toSteps (within_draw h.access.toAccessRel) fun _ => within_pure h.toSteps _

/-- Reading in the old address space only passes through it. -/
theorem within_inOldSpace (h : MachineRel R) (old : Word32) {m : M α} (hm : Within R m) :
    Within R (inOldSpace old m) := by
  intro s
  have h1 := h.trans (h.cr3 s old) (hm { s with cr3 := old &&& 0xFFFFF000 })
  unfold inOldSpace
  cases hr : m { s with cr3 := old &&& 0xFFFFF000 } with
  | ok a t => rw [hr] at h1; exact h.trans h1 (h.cr3 t s.cr3)
  | error x t => rw [hr] at h1; exact h.trans h1 (h.trans (h.cr3 t s.cr3) (h.tlb _ []))

theorem within_loadTaskRegs (h : MachineRel R) {field : Nat → M Word32} (hf : ∀ k, Within R (field k)) (stride at_ : Nat)
    (rs : List Reg) : Within R (loadTaskRegs field stride at_ rs) := by
  induction rs generalizing at_ with
  | nil => exact within_pure h.toSteps _
  | cons r rs ih =>
    exact within_bind h.toSteps (hf _) fun v => within_bind h.toSteps (within_update fun s => h.gpr s _) fun _ => ih _

theorem within_loadTaskSelectors (h : MachineRel R) {field : Nat → M Word16} (hf : ∀ k, Within R (field k))
    (stride at_ : Nat) (rs : List SegReg) : Within R (loadTaskSelectors field stride at_ rs) := by
  induction rs generalizing at_ with
  | nil => exact within_pure h.toSteps _
  | cons r rs ih =>
    exact within_bind h.toSteps (hf _) fun v => within_bind h.toSteps (within_update fun s => h.segs s _) fun _ => ih _

theorem within_loadTaskControl (h : MachineRel R) {ldt flags pc : M Word32} (hl : Within R ldt) (hf : Within R flags)
    (hp : Within R pc) : WithinP R (loadTaskControl ldt flags pc) :=
  withinP_bind h hl.p fun _ => withinP_bind h (Within.p (within_update fun s => h.ldtr s _)) fun _ =>
    withinP_bind h hf.p fun _ => withinP_bind h (withinP_update fun s hp => h.mode s _ s.cpl hp) fun _ =>
      withinP_bind h hp.p fun _ => Within.p (within_update fun s => h.jump s _ _)

theorem within_loadTask386 (h : MachineRel R) (base : Word32) : WithinP R (loadTask386 base) := by
  have hs := h.toSteps
  refine withinP_bind h (within_reads hs _).p fun old => withinP_bind h (within_sysRead32 h _).p fun v =>
    withinP_bind h (within_update fun s => h.cr3 s v).p fun _ => ?_
  have hw (k : Nat) : Within R (inOldSpace old (sysRead16 (base + BitVec.ofNat 32 k))) :=
    within_inOldSpace h old (within_sysRead16 h _)
  have hd (k : Nat) : Within R (inOldSpace old (sysRead32 (base + BitVec.ofNat 32 k))) :=
    within_inOldSpace h old (within_sysRead32 h _)
  exact withinP_bind h
    (within_loadTaskControl h (within_inOldSpace h old (within_sysRead16Wide h _)) (hd 0x24) (hd 0x20)) fun _ =>
      withinP_bind h (within_loadTaskRegs h hd _ _ _).p fun _ =>
        withinP_bind h (within_loadTaskSelectors h hw _ _ _).p fun _ => withinP_bind h (hw 0x64).p fun _ =>
          withinP_bind h (within_update fun s => h.tlb s []).p fun _ => (within_pure hs _).p

theorem within_loadTask286 (h : MachineRel R) (base : Word32) : WithinP R (loadTask286 base) :=
  withinP_bind h (within_loadTaskControl h (within_sysRead16Wide h _) (within_sysRead16Wide h _)
    (within_sysRead16Wide h _)) fun _ =>
      withinP_bind h (within_loadTaskRegs h (fun _ => within_readHalf h _) _ _ _).p fun _ =>
        withinP_bind h (within_loadTaskSelectors h (fun _ => within_sysRead16 h _) _ _ _).p fun _ =>
          withinP_bind h (within_update fun s => h.segs s _).p fun _ => (within_pure h.toSteps _).p

theorem within_loadTaskLdt (h : MachineRel R) (sel : Word16) : Within R (loadTaskLdt sel) := by
  unfold loadTaskLdt
  have hs := h.toSteps
  repeat' first
    | with_reducible exact within_raiseIf hs _ _
    | with_reducible apply within_readDesc h
    | with_reducible exact within_pure hs _
    | exact within_update fun s => h.ldtr s _
    | with_reducible apply within_bind hs
    | with_reducible apply within_ite
    | intro _

theorem within_loadTaskCode (h : MachineRel R) (sel : Word16) : Within R (loadTaskCode sel) := by
  unfold loadTaskCode
  have hs := h.toSteps
  repeat' first
    | with_reducible exact within_raiseIf hs _ _
    | with_reducible exact within_reads hs _
    | with_reducible apply within_readDesc h
    | with_reducible apply within_markAccessed h
    | with_reducible apply within_setSegment h
    | with_reducible apply within_bind hs
    | with_reducible apply within_ite
    | intro _

theorem within_loadTaskStack (h : MachineRel R) (sel : Word16) : Within R (loadTaskStack sel) := by
  unfold loadTaskStack
  have hs := h.toSteps
  repeat' first
    | with_reducible exact within_raiseIf hs _ _
    | with_reducible exact within_reads hs _
    | with_reducible apply within_markAccessed h
    | with_reducible apply within_setSegment h
    | with_reducible apply within_checkStackSegment h
    | with_reducible apply within_bind hs
    | intro _

theorem within_loadTaskData (h : MachineRel R) (r : SegReg) (sel : Word16) : Within R (loadTaskData r sel) := by
  unfold loadTaskData
  have hs := h.toSteps
  repeat' first
    | with_reducible apply within_loadDataSegment h
    | with_reducible exact within_pure hs _
    | with_reducible apply within_bind hs
    | with_reducible apply within_ite
    | intro _

theorem within_loadTaskSegments (h : MachineRel R) : Within R loadTaskSegments := by
  unfold loadTaskSegments
  have hs := h.toSteps
  repeat' first
    | with_reducible apply within_loadTaskCode h
    | with_reducible apply within_loadTaskStack h
    | with_reducible apply within_loadTaskData h
    | with_reducible exact within_get hs
    | with_reducible apply within_bind hs
    | intro _

theorem within_validateTask (h : MachineRel R) : Within R validateTask := by
  unfold validateTask
  have hs := h.toSteps
  repeat' first
    | with_reducible exact within_raiseIf hs _ _
    | with_reducible apply within_loadTaskLdt h
    | with_reducible apply within_loadTaskSegments h
    | with_reducible exact within_get hs
    | exact within_update fun s => h.segs s _
    | with_reducible apply within_bind hs
    | with_reducible apply within_ite
    | intro _

theorem within_checkNewTask (h : MachineRel R) (sel : Word16) (cause : SwitchCause) :
    Within R (checkNewTask sel cause) := by
  unfold checkNewTask
  have hs := h.toSteps
  repeat' first
    | with_reducible exact within_raiseIf hs _ _
    | with_reducible apply within_readDesc h
    | with_reducible exact within_pure hs _
    | with_reducible apply within_bind hs
    | with_reducible apply within_ite
    | intro _

theorem within_savedImage (h : MachineRel R) (cause : SwitchCause) : Within R (savedImage cause) := by
  unfold savedImage
  have hs := h.toSteps
  have ha := h.access.toAccessRel
  repeat' first
    | with_reducible exact within_draw ha
    | with_reducible exact within_pure hs _
    | with_reducible exact within_get hs
    | with_reducible apply within_bind hs
    | with_reducible apply within_ite
    | intro _

theorem within_saveOldTask (h : MachineRel R) (cause : SwitchCause) (ret : Word32) :
    Within R (saveOldTask cause ret) := by
  unfold saveOldTask
  have hs := h.toSteps
  repeat' first
    | with_reducible apply within_setBusy h
    | with_reducible apply within_saveTask386 h
    | with_reducible apply within_saveTask286 h
    | with_reducible apply within_savedImage h
    | with_reducible exact within_pure hs _
    | with_reducible exact within_get hs
    | exact within_update fun s => h.cur s _
    | apply within_whenever hs
    | with_reducible apply within_bind hs
    | with_reducible apply within_ite
    | intro _

theorem within_enterNewTask (h : MachineRel R) (sel : Word16) (d : Desc) (cause : SwitchCause) :
    Within R (enterNewTask sel d cause) := by
  unfold enterNewTask
  have hs := h.toSteps
  have ha := h.access.toAccessRel
  repeat' first
    | with_reducible exact within_sysWrite ha _ _ _
    | with_reducible apply within_setBusy h
    | with_reducible exact within_pure hs _
    | with_reducible exact within_get hs
    | exact within_update fun s => h.trTs s _
    | apply within_whenever hs
    | with_reducible apply within_bind hs
    | intro _

theorem within_loadNewTask (h : MachineRel R) (d : Desc) (nested : Bool) : WithinP R (loadNewTask d nested) :=
  withinP_bind h (withinP_ite (within_loadTask386 h _) (within_loadTask286 h _)) fun _ =>
    withinP_bind h (withinP_update fun s hp => h.withTaskMode s hp nested) fun _ => (within_pure h.toSteps _).p

theorem within_taskTrap (h : MachineRel R) (t : Bool) : Within R (taskTrap t) := by
  unfold taskTrap
  have hs := h.toSteps
  repeat' first
    | with_reducible exact within_pure hs _
    | exact within_update fun s => h.trap s 0x8000 _ (by decide)
    | apply within_whenever hs
    | with_reducible apply within_bind hs
    | intro _

theorem within_taskSwitch (h : MachineRel R) (sel : Word16) (cause : SwitchCause) (ret : Word32) :
    WithinP R (taskSwitch sel cause ret) := by
  unfold taskSwitch
  have hs := h.toSteps
  repeat' first
    | with_reducible apply within_loadNewTask h
    | with_reducible exact Within.p (within_raiseIf hs _ _)
    | with_reducible exact Within.p (within_validateTask h)
    | with_reducible exact Within.p (within_checkNewTask h _ _)
    | with_reducible exact Within.p (within_saveOldTask h _ _)
    | with_reducible exact Within.p (within_enterNewTask h _ _ _)
    | with_reducible exact Within.p (within_taskTrap h _)
    | with_reducible exact Within.p (within_get hs)
    | with_reducible apply withinP_bind h
    | intro _

theorem within_deliverReal (h : MachineRel R) (e : Event) : Within R (deliverReal e) := by
  unfold deliverReal
  have hs := h.toSteps
  have ha := h.access.toAccessRel
  have hk := h.access
  repeat' first
    | with_reducible exact within_sysRead ha _ _
    | with_reducible exact within_pushAll hk _ _
    | with_reducible exact within_raiseIf hs _ _
    | with_reducible exact within_get hs
    | exact within_update fun s => h.handler s _ _ _ _ rfl
    | with_reducible apply within_bind hs
    | with_reducible apply within_ite
    | intro _

theorem within_eventImage (h : MachineRel R) (e : Event) : Within R (eventImage e) := by
  unfold eventImage
  have hs := h.toSteps
  have ha := h.access.toAccessRel
  repeat' first
    | with_reducible exact within_draw ha
    | with_reducible exact within_pure hs _
    | with_reducible exact within_get hs
    | with_reducible apply within_bind hs
    | split
    | intro _

theorem within_errorItems (h : MachineRel R) (isz : Nat) (err : Option Word16) : Within R (errorItems isz err) := by
  unfold errorItems
  have hs := h.toSteps
  have ha := h.access.toAccessRel
  repeat' first
    | with_reducible exact within_draw ha
    | with_reducible exact within_pure hs _
    | with_reducible apply within_bind hs
    | with_reducible apply within_ite
    | split
    | intro _

theorem within_leaveV86 (h : MachineRel R) (isz : Nat) (old : Segs) : Within R (leaveV86 isz old) := by
  unfold leaveV86
  have hs := h.toSteps
  have hk := h.access
  repeat' first
    | with_reducible exact within_pushAll hk _ _
    | exact within_update fun s => h.segs s _
    | with_reducible apply within_bind hs
    | intro _

theorem within_deliverInner (h : MachineRel R) (e : Event) (isz : Nat) (csel : Word16) (d : Desc) (off img : Word32) (errs : List Nat) :
    WithinP R (deliverInner e isz csel d off img errs) := by
  have hs := h.toSteps
  have hk := h.access
  unfold deliverInner
  refine withinP_bind h (Within.p (within_get hs)) fun s => withinP_bind h (Within.p (within_raiseIf hs _ _)) fun _ =>
    withinP_bind h (Within.p (within_innerStack h _)) fun p => ?_
  obtain ⟨nss, nesp⟩ := p
  refine withinP_bind h (Within.p (within_innerStackSegment h _ _)) fun sd =>
      withinP_bind h (Within.p (within_raiseIf hs _ _)) fun _ =>
        withinP_bind h (Within.p (within_raiseIf hs _ _)) fun _ =>
          withinP_bind h (Within.p (within_markAccessed h _ _)) fun _ =>
            withinP_bind h (withinP_update fun s hp => h.codeMode s hp _ s.pc _ _ s.cur) fun _ => ?_
  exact withinP_bind h (Within.p (within_update fun s => hk.sp s _)) fun _ =>
    withinP_bind h (Within.p (within_whenever hs (within_leaveV86 h _ _))) fun _ =>
      withinP_bind h (Within.p (within_pushAll hk _ _)) fun _ => within_enterCode h _ _ _ _

theorem within_deliverSame (h : MachineRel R) (e : Event) (isz : Nat) (csel : Word16) (d : Desc) (off img : Word32) (errs : List Nat) :
    WithinP R (deliverSame e isz csel d off img errs) := by
  unfold deliverSame
  have hs := h.toSteps
  have hk := h.access
  repeat' first
    | with_reducible apply within_enterCode h
    | with_reducible exact Within.p (within_pushAll hk _ _)
    | with_reducible exact Within.p (within_raiseIf hs _ _)
    | with_reducible exact Within.p (within_get hs)
    | with_reducible apply withinP_bind h
    | intro _

theorem within_enterHandler (h : MachineRel R) (g : Desc) : WithinP R (enterHandler g) := by
  unfold enterHandler
  repeat' first
    | exact withinP_update fun s hp => h.codeMode s hp s.segs s.pc _ s.cpl _
    | with_reducible apply withinP_bind h
    | intro _

theorem within_deliverGate (h : MachineRel R) (e : Event) (g : Desc) : WithinP R (deliverGate e g) := by
  unfold deliverGate
  have hs := h.toSteps
  repeat' first
    | with_reducible apply within_deliverInner h
    | with_reducible apply within_deliverSame h
    | with_reducible apply within_enterHandler h
    | with_reducible exact Within.p (within_raiseIf hs _ _)
    | with_reducible exact Within.p (within_readDesc h _ _)
    | with_reducible exact Within.p (within_eventImage h _)
    | with_reducible exact Within.p (within_errorItems h _ _)
    | with_reducible exact Within.p (within_get hs)
    | with_reducible apply withinP_bind h
    | with_reducible apply withinP_ite
    | intro _

theorem within_deliverTask (h : MachineRel R) (e : Event) (g : Desc) : WithinP R (deliverTask e g) := by
  unfold deliverTask
  have hs := h.toSteps
  have hk := h.access
  repeat' first
    | with_reducible apply within_taskSwitch h
    | with_reducible exact Within.p (within_pushAll hk _ _)
    | with_reducible exact Within.p (within_errorItems h _ _)
    | with_reducible exact Within.p (within_get hs)
    | exact Within.p (within_update fun s => h.cur s _)
    | with_reducible apply withinP_bind h
    | with_reducible apply withinP_ite
    | intro _

theorem within_deliverProtected (h : MachineRel R) (e : Event) : WithinP R (deliverProtected e) := by
  unfold deliverProtected
  have hs := h.toSteps
  have ha := h.access.toAccessRel
  repeat' first
    | with_reducible apply within_deliverGate h
    | with_reducible apply within_deliverTask h
    | with_reducible exact Within.p (within_sysRead ha _ _)
    | with_reducible exact Within.p (within_raiseIf hs _ _)
    | with_reducible exact Within.p (within_get hs)
    | with_reducible apply withinP_bind h
    | with_reducible apply withinP_ite
    | intro _

theorem within_deliver (h : MachineRel R) (e : Event) : Within R (deliver e) := by
  intro s
  unfold deliver
  rw [bind_of_ok (get_apply s)]
  split
  · next hp => exact within_deliverProtected h e s hp
  · exact within_deliverReal h e s

theorem within_returnOuter (h : MachineRel R) (sel : Word16) (d : Desc) (off : Word32) (n frame : Nat) (imm : Word32) :
    WithinP R (returnOuter sel d off n frame imm) := by
  unfold returnOuter
  have hs := h.toSteps
  have ha := h.access.toAccessRel
  repeat' first
    | with_reducible apply within_enterCode h
    | with_reducible exact Within.p (within_segRead ha _ _ _)
    | with_reducible exact Within.p (within_raiseIf hs _ _)
    | with_reducible exact Within.p (within_markAccessed h _ _)
    | with_reducible exact Within.p (within_setSegment h _ _)
    | with_reducible exact Within.p (within_checkStackSegment h _ _ _)
    | with_reducible exact Within.p (within_get hs)
    | exact Within.p (within_update fun s => h.access.sp s _)
    | exact Within.p (within_update fun s => h.segs s _)
    | with_reducible apply withinP_bind h
    | intro _

theorem within_returnSame (h : MachineRel R) (sel : Word16) (d : Desc) (off : Word32) (frame : Nat) (imm : Word32) :
    WithinP R (returnSame sel d off frame imm) := by
  unfold returnSame
  repeat' first
    | with_reducible apply within_enterCode h
    | exact Within.p (within_update fun s => h.access.sp s _)
    | with_reducible apply withinP_bind h
    | intro _

theorem within_returnProtected (h : MachineRel R) (sel : Word16) (off : Word32) (n frame : Nat) (imm : Word32) :
    WithinP R (returnProtected sel off n frame imm) := by
  unfold returnProtected
  have hs := h.toSteps
  repeat' first
    | with_reducible apply within_returnOuter h
    | with_reducible apply within_returnSame h
    | with_reducible exact Within.p (within_raiseIf hs _ _)
    | with_reducible exact Within.p (within_readDesc h _ _)
    | with_reducible exact Within.p (within_get hs)
    | with_reducible apply withinP_bind h
    | with_reducible apply withinP_ite
    | intro _

theorem within_enterRealCode (h : MachineRel R) (sel : Word16) (off : Word32) : Within R (enterRealCode sel off) := by
  unfold enterRealCode
  have hs := h.toSteps
  repeat' first
    | with_reducible exact within_raiseIf hs _ _
    | exact within_update fun s => h.code s _ _ _
    | with_reducible apply within_bind hs
    | with_reducible apply within_ite
    | intro _

theorem within_iretReal (h : MachineRel R) (n : Nat) : Within R (iretReal n) := by
  unfold iretReal
  have hs := h.toSteps
  have hk := h.access
  repeat' first
    | with_reducible exact within_pop hk _
    | with_reducible apply within_enterRealCode h
    | exact within_update fun s => h.flags s _ rfl
    | with_reducible apply within_bind hs
    | intro _

theorem within_iretToV86 (h : MachineRel R) (sel : Word16) (off img : Word32) : WithinP R (iretToV86 sel off img) := by
  unfold iretToV86
  have ha := h.access.toAccessRel
  repeat' first
    | exact withinP_update fun s hp => h.codeModeGpr s hp _ _ _ _ _ _
    | with_reducible exact Within.p (within_stackRead ha _ _)
    | with_reducible apply withinP_bind h
    | intro _

theorem within_iretProtected (h : MachineRel R) (n : Nat) : WithinP R (iretProtected n) := by
  unfold iretProtected
  have hs := h.toSteps
  have ha := h.access.toAccessRel
  repeat' first
    | with_reducible apply within_returnProtected h
    | with_reducible apply within_iretToV86 h
    | exact withinP_update fun s hp => h.mode s _ s.cpl hp
    | with_reducible exact Within.p (within_stackRead ha _ _)
    | with_reducible exact Within.p (within_get hs)
    | with_reducible apply withinP_bind h
    | with_reducible apply withinP_ite
    | intro _

theorem within_iretTask (h : MachineRel R) (n : Nat) : WithinP R (iretTask n) := by
  unfold iretTask
  have hs := h.toSteps
  repeat' first
    | with_reducible apply within_taskSwitch h
    | with_reducible apply within_iretProtected h
    | with_reducible exact Within.p (within_sysRead16 h _)
    | with_reducible exact Within.p (within_raiseIf hs _ _)
    | with_reducible exact Within.p (within_get hs)
    | with_reducible apply withinP_bind h
    | with_reducible apply withinP_ite
    | intro _

theorem within_iretByMode (h : MachineRel R) (n : Nat) : Within R (iretByMode n) := by
  exact within_protected (fun _ => within_iretTask h _) fun _ => within_iretReal h _

theorem within_interruptReturn (h : MachineRel R) : Within R interruptReturn := by
  unfold interruptReturn
  have hs := h.toSteps
  repeat' first
    | with_reducible exact within_raiseIf hs _ _
    | with_reducible apply within_iretByMode h
    | with_reducible exact within_get hs
    | exact within_update fun s => h.nmiCur s _ _
    | with_reducible apply within_bind hs
    | with_reducible apply within_ite
    | intro _

theorem within_softwareInterrupt (h : MachineRel R) (v : Byte) : Within R (softwareInterrupt v) := by
  unfold softwareInterrupt
  have hs := h.toSteps
  repeat' first
    | with_reducible apply within_deliver h
    | with_reducible exact within_get hs
    | with_reducible apply within_bind hs
    | intro _

theorem within_privileged (h : MachineRel R) : Within R privileged := by
  unfold privileged
  have hs := h.toSteps
  repeat' first
    | with_reducible exact within_raiseIf hs _ _
    | with_reducible exact within_get hs
    | with_reducible apply within_bind hs
    | intro _

theorem within_protectedOnly (h : MachineRel R) : Within R protectedOnly := by
  unfold protectedOnly
  have hs := h.toSteps
  repeat' first
    | with_reducible exact within_raiseIf hs _ _
    | with_reducible exact within_get hs
    | with_reducible apply within_bind hs
    | intro _

theorem within_ioSensitive (h : MachineRel R) : Within R ioSensitive := by
  unfold ioSensitive
  have hs := h.toSteps
  repeat' first
    | with_reducible exact within_raiseIf hs _ _
    | with_reducible exact within_get hs
    | with_reducible apply within_bind hs
    | intro _

theorem within_readMem (h : MachineRel R) (n : Nat) (m : Mem) : Within R (readMem n m) := by
  unfold readMem
  have hs := h.toSteps
  have ha := h.access.toAccessRel
  repeat' first
    | with_reducible exact within_segRead ha _ _ _
    | with_reducible exact within_pure hs _
    | with_reducible exact within_get hs
    | with_reducible apply within_bind hs
    | intro _

theorem within_writeMem (h : MachineRel R) {n : Nat} (m : Mem) (v : BitVec n) : Within R (writeMem m v) := by
  unfold writeMem
  have hs := h.toSteps
  have ha := h.access.toAccessRel
  repeat' first
    | with_reducible exact within_segWrite ha _ _ _ _
    | with_reducible exact within_get hs
    | with_reducible apply within_bind hs
    | intro _

theorem within_modifyAt (h : MachineRel R) (n : Nat) (r : SegReg) (off : Word32) (f : BitVec n → M (BitVec n)) (hf : ∀ v, Within R (f v)) :
    Within R (modifyAt n r off f) := by
  unfold modifyAt
  have hs := h.toSteps
  have ha := h.access.toAccessRel
  repeat' first
    | with_reducible exact within_readBytes ha _
    | with_reducible exact within_writeBytes ha _ _
    | with_reducible exact within_dataAddresses ha _ _ _ _
    | exact hf _
    | with_reducible apply within_bind hs
    | intro _

theorem within_modifyMem (h : MachineRel R) (n : Nat) (m : Mem) (f : BitVec n → M (BitVec n)) (hf : ∀ v, Within R (f v)) :
    Within R (modifyMem n m f) := by
  unfold modifyMem
  have hs := h.toSteps
  repeat' first
    | with_reducible apply within_modifyAt h
    | exact hf _
    | with_reducible exact within_get hs
    | with_reducible apply within_bind hs
    | intro _

theorem within_touchMem (h : MachineRel R) (n : Nat) (m : Mem) : Within R (touchMem n m) := by
  unfold touchMem
  have hs := h.toSteps
  have ha := h.access.toAccessRel
  repeat' first
    | with_reducible exact within_segProbe ha _ _ _ _
    | with_reducible exact within_segRead ha _ _ _
    | with_reducible exact within_pure hs _
    | with_reducible exact within_get hs
    | with_reducible apply within_bind hs
    | intro _

theorem within_readRm8 (h : MachineRel R) (x0 : Rm Reg8) : Within R (readRm8 x0) := by
  unfold readRm8
  have hs := h.toSteps
  repeat' first
    | with_reducible exact within_reads hs _
    | with_reducible apply within_readMem h
    | with_reducible apply within_bind hs
    | split
    | intro _

theorem within_writeRm8 (h : MachineRel R) (e : Rm Reg8) (v : Byte) : Within R (writeRm8 e v) := by
  unfold writeRm8
  have hs := h.toSteps
  repeat' first
    | with_reducible apply within_writeMem h
    | exact within_update fun s => h.gpr s _
    | with_reducible apply within_bind hs
    | split
    | intro _

theorem within_modifyRm8 (h : MachineRel R) (e : Rm Reg8) (f : Byte → M Byte) (hf : ∀ v, Within R (f v)) :
    Within R (modifyRm8 e f) := by
  unfold modifyRm8
  have hs := h.toSteps
  repeat' first
    | with_reducible exact within_reads hs _
    | with_reducible apply within_modifyMem h
    | exact hf _
    | exact within_update fun s => h.gpr s _
    | with_reducible apply within_bind hs
    | split
    | intro _

theorem within_readRm (h : MachineRel R) (n : Nat) (x0 : Rm Reg) : Within R (readRm n x0) := by
  unfold readRm
  have hs := h.toSteps
  repeat' first
    | with_reducible exact within_reads hs _
    | with_reducible apply within_readMem h
    | with_reducible apply within_bind hs
    | split
    | intro _

theorem within_writeRm (h : MachineRel R) {n : Nat} (e : Rm Reg) (v : BitVec n) : Within R (writeRm e v) := by
  unfold writeRm
  have hs := h.toSteps
  repeat' first
    | with_reducible apply within_writeMem h
    | exact within_update fun s => h.gpr s _
    | with_reducible apply within_bind hs
    | split
    | intro _

theorem within_modifyRm (h : MachineRel R) (n : Nat) (e : Rm Reg) (f : BitVec n → M (BitVec n)) (hf : ∀ v, Within R (f v)) :
    Within R (modifyRm n e f) := by
  unfold modifyRm
  have hs := h.toSteps
  repeat' first
    | with_reducible exact within_reads hs _
    | with_reducible apply within_modifyMem h
    | exact hf _
    | exact within_update fun s => h.gpr s _
    | with_reducible apply within_bind hs
    | split
    | intro _

theorem within_touchRm8 (h : MachineRel R) (x0 : Rm Reg8) : Within R (touchRm8 x0) := by
  unfold touchRm8
  have hs := h.toSteps
  repeat' first
    | with_reducible apply within_touchMem h
    | with_reducible exact within_pure hs _
    | with_reducible apply within_bind hs
    | split
    | intro _

theorem within_touchRm (h : MachineRel R) (n : Nat) (x0 : Rm Reg) : Within R (touchRm n x0) := by
  unfold touchRm
  have hs := h.toSteps
  repeat' first
    | with_reducible apply within_touchMem h
    | with_reducible exact within_pure hs _
    | with_reducible apply within_bind hs
    | split
    | intro _

theorem within_bySize (h : MachineRel R) (f : Nat → M Unit) (hf : ∀ v, Within R (f v)) : Within R (bySize f) := by
  unfold bySize
  have hs := h.toSteps
  repeat' first
    | exact hf _
    | with_reducible exact within_get hs
    | with_reducible apply within_bind hs
    | with_reducible apply within_ite
    | intro _

theorem within_setRegister (h : MachineRel R) {n : Nat} (r : Reg) (v : BitVec n) : Within R (setRegister r v) := by
  unfold setRegister
  have hs := h.toSteps
  repeat' first
    | exact within_update fun s => h.gpr s _
    | with_reducible apply within_bind hs
    | intro _

theorem within_setRegister8 (h : MachineRel R) (r : Reg8) (v : Byte) : Within R (setRegister8 r v) := by
  unfold setRegister8
  have hs := h.toSteps
  repeat' first
    | exact within_update fun s => h.gpr s _
    | with_reducible apply within_bind hs
    | intro _

theorem within_setFlags (h : MachineRel R) (g : Flags → Flags) (hg : ∀ f, (g f).vm = f.vm) : Within R (setFlags g) := by
  unfold setFlags
  have hs := h.toSteps
  repeat' first
    | exact within_update fun s => h.flags s _ (hg _)
    | with_reducible apply within_bind hs
    | intro _

theorem aluCompute_vm {n : Nat} (op : Alu) (f : Flags) (a b : BitVec n) (u : Word32) :
    (aluCompute op f a b u).2.vm = f.vm := by
  cases op <;> rfl

theorem within_alu (h : MachineRel R) {n : Nat} (op : Alu) (a b : BitVec n) : Within R (alu op a b) := by
  have hs := h.toSteps
  have k : ∀ u : Word32, Within R (do
      let s ← get
      setFlags fun f => (aluCompute op f a b u).2
      pure (aluCompute op s.flags a b u).1 : M (BitVec n)) := fun u =>
    within_bind hs (within_get hs) fun _ =>
      within_bind hs (within_setFlags h _ fun f => aluCompute_vm op f a b u) fun _ => within_pure hs _
  exact within_ite (within_bind hs (within_draw h.access.toAccessRel) k) (within_bind hs (within_pure hs _) k)

theorem shiftCompute_vm {n : Nat} (op : Shift) (f : Flags) (a : BitVec n) (c : Nat) (u : Word32) :
    (shiftCompute op f a c u).2.vm = f.vm := by
  cases op <;> rfl

theorem within_shift (h : MachineRel R) {n : Nat} (op : Shift) (cnt : Nat) (a : BitVec n) :
    Within R (shift op cnt a) := by
  have hs := h.toSteps
  exact within_bind hs (within_draw h.access.toAccessRel) fun u => within_bind hs (within_get hs) fun _ =>
    within_bind hs (within_setFlags h _ fun f => shiftCompute_vm op f a cnt u) fun _ => within_pure hs _

theorem within_shiftDouble (h : MachineRel R) {n : Nat} (right : Bool) (cnt : Nat) (a g : BitVec n) :
    Within R (shiftDouble right cnt a g) := by
  unfold shiftDouble
  have hs := h.toSteps
  have ha := h.access.toAccessRel
  repeat' first
    | with_reducible exact within_draw ha
    | with_reducible apply within_setFlags h
    | exact fun _ => rfl
    | with_reducible exact within_pure hs _
    | with_reducible apply within_bind hs
    | with_reducible apply within_ite
    | intro _

end Sys2Proof.Machine
end

