-- ==== Sys2Proof/Laws/WithinInstr.lean ====
section
/-! SUPPORT. Every part of an instruction stays within every relation that allows the changes an instruction can make; the loading of the registers that only privileged instructions write is not among them. -/

namespace Sys2Proof.Machine

variable {R : State → State → Prop}

theorem within_readDirect (h : MachineRel R) (n : Nat) (off : Word32) : Within R (readDirect n off) := by
  unfold readDirect
  have hs := h.toSteps
  have ha := h.access.toAccessRel
  repeat' first
    | with_reducible exact within_segRead ha _ _ _
    | with_reducible exact within_pure hs _
    | with_reducible exact within_get hs
    | with_reducible apply within_bind hs
    | intro _

theorem within_writeDirect (h : MachineRel R) {n : Nat} (off : Word32) (v : BitVec n) :
    Within R (writeDirect off v) := by
  unfold writeDirect
  have hs := h.toSteps
  have ha := h.access.toAccessRel
  repeat' first
    | with_reducible exact within_segWrite ha _ _ _ _
    | with_reducible exact within_get hs
    | with_reducible apply within_bind hs
    | intro _

theorem within_selectorItem (h : MachineRel R) (sel : Word16) : Within R (selectorItem sel) := by
  unfold selectorItem
  have hs := h.toSteps
  have ha := h.access.toAccessRel
  repeat' first
    | with_reducible exact within_draw ha
    | with_reducible exact within_pure hs _
    | with_reducible exact within_get hs
    | with_reducible apply within_bind hs
    | with_reducible apply within_ite
    | intro _

theorem within_storeSegment (h : MachineRel R) (e : Rm Reg) (sr : SegReg) : Within R (storeSegment e sr) := by
  unfold storeSegment
  have hs := h.toSteps
  repeat' first
    | with_reducible apply within_writeMem h
    | with_reducible apply within_setRegister h
    | with_reducible apply within_selectorItem h
    | with_reducible exact within_get hs
    | exact within_update fun s => h.gpr s _
    | with_reducible apply within_bind hs
    | with_reducible apply within_ite
    | split
    | intro _

theorem within_exchange8 (h : MachineRel R) (g : Reg8) (v : Byte) : Within R (exchange8 g v) := by
  unfold exchange8
  have hs := h.toSteps
  repeat' first
    | with_reducible exact within_reads hs _
    | with_reducible apply within_setRegister8 h
    | with_reducible exact within_pure hs _
    | with_reducible apply within_bind hs
    | intro _

theorem within_exchange (h : MachineRel R) {n : Nat} (g : Reg) (v : BitVec n) : Within R (exchange g v) := by
  unfold exchange
  have hs := h.toSteps
  repeat' first
    | with_reducible exact within_reads hs _
    | with_reducible apply within_setRegister h
    | with_reducible exact within_pure hs _
    | with_reducible apply within_bind hs
    | intro _

theorem within_pushSegment (h : MachineRel R) (r : SegReg) : Within R (pushSegment r) := by
  unfold pushSegment
  have hs := h.toSteps
  have hk := h.access
  repeat' first
    | with_reducible exact within_push hk _ _
    | with_reducible apply within_selectorItem h
    | with_reducible exact within_get hs
    | with_reducible apply within_bind hs
    | with_reducible apply within_ite
    | intro _

theorem within_popSegment (h : MachineRel R) (r : SegReg) : Within R (popSegment r) := by
  unfold popSegment
  have hs := h.toSteps
  have ha := h.access.toAccessRel
  repeat' first
    | with_reducible exact within_stackRead ha _ _
    | with_reducible apply within_loadSegment h
    | with_reducible apply within_bySize h
    | exact within_update fun s => h.access.sp s _
    | with_reducible apply within_bind hs
    | intro _

theorem within_stackPlaces (h : AccessRel R) (n : Nat) (w : Bool) (ks : List Word32) : Within R (stackPlaces n w ks) := by
  have hs := h.toSteps
  induction ks with
  | nil => exact within_pure hs _
  | cons k ks ih =>
    exact within_bind hs (within_get hs) fun _ => within_bind hs (within_dataAddresses h _ _ _ _) fun _ =>
      within_bind hs ih fun _ => within_pure hs _

theorem within_writeItems (h : AccessRel R) (n : Nat) (pss : List (List Nat)) (vs : List Nat) :
    Within R (writeItems n pss vs) := by
  induction pss generalizing vs with
  | nil => exact within_pure h.toSteps _
  | cons ps pss ih =>
    cases vs with
    | nil => exact within_pure h.toSteps _
    | cons v vs => exact within_bind h.toSteps (within_writeBytes h _ _) fun _ => ih vs

theorem within_pushAllRegisters (h : MachineRel R) : Within R pushAllRegisters := by
  unfold pushAllRegisters
  have hs := h.toSteps
  have hk := h.access
  repeat' first
    | with_reducible exact within_stackPlaces hk.toAccessRel _ _ _
    | with_reducible exact within_writeItems hk.toAccessRel _ _ _
    | exact within_update fun s => hk.sp s _
    | with_reducible exact within_raiseIf hs _ _
    | with_reducible apply within_whenever hs
    | with_reducible apply within_bySize h
    | with_reducible exact within_get hs
    | with_reducible apply within_bind hs
    | intro _

theorem within_loadItems (h : MachineRel R) (n : Nat) (pss : List (List Nat)) (rs : List (Option Reg)) :
    Within R (loadItems n pss rs) := by
  have hs := h.toSteps
  induction pss generalizing rs with
  | nil => exact within_pure hs _
  | cons ps pss ih =>
    cases rs with
    | nil => exact within_pure hs _
    | cons r rs =>
      refine within_bind hs (within_readBytes h.access.toAccessRel _) fun _ => within_bind hs ?_ fun _ => ih rs
      cases r with
      | some r => exact within_setRegister h _ _
      | none => exact within_pure hs _

theorem within_popAllRegisters (h : MachineRel R) : Within R popAllRegisters := by
  unfold popAllRegisters
  have hs := h.toSteps
  have hk := h.access
  repeat' first
    | with_reducible exact within_stackPlaces hk.toAccessRel _ _ _
    | with_reducible exact within_loadItems h _ _ _
    | exact within_update fun s => hk.sp s _
    | with_reducible apply within_bySize h
    | with_reducible apply within_bind hs
    | intro _

theorem within_v86Sensitive (h : MachineRel R) : Within R v86Sensitive := by
  unfold v86Sensitive
  have hs := h.toSteps
  repeat' first
    | with_reducible exact within_raiseIf hs _ _
    | with_reducible exact within_get hs
    | with_reducible apply within_bind hs
    | intro _

theorem within_pushFlags (h : MachineRel R) : Within R pushFlags := by
  unfold pushFlags
  have hs := h.toSteps
  have ha := h.access.toAccessRel
  have hk := h.access
  repeat' first
    | with_reducible exact within_draw ha
    | with_reducible exact within_push hk _ _
    | with_reducible apply within_v86Sensitive h
    | with_reducible exact within_get hs
    | with_reducible apply within_bind hs
    | with_reducible apply within_ite
    | intro _

theorem within_popFlags (h : MachineRel R) : Within R popFlags := by
  unfold popFlags
  have hs := h.toSteps
  have hk := h.access
  repeat' first
    | with_reducible exact within_pop hk _
    | with_reducible apply within_setFlags h
    | with_reducible apply within_v86Sensitive h
    | exact fun _ => rfl
    | with_reducible exact within_get hs
    | exact within_update fun s => h.cur s _
    | with_reducible apply within_bind hs
    | with_reducible apply within_ite
    | intro _

theorem within_loadPointer (h : MachineRel R) (sr : SegReg) (g : Reg) (m : Mem) : Within R (loadPointer sr g m) := by
  unfold loadPointer
  have hs := h.toSteps
  have ha := h.access.toAccessRel
  repeat' first
    | with_reducible exact within_segRead ha _ _ _
    | with_reducible apply within_loadSegment h
    | with_reducible apply within_bySize h
    | with_reducible apply within_setRegister h
    | with_reducible exact within_get hs
    | with_reducible apply within_bind hs
    | intro _

theorem within_translateByte (h : MachineRel R) : Within R translateByte := by
  unfold translateByte
  have hs := h.toSteps
  have ha := h.access.toAccessRel
  repeat' first
    | with_reducible exact within_segRead ha _ _ _
    | with_reducible apply within_setRegister8 h
    | with_reducible exact within_get hs
    | with_reducible apply within_bind hs
    | intro _

theorem within_ioRead (h : MachineRel R) (port : Word16) (n : Nat) : Within R (ioRead port n) := by
  exact fun s => h.ioTrace s _

theorem within_ioWrite (h : MachineRel R) (port : Word16) (n : Nat) (v : Word32) : Within R (ioWrite port n v) := by
  unfold ioWrite
  have hs := h.toSteps
  repeat' first
    | exact within_update fun s => h.ioTrace s _
    | with_reducible apply within_bind hs
    | intro _

theorem within_inputByte (h : MachineRel R) (port : Word16) : Within R (inputByte port) := by
  unfold inputByte
  have hs := h.toSteps
  repeat' first
    | with_reducible apply within_ioSensitive h
    | with_reducible apply within_setRegister8 h
    | with_reducible apply within_ioRead h
    | with_reducible apply within_bind hs
    | intro _

theorem within_inputWord (h : MachineRel R) (port : Word16) : Within R (inputWord port) := by
  unfold inputWord
  have hs := h.toSteps
  repeat' first
    | with_reducible apply within_ioSensitive h
    | with_reducible apply within_bySize h
    | with_reducible apply within_setRegister h
    | with_reducible apply within_ioRead h
    | with_reducible apply within_bind hs
    | intro _

theorem within_outputByte (h : MachineRel R) (port : Word16) : Within R (outputByte port) := by
  unfold outputByte
  have hs := h.toSteps
  repeat' first
    | with_reducible apply within_ioSensitive h
    | with_reducible apply within_ioWrite h
    | with_reducible exact within_get hs
    | with_reducible apply within_bind hs
    | intro _

theorem within_outputWord (h : MachineRel R) (port : Word16) : Within R (outputWord port) := by
  unfold outputWord
  have hs := h.toSteps
  repeat' first
    | with_reducible apply within_ioSensitive h
    | with_reducible apply within_bySize h
    | with_reducible apply within_ioWrite h
    | with_reducible exact within_get hs
    | with_reducible apply within_bind hs
    | intro _

theorem within_setFlagsFromAh (h : MachineRel R) : Within R setFlagsFromAh := by
  unfold setFlagsFromAh
  have hs := h.toSteps
  repeat' first
    | with_reducible apply within_setFlags h
    | exact fun _ => rfl
    | with_reducible exact within_get hs
    | with_reducible apply within_bind hs
    | intro _

theorem within_extendAccumulator (h : MachineRel R) : Within R extendAccumulator := by
  unfold extendAccumulator
  have hs := h.toSteps
  repeat' first
    | with_reducible apply within_setRegister h
    | with_reducible exact within_get hs
    | with_reducible apply within_bind hs
    | with_reducible apply within_ite
    | intro _

theorem within_spreadSign (h : MachineRel R) : Within R spreadSign := by
  unfold spreadSign
  have hs := h.toSteps
  repeat' first
    | with_reducible apply within_bySize h
    | with_reducible apply within_setRegister h
    | with_reducible exact within_get hs
    | with_reducible apply within_bind hs
    | with_reducible apply within_ite
    | intro _

theorem within_aluEb (h : MachineRel R) (op : Alu) (e : Rm Reg8) (src : M Byte) (hsrc : Within R src) :
    Within R (aluEb op e src) := by
  unfold aluEb
  have hs := h.toSteps
  repeat' first
    | with_reducible apply within_readRm8 h
    | with_reducible apply within_modifyRm8 h
    | with_reducible apply within_alu h
    | exact hsrc
    | with_reducible exact within_pure hs _
    | with_reducible apply within_bind hs
    | with_reducible apply within_ite
    | intro _

theorem within_aluEv (h : MachineRel R) (op : Alu) (e : Rm Reg) (src : (n : Nat) → M (BitVec n)) (hsrc : ∀ n, Within R (src n)) :
    Within R (aluEv op e src) := by
  unfold aluEv
  have hs := h.toSteps
  repeat' first
    | with_reducible apply within_readRm h
    | with_reducible apply within_modifyRm h
    | with_reducible apply within_bySize h
    | with_reducible apply within_alu h
    | exact hsrc _
    | with_reducible exact within_pure hs _
    | with_reducible apply within_bind hs
    | with_reducible apply within_ite
    | intro _

theorem within_aluGb (h : MachineRel R) (op : Alu) (g : Reg8) (e : Rm Reg8) : Within R (aluGb op g e) := by
  unfold aluGb
  have hs := h.toSteps
  repeat' first
    | with_reducible apply within_readRm8 h
    | with_reducible apply within_aluEb h
    | with_reducible apply within_bind hs
    | intro _

theorem within_aluGv (h : MachineRel R) (op : Alu) (g : Reg) (e : Rm Reg) : Within R (aluGv op g e) := by
  unfold aluGv
  have hs := h.toSteps
  repeat' first
    | with_reducible apply within_readRm h
    | with_reducible apply within_aluEv h
    | with_reducible apply within_bind hs
    | intro _

theorem within_testEb (h : MachineRel R) (e : Rm Reg8) (src : M Byte) (hsrc : Within R src) :
    Within R (testEb e src) := by
  unfold testEb
  have hs := h.toSteps
  repeat' first
    | with_reducible apply within_readRm8 h
    | with_reducible apply within_alu h
    | exact hsrc
    | with_reducible exact within_pure hs _
    | with_reducible apply within_bind hs
    | intro _

theorem within_testEv (h : MachineRel R) (e : Rm Reg) (src : (n : Nat) → M (BitVec n)) (hsrc : ∀ n, Within R (src n)) :
    Within R (testEv e src) := by
  unfold testEv
  have hs := h.toSteps
  repeat' first
    | with_reducible apply within_readRm h
    | with_reducible apply within_bySize h
    | with_reducible apply within_alu h
    | exact hsrc _
    | with_reducible exact within_pure hs _
    | with_reducible apply within_bind hs
    | intro _

theorem within_incValue (h : MachineRel R) {n : Nat} (v : BitVec n) : Within R (incValue v) := by
  unfold incValue
  have hs := h.toSteps
  repeat' first
    | with_reducible apply within_setFlags h
    | exact fun _ => rfl
    | with_reducible exact within_pure hs _
    | with_reducible apply within_bind hs
    | intro _

theorem within_decValue (h : MachineRel R) {n : Nat} (v : BitVec n) : Within R (decValue v) := by
  unfold decValue
  have hs := h.toSteps
  repeat' first
    | with_reducible apply within_setFlags h
    | exact fun _ => rfl
    | with_reducible exact within_pure hs _
    | with_reducible apply within_bind hs
    | intro _

theorem within_negValue (h : MachineRel R) {n : Nat} (v : BitVec n) : Within R (negValue v) := by
  unfold negValue
  have hs := h.toSteps
  repeat' first
    | with_reducible apply within_setFlags h
    | exact fun _ => rfl
    | with_reducible exact within_pure hs _
    | with_reducible apply within_bind hs
    | intro _

theorem within_productFlags (h : MachineRel R) (big : Bool) : Within R (productFlags big) := by
  unfold productFlags
  have hs := h.toSteps
  have ha := h.access.toAccessRel
  repeat' first
    | with_reducible exact within_draw ha
    | with_reducible apply within_setFlags h
    | exact fun _ => rfl
    | with_reducible apply within_bind hs
    | intro _

theorem within_multiply8 (h : MachineRel R) (signed : Bool) (e : Rm Reg8) : Within R (multiply8 signed e) := by
  unfold multiply8
  have hs := h.toSteps
  repeat' first
    | with_reducible apply within_readRm8 h
    | with_reducible apply within_setRegister h
    | with_reducible apply within_productFlags h
    | with_reducible exact within_get hs
    | with_reducible apply within_bind hs
    | intro _

theorem within_multiply (h : MachineRel R) (signed : Bool) (e : Rm Reg) : Within R (multiply signed e) := by
  unfold multiply
  have hs := h.toSteps
  repeat' first
    | with_reducible apply within_readRm h
    | with_reducible apply within_bySize h
    | with_reducible apply within_setRegister h
    | with_reducible apply within_productFlags h
    | with_reducible exact within_get hs
    | with_reducible apply within_bind hs
    | intro _

theorem within_imulTo (h : MachineRel R) (g : Reg) (e : Rm Reg) (src : (n : Nat) → M (BitVec n)) (hsrc : ∀ n, Within R (src n)) :
    Within R (imulTo g e src) := by
  unfold imulTo
  have hs := h.toSteps
  repeat' first
    | with_reducible apply within_readRm h
    | with_reducible apply within_bySize h
    | with_reducible apply within_setRegister h
    | with_reducible apply within_productFlags h
    | exact hsrc _
    | with_reducible apply within_bind hs
    | intro _

theorem within_undefinedFlags (h : MachineRel R) : Within R undefinedFlags := by
  unfold undefinedFlags
  have hs := h.toSteps
  have ha := h.access.toAccessRel
  repeat' first
    | with_reducible exact within_draw ha
    | with_reducible apply within_setFlags h
    | exact fun _ => rfl
    | with_reducible apply within_bind hs
    | intro _

theorem within_divide8 (h : MachineRel R) (e : Rm Reg8) : Within R (divide8 e) := by
  unfold divide8
  have hs := h.toSteps
  repeat' first
    | with_reducible exact within_raiseIf hs _ _
    | with_reducible apply within_readRm8 h
    | with_reducible apply within_setRegister8 h
    | with_reducible apply within_undefinedFlags h
    | with_reducible exact within_get hs
    | with_reducible apply within_bind hs
    | intro _

theorem within_divide (h : MachineRel R) (e : Rm Reg) : Within R (divide e) := by
  unfold divide
  have hs := h.toSteps
  repeat' first
    | with_reducible exact within_raiseIf hs _ _
    | with_reducible apply within_readRm h
    | with_reducible apply within_bySize h
    | with_reducible apply within_setRegister h
    | with_reducible apply within_undefinedFlags h
    | with_reducible exact within_get hs
    | with_reducible apply within_bind hs
    | intro _

theorem within_divideSigned8 (h : MachineRel R) (e : Rm Reg8) : Within R (divideSigned8 e) := by
  unfold divideSigned8
  have hs := h.toSteps
  repeat' first
    | with_reducible exact within_raiseIf hs _ _
    | with_reducible apply within_readRm8 h
    | with_reducible apply within_setRegister8 h
    | with_reducible apply within_undefinedFlags h
    | with_reducible exact within_get hs
    | with_reducible apply within_bind hs
    | intro _

theorem within_divideSigned (h : MachineRel R) (e : Rm Reg) : Within R (divideSigned e) := by
  unfold divideSigned
  have hs := h.toSteps
  repeat' first
    | with_reducible exact within_raiseIf hs _ _
    | with_reducible apply within_readRm h
    | with_reducible apply within_bySize h
    | with_reducible apply within_setRegister h
    | with_reducible apply within_undefinedFlags h
    | with_reducible exact within_get hs
    | with_reducible apply within_bind hs
    | intro _

theorem within_decimalAdjust (h : MachineRel R) (add : Bool) : Within R (decimalAdjust add) := by
  unfold decimalAdjust
  have hs := h.toSteps
  have ha := h.access.toAccessRel
  repeat' first
    | with_reducible exact within_draw ha
    | with_reducible apply within_setRegister8 h
    | with_reducible apply within_setFlags h
    | exact fun _ => rfl
    | with_reducible exact within_get hs
    | with_reducible apply within_bind hs
    | with_reducible apply within_ite
    | intro _

theorem within_asciiAdjust (h : MachineRel R) (add : Bool) : Within R (asciiAdjust add) := by
  unfold asciiAdjust
  have hs := h.toSteps
  have ha := h.access.toAccessRel
  repeat' first
    | with_reducible exact within_draw ha
    | with_reducible apply within_setRegister8 h
    | with_reducible apply within_setFlags h
    | exact fun _ => rfl
    | with_reducible exact within_get hs
    | with_reducible apply within_bind hs
    | with_reducible apply within_ite
    | intro _

theorem within_aamBy (h : MachineRel R) (base : Byte) : Within R (aamBy base) := by
  unfold aamBy
  have hs := h.toSteps
  have ha := h.access.toAccessRel
  repeat' first
    | with_reducible exact within_draw ha
    | with_reducible exact within_raiseIf hs _ _
    | with_reducible apply within_setRegister8 h
    | with_reducible apply within_setFlags h
    | exact fun _ => rfl
    | with_reducible exact within_get hs
    | with_reducible apply within_bind hs
    | intro _

theorem within_aadBy (h : MachineRel R) (base : Byte) : Within R (aadBy base) := by
  unfold aadBy
  have hs := h.toSteps
  have ha := h.access.toAccessRel
  repeat' first
    | with_reducible exact within_draw ha
    | with_reducible apply within_setRegister8 h
    | with_reducible apply within_setFlags h
    | exact fun _ => rfl
    | with_reducible exact within_get hs
    | with_reducible apply within_bind hs
    | intro _

theorem within_shiftEb (h : MachineRel R) (op : Shift) (e : Rm Reg8) (count : Byte) :
    Within R (shiftEb op e count) := by
  unfold shiftEb
  have hs := h.toSteps
  repeat' first
    | with_reducible apply within_modifyRm8 h
    | with_reducible apply within_touchRm8 h
    | with_reducible apply within_shift h
    | with_reducible apply within_bind hs
    | with_reducible apply within_ite
    | intro _

theorem within_shiftEv (h : MachineRel R) (op : Shift) (e : Rm Reg) (count : Byte) : Within R (shiftEv op e count) := by
  unfold shiftEv
  have hs := h.toSteps
  repeat' first
    | with_reducible apply within_modifyRm h
    | with_reducible apply within_touchRm h
    | with_reducible apply within_bySize h
    | with_reducible apply within_shift h
    | with_reducible apply within_bind hs
    | with_reducible apply within_ite
    | intro _

theorem within_shiftEbCl (h : MachineRel R) (op : Shift) (e : Rm Reg8) : Within R (shiftEbCl op e) := by
  unfold shiftEbCl
  have hs := h.toSteps
  repeat' first
    | with_reducible apply within_shiftEb h
    | with_reducible exact within_get hs
    | with_reducible apply within_bind hs
    | intro _

theorem within_shiftEvCl (h : MachineRel R) (op : Shift) (e : Rm Reg) : Within R (shiftEvCl op e) := by
  unfold shiftEvCl
  have hs := h.toSteps
  repeat' first
    | with_reducible apply within_shiftEv h
    | with_reducible exact within_get hs
    | with_reducible apply within_bind hs
    | intro _

theorem within_shiftDoubleEv (h : MachineRel R) (right : Bool) (e : Rm Reg) (g : Reg) (count : Byte) :
    Within R (shiftDoubleEv right e g count) := by
  unfold shiftDoubleEv
  have hs := h.toSteps
  repeat' first
    | with_reducible apply within_modifyRm h
    | with_reducible apply within_touchRm h
    | with_reducible apply within_bySize h
    | with_reducible apply within_shiftDouble h
    | with_reducible exact within_get hs
    | with_reducible apply within_bind hs
    | with_reducible apply within_ite
    | intro _

theorem within_shiftDoubleEvCl (h : MachineRel R) (right : Bool) (e : Rm Reg) (g : Reg) :
    Within R (shiftDoubleEvCl right e g) := by
  unfold shiftDoubleEvCl
  have hs := h.toSteps
  repeat' first
    | with_reducible apply within_shiftDoubleEv h
    | with_reducible exact within_get hs
    | with_reducible apply within_bind hs
    | intro _

theorem within_stepIndex (h : MachineRel R) (n : Nat) (r : Reg) : Within R (stepIndex n r) := by
  unfold stepIndex
  have hs := h.toSteps
  repeat' first
    | exact within_update fun s => h.index s _ _
    | with_reducible apply within_bind hs
    | with_reducible apply within_ite
    | intro _

theorem within_sourceElement (h : MachineRel R) (n : Nat) : Within R (sourceElement n) := by
  unfold sourceElement
  have hs := h.toSteps
  have ha := h.access.toAccessRel
  repeat' first
    | with_reducible exact within_segRead ha _ _ _
    | with_reducible exact within_pure hs _
    | with_reducible exact within_get hs
    | with_reducible apply within_bind hs
    | intro _

theorem within_destElement (h : MachineRel R) (n : Nat) : Within R (destElement n) := by
  unfold destElement
  have hs := h.toSteps
  have ha := h.access.toAccessRel
  repeat' first
    | with_reducible exact within_segRead ha _ _ _
    | with_reducible exact within_pure hs _
    | with_reducible exact within_get hs
    | with_reducible apply within_bind hs
    | intro _

theorem within_writeDest (h : MachineRel R) {n : Nat} (v : BitVec n) : Within R (writeDest v) := by
  unfold writeDest
  have hs := h.toSteps
  have ha := h.access.toAccessRel
  repeat' first
    | with_reducible exact within_segWrite ha _ _ _ _
    | with_reducible exact within_get hs
    | with_reducible apply within_bind hs
    | intro _

theorem within_accumulator (h : MachineRel R) (n : Nat) : Within R (accumulator n) := by
  unfold accumulator
  have hs := h.toSteps
  repeat' first
    | with_reducible exact within_reads hs _
    | with_reducible apply within_bind hs
    | intro _

theorem within_movsElement (h : MachineRel R) (n : Nat) : Within R (movsElement n) := by
  unfold movsElement
  have hs := h.toSteps
  repeat' first
    | with_reducible apply within_stepIndex h
    | with_reducible apply within_sourceElement h
    | with_reducible apply within_writeDest h
    | with_reducible apply within_bind hs
    | intro _

theorem within_cmpsElement (h : MachineRel R) (n : Nat) : Within R (cmpsElement n) := by
  unfold cmpsElement
  have hs := h.toSteps
  repeat' first
    | with_reducible apply within_setFlags h
    | with_reducible apply within_stepIndex h
    | with_reducible apply within_sourceElement h
    | with_reducible apply within_destElement h
    | exact fun _ => rfl
    | with_reducible apply within_bind hs
    | intro _

theorem within_scasElement (h : MachineRel R) (n : Nat) : Within R (scasElement n) := by
  unfold scasElement
  have hs := h.toSteps
  repeat' first
    | with_reducible apply within_setFlags h
    | with_reducible apply within_stepIndex h
    | with_reducible apply within_destElement h
    | with_reducible apply within_accumulator h
    | exact fun _ => rfl
    | with_reducible apply within_bind hs
    | intro _

theorem within_lodsElement (h : MachineRel R) (n : Nat) : Within R (lodsElement n) := by
  unfold lodsElement
  have hs := h.toSteps
  repeat' first
    | with_reducible apply within_setRegister h
    | with_reducible apply within_stepIndex h
    | with_reducible apply within_sourceElement h
    | with_reducible apply within_bind hs
    | intro _

theorem within_stosElement (h : MachineRel R) (n : Nat) : Within R (stosElement n) := by
  unfold stosElement
  have hs := h.toSteps
  repeat' first
    | with_reducible apply within_stepIndex h
    | with_reducible apply within_writeDest h
    | with_reducible apply within_accumulator h
    | with_reducible apply within_bind hs
    | intro _

theorem within_insElement (h : MachineRel R) (n : Nat) : Within R (insElement n) := by
  unfold insElement
  have hs := h.toSteps
  have ha := h.access.toAccessRel
  repeat' first
    | with_reducible exact within_segProbe ha _ _ _ _
    | with_reducible apply within_ioSensitive h
    | with_reducible apply within_ioRead h
    | with_reducible apply within_stepIndex h
    | with_reducible apply within_writeDest h
    | with_reducible exact within_get hs
    | with_reducible apply within_bind hs
    | intro _

theorem within_outsElement (h : MachineRel R) (n : Nat) : Within R (outsElement n) := by
  unfold outsElement
  have hs := h.toSteps
  repeat' first
    | with_reducible apply within_ioSensitive h
    | with_reducible apply within_ioWrite h
    | with_reducible apply within_stepIndex h
    | with_reducible apply within_sourceElement h
    | with_reducible exact within_get hs
    | with_reducible apply within_bind hs
    | intro _

theorem within_repeated (h : MachineRel R) (compares : Bool) (element : M Unit) (helement : Within R element) :
    Within R (repeated compares element) := by
  unfold repeated
  have hs := h.toSteps
  repeat' first
    | exact helement
    | with_reducible exact within_pure hs _
    | with_reducible exact within_get hs
    | exact within_update fun s => h.index s _ _
    | exact within_update fun s => h.cur s _
    | with_reducible apply within_bind hs
    | with_reducible apply within_ite
    | intro _

theorem within_bitFlags (h : MachineRel R) (b : Bool) : Within R (bitFlags b) := by
  unfold bitFlags
  have hs := h.toSteps
  have ha := h.access.toAccessRel
  repeat' first
    | with_reducible exact within_draw ha
    | with_reducible apply within_setFlags h
    | exact fun _ => rfl
    | with_reducible apply within_bind hs
    | intro _

theorem within_bitValue (h : MachineRel R) {n : Nat} (op : BitOp) (i : Nat) (v : BitVec n) :
    Within R (bitValue op i v) := by
  unfold bitValue
  have hs := h.toSteps
  repeat' first
    | with_reducible apply within_bitFlags h
    | with_reducible exact within_pure hs _
    | with_reducible apply within_bind hs
    | intro _

theorem within_bitInMemory (h : MachineRel R) (op : BitOp) (n : Nat) (r : SegReg) (off : Word32) (i : Nat) :
    Within R (bitInMemory op n r off i) := by
  unfold bitInMemory
  have hs := h.toSteps
  have ha := h.access.toAccessRel
  repeat' first
    | with_reducible exact within_segRead ha _ _ _
    | with_reducible apply within_modifyAt h
    | with_reducible apply within_bitValue h
    | with_reducible exact within_pure hs _
    | with_reducible apply within_bind hs
    | with_reducible apply within_ite
    | intro _

theorem within_bitInRegister (h : MachineRel R) (op : BitOp) (n : Nat) (r : Reg) (i : Nat) :
    Within R (bitInRegister op n r i) := by
  unfold bitInRegister
  have hs := h.toSteps
  repeat' first
    | with_reducible apply within_modifyRm h
    | with_reducible apply within_bitValue h
    | with_reducible apply within_bind hs
    | intro _

theorem within_bitByImmediate (h : MachineRel R) (op : BitOp) (e : Rm Reg) (imm : Byte) :
    Within R (bitByImmediate op e imm) := by
  unfold bitByImmediate
  have hs := h.toSteps
  repeat' first
    | with_reducible apply within_bySize h
    | with_reducible apply within_bitInMemory h
    | with_reducible apply within_bitInRegister h
    | with_reducible exact within_get hs
    | with_reducible apply within_bind hs
    | split
    | intro _

theorem within_bitByRegister (h : MachineRel R) (op : BitOp) (e : Rm Reg) (g : Reg) :
    Within R (bitByRegister op e g) := by
  unfold bitByRegister
  have hs := h.toSteps
  repeat' first
    | with_reducible apply within_bySize h
    | with_reducible apply within_bitInMemory h
    | with_reducible apply within_bitInRegister h
    | with_reducible exact within_get hs
    | with_reducible apply within_bind hs
    | split
    | intro _

theorem within_bitScan (h : MachineRel R) (reverse : Bool) (g : Reg) (e : Rm Reg) : Within R (bitScan reverse g e) := by
  unfold bitScan
  have hs := h.toSteps
  have ha := h.access.toAccessRel
  repeat' first
    | with_reducible exact within_draw ha
    | with_reducible apply within_readRm h
    | with_reducible apply within_bySize h
    | with_reducible apply within_setRegister h
    | with_reducible apply within_setFlags h
    | exact fun _ => rfl
    | with_reducible apply within_bind hs
    | with_reducible apply within_ite
    | intro _

theorem within_jumpRelative (h : MachineRel R) (rel : Word32) : Within R (jumpRelative rel) := by
  unfold jumpRelative
  have hs := h.toSteps
  repeat' first
    | with_reducible apply within_jumpTo h
    | with_reducible exact within_get hs
    | with_reducible apply within_bind hs
    | intro _

theorem within_jumpIf (h : MachineRel R) (c : State → Bool) (rel : Word32) : Within R (jumpIf c rel) := by
  unfold jumpIf
  have hs := h.toSteps
  repeat' first
    | with_reducible apply within_jumpTo h
    | with_reducible exact within_pure hs _
    | with_reducible exact within_get hs
    | with_reducible apply within_bind hs
    | with_reducible apply within_ite
    | intro _

theorem within_loopIf (h : MachineRel R) (c : State → Bool) (rel : Byte) : Within R (loopIf c rel) := by
  unfold loopIf
  have hs := h.toSteps
  repeat' first
    | with_reducible apply within_jumpIf h
    | exact within_update fun s => h.index s _ _
    | with_reducible apply within_bind hs
    | intro _

theorem within_callNear (h : MachineRel R) (n : Nat) (target : Word32) : Within R (callNear n target) := by
  unfold callNear
  have hs := h.toSteps
  have hk := h.access
  repeat' first
    | with_reducible exact within_push hk _ _
    | with_reducible exact within_raiseIf hs _ _
    | with_reducible apply within_jumpTo h
    | with_reducible exact within_get hs
    | with_reducible apply within_bind hs
    | intro _

theorem within_callRelative (h : MachineRel R) (rel : Word32) : Within R (callRelative rel) := by
  unfold callRelative
  have hs := h.toSteps
  repeat' first
    | with_reducible apply within_bySize h
    | with_reducible apply within_callNear h
    | with_reducible exact within_get hs
    | with_reducible apply within_bind hs
    | intro _

theorem within_returnNear (h : MachineRel R) (imm : Word16) : Within R (returnNear imm) := by
  unfold returnNear
  have hs := h.toSteps
  have hk := h.access
  repeat' first
    | with_reducible exact within_pop hk _
    | with_reducible apply within_jumpTo h
    | with_reducible apply within_bySize h
    | exact within_update fun s => h.access.sp s _
    | with_reducible apply within_bind hs
    | intro _

theorem within_checkCallGate (h : MachineRel R) (gsel : Word16) (g : Desc) : Within R (checkCallGate gsel g) := by
  unfold checkCallGate
  have hs := h.toSteps
  repeat' first
    | with_reducible exact within_raiseIf hs _ _
    | with_reducible apply within_readDesc h
    | with_reducible exact within_pure hs _
    | with_reducible exact within_get hs
    | with_reducible apply within_bind hs
    | intro _

theorem within_readParameters (h : MachineRel R) (size : Nat) (x0 : Nat) (x1 : Nat) :
    Within R (readParameters size x0 x1) := by
  have ha := h.access.toAccessRel
  induction x0 generalizing x1 with
  | zero => exact within_pure h.toSteps _
  | succ k ih =>
    exact within_bind h.toSteps (within_stackRead ha _ _) fun _ =>
      within_bind h.toSteps (ih _) fun _ => within_pure h.toSteps _

theorem within_callInner (h : MachineRel R) (isz count : Nat) (csel : Word16) (d : Desc) (off : Word32) :
    WithinP R (callInner isz count csel d off) := by
  unfold callInner
  have hs := h.toSteps
  have hk := h.access
  repeat' first
    | with_reducible apply within_enterCode h
    | exact withinP_update fun s hp => h.codeMode s hp _ s.pc s.flags _ s.cur
    | with_reducible exact Within.p (within_pushAll hk _ _)
    | with_reducible exact Within.p (within_raiseIf hs _ _)
    | with_reducible exact Within.p (within_markAccessed h _ _)
    | with_reducible exact Within.p (within_innerStackSegment h _ _)
    | with_reducible exact Within.p (within_innerStack h _)
    | with_reducible exact Within.p (within_readParameters h _ _ _)
    | with_reducible exact Within.p (within_get hs)
    | exact Within.p (within_update fun s => h.access.sp s _)
    | with_reducible apply withinP_bind h
    | split
    | intro _

theorem within_callSame (h : MachineRel R) (isz : Nat) (csel : Word16) (d : Desc) (off : Word32) :
    WithinP R (callSame isz csel d off) := by
  unfold callSame
  have hs := h.toSteps
  have hk := h.access
  repeat' first
    | with_reducible apply within_enterCode h
    | with_reducible exact Within.p (within_pushAll hk _ _)
    | with_reducible exact Within.p (within_raiseIf hs _ _)
    | with_reducible exact Within.p (within_get hs)
    | with_reducible apply withinP_bind h
    | intro _

theorem within_callGate (h : MachineRel R) (gsel : Word16) (g : Desc) : WithinP R (callGate gsel g) := by
  unfold callGate
  have hs := h.toSteps
  repeat' first
    | with_reducible apply within_callInner h
    | with_reducible apply within_callSame h
    | with_reducible exact Within.p (within_checkCallGate h _ _)
    | with_reducible exact Within.p (within_get hs)
    | with_reducible apply withinP_bind h
    | with_reducible apply withinP_ite
    | intro _

theorem within_jumpGate (h : MachineRel R) (gsel : Word16) (g : Desc) : WithinP R (jumpGate gsel g) := by
  unfold jumpGate
  have hs := h.toSteps
  repeat' first
    | with_reducible apply within_enterCode h
    | with_reducible exact Within.p (within_raiseIf hs _ _)
    | with_reducible exact Within.p (within_checkCallGate h _ _)
    | with_reducible exact Within.p (within_get hs)
    | with_reducible apply withinP_bind h
    | intro _

theorem within_farCode (h : MachineRel R) (call : Bool) (sel : Word16) (d : Desc) (off : Word32) :
    WithinP R (farCode call sel d off) := by
  unfold farCode
  have hs := h.toSteps
  have hk := h.access
  repeat' first
    | with_reducible apply within_enterCode h
    | with_reducible exact Within.p (within_pushAll hk _ _)
    | with_reducible exact Within.p (within_raiseIf hs _ _)
    | with_reducible exact Within.p (within_pure hs _)
    | with_reducible exact Within.p (within_get hs)
    | with_reducible apply withinP_bind h
    | with_reducible apply withinP_ite
    | apply Within.p; apply within_whenever hs
    | with_reducible exact within_pushAll hk _ _
    | with_reducible exact within_raiseIf hs _ _
    | with_reducible exact within_pure hs _
    | with_reducible exact within_get hs
    | with_reducible apply within_bind hs
    | intro _

theorem within_farProtected (h : MachineRel R) (call : Bool) (sel : Word16) (off : Word32) :
    WithinP R (farProtected call sel off) := by
  unfold farProtected
  have hs := h.toSteps
  repeat' first
    | with_reducible apply within_taskSwitch h
    | with_reducible apply within_callGate h
    | with_reducible apply within_jumpGate h
    | with_reducible apply within_farCode h
    | with_reducible exact Within.p (within_raiseIf hs _ _)
    | with_reducible exact Within.p (within_raise hs _)
    | with_reducible exact Within.p (within_readDesc h _ _)
    | with_reducible exact Within.p (within_get hs)
    | with_reducible apply withinP_bind h
    | with_reducible apply withinP_ite
    | intro _

theorem within_farTransfer (h : MachineRel R) (call : Bool) (sel : Word16) (off : Word32) :
    Within R (farTransfer call sel off) := by
  have hk := h.access
  refine within_protected (fun _ => within_farProtected h _ _ _) fun _ => ?_
  exact within_bind h.toSteps (within_whenever h.toSteps (within_pushAll hk _ _)) fun _ => within_enterRealCode h _ _

theorem within_farIndirect (h : MachineRel R) (call : Bool) (m : Mem) : Within R (farIndirect call m) := by
  unfold farIndirect
  have hs := h.toSteps
  have ha := h.access.toAccessRel
  repeat' first
    | with_reducible exact within_segRead ha _ _ _
    | with_reducible apply within_bySize h
    | with_reducible apply within_farTransfer h
    | with_reducible exact within_get hs
    | with_reducible apply within_bind hs
    | intro _

theorem within_returnFar (h : MachineRel R) (imm : Word16) : Within R (returnFar imm) := by
  have ha := h.access.toAccessRel
  refine within_bySize h _ fun n => within_bind h.toSteps (within_stackRead ha _ _) fun _ =>
    within_bind h.toSteps (within_stackRead ha _ _) fun _ =>
      within_protected (fun _ => within_returnProtected h _ _ _ _ _) fun _ => ?_
  exact within_bind h.toSteps (within_enterRealCode h _ _) fun _ => within_update fun s => h.access.sp s _

theorem within_copyFrames (h : MachineRel R) (n : Nat) (x0 : Nat) : Within R (copyFrames n x0) := by
  have ha := h.access.toAccessRel
  induction x0 with
  | zero => exact within_pure h.toSteps _
  | succ k ih =>
    exact within_bind h.toSteps (within_update fun s => h.gpr s _) fun _ =>
      within_bind h.toSteps (within_get h.toSteps) fun _ => within_bind h.toSteps (within_segRead ha _ _ _) fun _ =>
        within_bind h.toSteps (within_push h.access _ _) fun _ => ih

theorem within_pushDisplay (h : MachineRel R) (n depth : Nat) (frame : Word32) :
    Within R (pushDisplay n depth frame) := by
  unfold pushDisplay
  have hs := h.toSteps
  have hk := h.access
  repeat' first
    | with_reducible exact within_push hk _ _
    | with_reducible apply within_copyFrames h
    | with_reducible exact within_pure hs _
    | with_reducible apply within_bind hs
    | with_reducible apply within_ite
    | intro _

theorem within_enterFrame (h : MachineRel R) (size : Word16) (level : Byte) : Within R (enterFrame size level) := by
  unfold enterFrame
  have hs := h.toSteps
  have hk := h.access
  repeat' first
    | with_reducible exact within_push hk _ _
    | with_reducible exact within_reads hs _
    | with_reducible exact within_probePushes hk.toAccessRel _ _ _
    | with_reducible apply within_bySize h
    | with_reducible apply within_setRegister h
    | with_reducible apply within_pushDisplay h
    | with_reducible exact within_get hs
    | exact within_update fun s => h.access.sp s _
    | with_reducible apply within_bind hs
    | intro _

theorem within_leaveFrame (h : MachineRel R) : Within R leaveFrame := by
  unfold leaveFrame
  have hs := h.toSteps
  have hk := h.access
  repeat' first
    | with_reducible exact within_pop hk _
    | with_reducible apply within_bySize h
    | with_reducible apply within_setRegister h
    | exact within_update fun s => h.access.sp s _
    | with_reducible apply within_bind hs
    | intro _

theorem within_checkBound (h : MachineRel R) (g : Reg) (m : Mem) : Within R (checkBound g m) := by
  unfold checkBound
  have hs := h.toSteps
  have ha := h.access.toAccessRel
  repeat' first
    | with_reducible exact within_segRead ha _ _ _
    | with_reducible exact within_raiseIf hs _ _
    | with_reducible apply within_bySize h
    | with_reducible exact within_get hs
    | with_reducible apply within_bind hs
    | intro _

theorem within_storeTable (h : MachineRel R) (m : Mem) (f : State → TableReg) : Within R (storeTable m f) := by
  unfold storeTable
  have hs := h.toSteps
  have ha := h.access.toAccessRel
  repeat' first
    | with_reducible exact within_draw ha
    | with_reducible exact within_segWrite ha _ _ _ _
    | with_reducible exact within_get hs
    | with_reducible apply within_bind hs
    | with_reducible apply within_ite
    | intro _

theorem within_storeSystem (h : MachineRel R) (e : Rm Reg) (f : State → Word16) : Within R (storeSystem e f) := by
  unfold storeSystem
  have hs := h.toSteps
  repeat' first
    | with_reducible apply within_protectedOnly h
    | with_reducible apply within_writeRm h
    | with_reducible exact within_get hs
    | with_reducible apply within_bind hs
    | intro _

theorem within_level0 (h : MachineRel R) : Within R level0 := by
  unfold level0
  have hs := h.toSteps
  repeat' first
    | with_reducible exact within_raiseIf hs _ _
    | with_reducible exact within_get hs
    | with_reducible apply within_bind hs
    | intro _

theorem within_loadLdtr (h : MachineRel R) (e : Rm Reg) : Within R (loadLdtr e) := by
  unfold loadLdtr
  have hs := h.toSteps
  repeat' first
    | with_reducible exact within_raiseIf hs _ _
    | with_reducible apply within_readDesc h
    | with_reducible apply within_protectedOnly h
    | with_reducible apply within_readRm h
    | with_reducible apply within_level0 h
    | exact within_update fun s => h.ldtr s _
    | with_reducible apply within_bind hs
    | with_reducible apply within_ite
    | intro _

theorem within_loadTr (h : MachineRel R) (e : Rm Reg) : Within R (loadTr e) := by
  unfold loadTr
  have hs := h.toSteps
  repeat' first
    | with_reducible exact within_raiseIf hs _ _
    | with_reducible apply within_readDesc h
    | with_reducible apply within_setBusy h
    | with_reducible apply within_protectedOnly h
    | with_reducible apply within_readRm h
    | with_reducible apply within_level0 h
    | exact within_update fun s => h.tr s _
    | with_reducible apply within_bind hs
    | intro _

theorem within_cr0Image (h : MachineRel R) : Within R cr0Image := by
  unfold cr0Image
  have hs := h.toSteps
  have ha := h.access.toAccessRel
  repeat' first
    | with_reducible exact within_draw ha
    | with_reducible exact within_pure hs _
    | with_reducible exact within_get hs
    | with_reducible apply within_bind hs
    | intro _

theorem within_storeMsw (h : MachineRel R) (e : Rm Reg) : Within R (storeMsw e) := by
  unfold storeMsw
  have hs := h.toSteps
  repeat' first
    | with_reducible apply within_writeRm h
    | with_reducible apply within_cr0Image h
    | with_reducible apply within_bind hs
    | intro _

theorem within_undefinedStatus (h : MachineRel R) : Within R undefinedStatus := by
  unfold undefinedStatus
  have hs := h.toSteps
  have ha := h.access.toAccessRel
  repeat' first
    | with_reducible exact within_draw ha
    | with_reducible apply within_setFlags h
    | exact fun _ => rfl
    | with_reducible apply within_bind hs
    | intro _

theorem within_loadCr3 (h : MachineRel R) (v : Word32) : Within R (loadCr3 v) := by
  unfold loadCr3
  have hs := h.toSteps
  repeat' first
    | with_reducible exact within_pure hs _
    | with_reducible exact within_get hs
    | exact within_update fun s => h.stale s _
    | exact within_update fun s => h.tlbCr3 s _
    | apply within_whenever hs
    | with_reducible apply within_bind hs
    | intro _

theorem within_readControl (h : MachineRel R) (n : BitVec 3) (r : Reg) : Within R (readControl n r) := by
  unfold readControl
  have hs := h.toSteps
  repeat' first
    | with_reducible exact within_raiseIf hs _ _
    | with_reducible apply within_privileged h
    | with_reducible apply within_cr0Image h
    | with_reducible apply within_undefinedStatus h
    | with_reducible exact within_pure hs _
    | with_reducible exact within_get hs
    | exact within_update fun s => h.gpr s _
    | with_reducible apply within_bind hs
    | with_reducible apply within_ite
    | intro _

theorem within_withReserved (h : MachineRel R) (v mask : Word32) : Within R (withReserved v mask) := by
  unfold withReserved
  have hs := h.toSteps
  have ha := h.access.toAccessRel
  repeat' first
    | with_reducible exact within_draw ha
    | with_reducible exact within_pure hs _
    | with_reducible apply within_bind hs
    | intro _

theorem within_readDebug (h : MachineRel R) (n : BitVec 3) (r : Reg) : Within R (readDebug n r) := by
  unfold readDebug
  have hs := h.toSteps
  repeat' first
    | with_reducible exact within_raiseIf hs _ _
    | with_reducible apply within_privileged h
    | with_reducible apply within_undefinedStatus h
    | with_reducible apply within_withReserved h
    | with_reducible exact within_pure hs _
    | with_reducible exact within_get hs
    | exact within_update fun s => h.gpr s _
    | with_reducible apply within_bind hs
    | split
    | intro _

theorem within_readTest (h : MachineRel R) (n : BitVec 3) (r : Reg) : Within R (readTest n r) := by
  unfold readTest
  have hs := h.toSteps
  repeat' first
    | with_reducible exact within_raiseIf hs _ _
    | with_reducible apply within_privileged h
    | with_reducible apply within_undefinedStatus h
    | with_reducible apply within_withReserved h
    | with_reducible exact within_get hs
    | exact within_update fun s => h.gpr s _
    | with_reducible apply within_bind hs
    | with_reducible apply within_ite
    | intro _

theorem within_adjustRpl (h : MachineRel R) (e : Rm Reg) (g : Reg) : Within R (adjustRpl e g) := by
  unfold adjustRpl
  have hs := h.toSteps
  repeat' first
    | with_reducible apply within_protectedOnly h
    | with_reducible apply within_readRm h
    | with_reducible apply within_writeRm h
    | with_reducible apply within_setFlags h
    | exact fun _ => rfl
    | with_reducible exact within_get hs
    | with_reducible apply within_bind hs
    | with_reducible apply within_ite
    | intro _

theorem within_attempt {α : Type} {m : M α} (hm : Within R m) : Within R (attempt m) := by
  intro s
  have h := hm s
  unfold attempt
  cases hr : m s <;> rw [hr] at h <;> exact h

theorem within_visible (h : MachineRel R) (sel : Word16) : Within R (visible sel) :=
  have hs := h.toSteps
  within_ite (within_pure hs _) (within_bind hs (within_get hs) fun _ =>
    within_bind hs (within_attempt (within_readDesc h _ _)) fun _ => within_pure hs _)

theorem within_verify (h : MachineRel R) (e : Rm Reg) (ok : Desc → Bool) : Within R (verify e ok) := by
  unfold verify
  have hs := h.toSteps
  repeat' first
    | with_reducible apply within_protectedOnly h
    | with_reducible apply within_readRm h
    | with_reducible apply within_setFlags h
    | with_reducible apply within_visible h
    | exact fun _ => rfl
    | with_reducible apply within_bind hs
    | split
    | intro _

theorem within_rights (h : MachineRel R) (d : Desc) (is32 : Bool) : Within R (d.rights is32) :=
  have hs := h.toSteps
  within_ite (within_pure hs _) (within_ite (within_pure hs _)
    (within_bind hs (within_draw h.access.toAccessRel) fun _ => within_pure hs _))

theorem within_loadFromDesc (h : MachineRel R) (g : Reg) (e : Rm Reg) (types : List Nat) (value : Desc → Bool → M Word32)
    (hv : ∀ (d : Desc) (is32 : Bool), Within R (value d is32)) : Within R (loadFromDesc g e types value) := by
  unfold loadFromDesc
  have hs := h.toSteps
  repeat' first
    | with_reducible apply within_protectedOnly h
    | with_reducible apply within_readRm h
    | with_reducible apply within_bySize h
    | with_reducible apply within_setRegister h
    | with_reducible apply within_setFlags h
    | with_reducible apply within_visible h
    | with_reducible exact hv _ _
    | exact fun _ => rfl
    | with_reducible exact within_get hs
    | with_reducible apply within_bind hs
    | split
    | intro _

theorem within_loadLimit (h : MachineRel R) (g : Reg) (e : Rm Reg) : Within R (loadLimit g e) :=
  within_loadFromDesc h _ _ _ _ fun _ _ => within_pure h.toSteps _

theorem within_loadRights (h : MachineRel R) (g : Reg) (e : Rm Reg) : Within R (loadRights g e) :=
  within_loadFromDesc h _ _ _ _ (within_rights h)

theorem within_notePrefix (h : MachineRel R) (f : Latch → Latch) : Within R (notePrefix f) := by
  unfold notePrefix
  have hs := h.toSteps
  repeat' first
    | exact within_update fun s => h.cur s _
    | with_reducible apply within_bind hs
    | intro _

theorem within_escape (h : MachineRel R) (_hi _op : BitVec 3) (e : Rm Reg) : Within R (escape _hi _op e) := by
  unfold escape
  have hs := h.toSteps
  repeat' first
    | with_reducible exact within_segProbe h.access.toAccessRel _ _ _ _
    | with_reducible exact within_raiseIf hs _ _
    | with_reducible exact within_pure hs _
    | with_reducible exact within_get hs
    | with_reducible apply within_bind hs
    | split
    | intro _

theorem within_waitCoprocessor (h : MachineRel R) : Within R waitCoprocessor := by
  unfold waitCoprocessor
  have hs := h.toSteps
  repeat' first
    | with_reducible exact within_raiseIf hs _ _
    | with_reducible exact within_get hs
    | with_reducible apply within_bind hs
    | intro _

end Sys2Proof.Machine
end

