-- ==== Sys2Proof/Laws/Run.lean ====
section
/-! SUPPORT. A whole instruction, the taking of what ended it, instruction fetch and a whole step stay within the relations of `MachineRel`. -/

namespace Sys2Proof.Machine

variable {R : State → State → Prop}

/-- If the outcome is a next state, it is related to `s` by `R`. -/
def NextWithin (R : State → State → Prop) (s : State) (o : Host.Outcome State Fault Refusal) : Prop :=
  ∀ t, o = .next t → R s t

theorem NextWithin.next {s t : State} (h : R s t) : NextWithin R s (.next t) := by
  rintro _ ⟨⟩
  exact h

theorem NextWithin.fault {s : State} {f : Fault} : NextWithin R s (.fault f) := by
  rintro _ ⟨⟩

theorem NextWithin.refused {s : State} {r : Refusal} : NextWithin R s (.refused r) := by
  rintro _ ⟨⟩

theorem NextWithin.after (h : Steps R) {s t : State} {o : Host.Outcome State Fault Refusal} (hst : R s t)
    (ho : NextWithin R t o) : NextWithin R s o := fun u hu => h.trans hst (ho u hu)

/-- What the page walker did is kept. -/
theorem rel_replayWalk (h : MachineRel R) (w : List Host.Cell) (s : State) :
    R s { s with mem := replayWalk w s.mem } := by
  induction w with
  | nil => exact h.refl s
  | cons c w ih => exact h.trans ih (h.mem { s with mem := replayWalk w s.mem } _ _)

theorem rel_unwind (h : MachineRel R) {s t : State} (hst : R s t) : R s (unwind s t) := by
  unfold unwind
  split
  · exact h.trans hst (h.cur t _)
  · refine h.trans (rel_replayWalk h t.cur.walk s) ?_
    refine h.trans (h.tlb _ t.tlb) ?_
    refine h.trans (h.draws _ t.draws) ?_
    exact h.cur _ Latch.idle

theorem rel_settle (h : MachineRel R) (s : State) : R s s.settle :=
  h.trans (h.cur s Latch.idle) (h.trans (h.stale _ []) (h.repActive _ false))

theorem rel_shutDown (h : MachineRel R) (s : State) : R s s.shutDown :=
  h.trans (rel_settle h s) (h.run s.settle _)

/-- What a completion changes besides the flags and `pc`. -/
theorem rel_finish (h : MachineRel R) (s : State) (p : Word32) (f : Flags) (d : Word32) (b r : Bool)
    (q : List StaleByte) (c : Latch) (hf : f.vm = s.flags.vm) (hd : d = s.dr6 ∨ d = s.dr6 ||| 0x4000) :
    R s { s with pc := p, flags := f, dr6 := d, dbgPending := b, repActive := r, stale := q, cur := c } := by
  have h1 := h.trans (h.jump s p c) (h.flags { s with pc := p, cur := c } f hf)
  have h2 := h.trans h1 (h.stale { s with pc := p, flags := f, cur := c } q)
  have h3 := h.trans h2 (h.repActive { s with pc := p, flags := f, stale := q, cur := c } r)
  rcases hd with hd | hd <;> subst hd
  · exact h.trans h3 (h.dbgPending { s with pc := p, flags := f, repActive := r, stale := q, cur := c } b)
  · exact h.trans h3 (h.trap { s with pc := p, flags := f, repActive := r, stale := q, cur := c } 0x4000 b (by decide))

/-- The completion of an instruction is one of the changes. -/
theorem rel_complete (h : MachineRel R) (s : State) (tf : Bool) : R s (s.complete tf) := by
  refine rel_finish h s _ _ _ _ _ _ _ rfl ?_
  split
  · exact .inr rfl
  · exact .inl rfl

theorem next_onExc (h : MachineRel R) {again : State → Byte → Option Word16 → Host.Outcome State Fault Refusal}
    {s b : State} (hb : R s b) (ha : ∀ c v err, R s c → NextWithin R s (again c v err)) (x : Exc) :
    NextWithin R s (b.onExc again x) := by
  cases x with
  | vector v err => exact ha b v err hb
  | pageFault lin code => exact ha _ _ _ (h.trans hb (h.cr2 b lin))
  | shutdown => exact .next (h.trans hb (rel_shutDown h b))
  | stop f => exact .fault
  | refuse r => exact .refused

theorem next_deliverFrom (h : MachineRel R) (fuel : Nat) (s : State) (e : Event) :
    NextWithin R s (deliverFrom fuel s e) := by
  induction fuel generalizing s e with
  | zero => exact .fault
  | succ fuel ih =>
    have hd := within_deliver h e s
    rw [deliverFrom]
    cases hr : deliver e s with
    | ok _ t => rw [hr] at hd; exact .next (h.trans hd (rel_settle h t))
    | error x t =>
      rw [hr] at hd
      refine next_onExc h (h.trans (rel_unwind h hd) (h.noteRestart _ t x)) (fun c v err hc => ?_) _
      split
      · exact .next (h.trans hc (rel_shutDown h c))
      · exact .after h.toSteps hc (ih c _)

theorem next_takeExc (h : MachineRel R) {s t : State} (hst : R s t) (x : Exc) : NextWithin R s (takeExc s t x) :=
  next_onExc h (h.trans (rel_unwind h hst) (h.noteRestart _ t x)) (fun _ _ _ hc => .after h.toSteps hc (next_deliverFrom h _ _ _)) x

/-- An instruction whose meaning stays within `R` does so whether it completes or not. -/
theorem next_runInstr (h : MachineRel R) {m : M Unit} (hm : Within R m) (s : State) : NextWithin R s (runInstr m s) := by
  have h1 := hm s
  unfold runInstr
  cases hr : m s with
  | ok _ t => rw [hr] at h1; exact .next (h.trans h1 (rel_complete h t _))
  | error x t => rw [hr] at h1; exact next_takeExc h h1 x

theorem next_runPrefix (h : MachineRel R) {m : M Unit} (hm : Within R m) (s : State) : NextWithin R s (runPrefix m s) := by
  have h1 := hm s
  unfold runPrefix
  cases hr : m s with
  | ok _ t => rw [hr] at h1; exact .next (h.trans h1 (h.cur t _))
  | error x t => rw [hr] at h1; exact next_takeExc h h1 x

/-- The instructions that load a register which only privileged instructions write. -/
def loadsSystem : Instr → Bool
  | .lgdtMs _ | .lidtMs _ | .lmswEw _ | .movCrR _ _ _ | .movDrR _ _ _ | .movTrR _ _ _ => true
  | _ => false

set_option maxHeartbeats 4000000 in
/-- Every instruction that loads no such register stays within `R`. -/
theorem next_exec (h : MachineRel R) (i : Instr) (hi : loadsSystem i = false) (s : State) : NextWithin R s (exec i s) := by
  have hs := h.toSteps
  have hk := h.access
  unfold exec
  cases i <;> dsimp only <;> first
    | exact Bool.noConfusion (hi : true = false)
    | exact next_runPrefix h (within_notePrefix h _) s
    | (first | refine next_runInstr h ?_ s | refine next_runPrefix h ?_ s)
      repeat' first
        | with_reducible apply within_loadSegment h
        | with_reducible apply within_jumpTo h
        | with_reducible apply within_interruptReturn h
        | with_reducible apply within_softwareInterrupt h
        | with_reducible apply within_privileged h
        | with_reducible apply within_ioSensitive h
        | with_reducible apply within_readRm8 h
        | with_reducible apply within_writeRm8 h
        | with_reducible apply within_modifyRm8 h
        | with_reducible apply within_readRm h
        | with_reducible apply within_writeRm h
        | with_reducible apply within_modifyRm h
        | with_reducible apply within_bySize h
        | with_reducible apply within_setRegister h
        | with_reducible apply within_setRegister8 h
        | with_reducible apply within_setFlags h
        | with_reducible apply within_readDirect h
        | with_reducible apply within_writeDirect h
        | with_reducible apply within_storeSegment h
        | with_reducible apply within_exchange8 h
        | with_reducible apply within_exchange h
        | with_reducible apply within_pushSegment h
        | with_reducible apply within_popSegment h
        | with_reducible apply within_pushAllRegisters h
        | with_reducible apply within_popAllRegisters h
        | with_reducible apply within_pushFlags h
        | with_reducible apply within_popFlags h
        | with_reducible apply within_loadPointer h
        | with_reducible apply within_translateByte h
        | with_reducible apply within_inputByte h
        | with_reducible apply within_inputWord h
        | with_reducible apply within_outputByte h
        | with_reducible apply within_outputWord h
        | with_reducible apply within_setFlagsFromAh h
        | with_reducible apply within_extendAccumulator h
        | with_reducible apply within_spreadSign h
        | with_reducible apply within_aluEb h
        | with_reducible apply within_aluEv h
        | with_reducible apply within_aluGb h
        | with_reducible apply within_aluGv h
        | with_reducible apply within_testEb h
        | with_reducible apply within_testEv h
        | with_reducible apply within_incValue h
        | with_reducible apply within_decValue h
        | with_reducible apply within_negValue h
        | with_reducible apply within_multiply8 h
        | with_reducible apply within_multiply h
        | with_reducible apply within_imulTo h
        | with_reducible apply within_divide8 h
        | with_reducible apply within_divide h
        | with_reducible apply within_divideSigned8 h
        | with_reducible apply within_divideSigned h
        | with_reducible apply within_decimalAdjust h
        | with_reducible apply within_asciiAdjust h
        | with_reducible apply within_aamBy h
        | with_reducible apply within_aadBy h
        | with_reducible apply within_shiftEb h
        | with_reducible apply within_shiftEv h
        | with_reducible apply within_shiftEbCl h
        | with_reducible apply within_shiftEvCl h
        | with_reducible apply within_shiftDoubleEv h
        | with_reducible apply within_shiftDoubleEvCl h
        | with_reducible apply within_movsElement h
        | with_reducible apply within_cmpsElement h
        | with_reducible apply within_scasElement h
        | with_reducible apply within_lodsElement h
        | with_reducible apply within_stosElement h
        | with_reducible apply within_insElement h
        | with_reducible apply within_outsElement h
        | with_reducible apply within_repeated h
        | with_reducible apply within_bitByImmediate h
        | with_reducible apply within_bitByRegister h
        | with_reducible apply within_bitScan h
        | with_reducible apply within_jumpRelative h
        | with_reducible apply within_jumpIf h
        | with_reducible apply within_loopIf h
        | with_reducible apply within_callNear h
        | with_reducible apply within_callRelative h
        | with_reducible apply within_returnNear h
        | with_reducible apply within_farTransfer h
        | with_reducible apply within_farIndirect h
        | with_reducible apply within_returnFar h
        | with_reducible apply within_enterFrame h
        | with_reducible apply within_leaveFrame h
        | with_reducible apply within_checkBound h
        | with_reducible apply within_storeTable h
        | with_reducible apply within_storeSystem h
        | with_reducible apply within_loadLdtr h
        | with_reducible apply within_loadTr h
        | with_reducible apply within_storeMsw h
        | with_reducible apply within_readControl h
        | with_reducible apply within_readDebug h
        | with_reducible apply within_readTest h
        | with_reducible apply within_adjustRpl h
        | with_reducible apply within_verify h
        | with_reducible apply within_loadLimit h
        | with_reducible apply within_loadRights h
        | with_reducible apply within_notePrefix h
        | with_reducible apply within_escape h
        | with_reducible apply within_waitCoprocessor h
        | with_reducible exact within_raiseIf hs _ _
        | with_reducible exact within_raise hs _
        | with_reducible exact within_reads hs _
        | with_reducible exact within_push hk _ _
        | with_reducible exact within_pop hk _
        | with_reducible exact within_pure hs _
        | with_reducible exact within_get hs
        | exact within_update fun s => h.gpr s _
        | exact within_update fun s => h.run s _
        | exact within_update fun s => h.ts s _
        | exact fun _ => rfl
        | exact fun _ _ => rfl
        | with_reducible apply within_bind hs
        | with_reducible apply within_ite
        | intro _

theorem within_fetchMemory (h : MachineRel R) : Within R fetchMemory :=
  within_bind h.toSteps (within_get h.toSteps) fun _ => within_bind h.toSteps (within_linear h.toSteps _ _ _ _) fun _ =>
    within_bind h.toSteps (within_reads h.toSteps _) fun _ =>
      within_bind h.toSteps (within_translate h.access.toAccessRel _ _ _) fun _ => within_readByte h.access.toAccessRel _

theorem within_streamByte (h : MachineRel R) : Within R streamByte := by
  have hs := h.toSteps
  refine within_bind hs (within_get hs) fun s => within_ite (within_fetchMemory h)
    (within_bind hs (within_draw h.access.toAccessRel) fun d => ?_)
  cases (s.staleValues s.queueStart)[d.toNat % ((s.staleValues s.queueStart).length + 1)]? with
  | some b => exact within_pure hs _
  | none => exact within_fetchMemory h

theorem within_fetchByte (h : MachineRel R) : Within R fetchByte := by
  have hs := h.toSteps
  exact within_bind hs (within_get hs) fun _ => within_bind hs (within_raiseIf hs _ _) fun _ =>
    within_bind hs (within_streamByte h) fun _ => within_bind hs (within_update fun s => h.cur s _) fun _ => within_pure hs _

theorem within_feed (h : MachineRel R) (d : Dec) : Within R (feed d) := by
  induction d with
  | done i => exact within_pure h.toSteps _
  | need k ih => exact within_bind h.toSteps (within_fetchByte h) fun b => ih b
  | bad => exact within_pure h.toSteps _

theorem within_feedOpcode (h : MachineRel R) (d : Dec) : Within R (feedOpcode d) := by
  have hs := h.toSteps
  cases d with
  | done i => exact within_pure hs _
  | need k =>
    exact within_bind hs (within_fetchByte h) fun _ => within_bind hs (within_bind hs (within_get hs) fun _ =>
      within_raiseIf hs _ _) fun _ => within_feed h _
  | bad => exact within_pure hs _

theorem within_drive (h : MachineRel R) (d : Dec) : Within R (drive d) :=
  within_bind h.toSteps (within_feedOpcode h d) fun i => by
    cases i with
    | some i => exact within_pure h.toSteps i
    | none => exact within_raise h.toSteps _

theorem within_fetchRest (h : MachineRel R) (fuel : Nat) : Within R (fetchRest fuel) := by
  have hs := h.toSteps
  induction fuel with
  | zero => exact within_pure hs _
  | succ k ih =>
    refine within_bind hs (within_get hs) fun _ => within_bind hs (within_feed h _) fun i => ?_
    cases i with
    | none => exact within_pure hs _
    | some i =>
      refine within_bind hs (within_update fun s => ?_) fun _ => within_ite ih (within_pure hs _)
      unfold State.noteSizes
      split
      · exact h.cur s _
      · exact h.cur s _
      · exact h.refl s

theorem within_fetchBeforeLockTest (h : MachineRel R) (i : Instr) : Within R (fetchBeforeLockTest i) := by
  have hs := h.toSteps
  exact within_bind hs (within_get hs) fun _ => within_whenever hs
    (within_bind hs (within_fetchRest h _) fun _ => within_update fun s => h.cur s _)

theorem within_fetchItem (h : MachineRel R) : Within R fetchItem := by
  have hs := h.toSteps
  exact within_bind hs (within_get hs) fun _ => within_bind hs (within_drive h _) fun i =>
    within_bind hs (within_raiseIf hs _ _) fun _ => within_bind hs (within_fetchBeforeLockTest h i) fun _ =>
      within_pure hs _

end Sys2Proof.Machine
end

