-- ==== Sys2Proof/Tests/Slice0.lean ====
section
/-! SUPPORT. Small tests of the model, each on one instruction or one step, and for every statement with hypotheses a state and operands that meet them. -/

namespace Sys2Proof.Machine.Slice0

open Sys2Proof Sys2Proof.Machine

-- One theorem after another: each evaluation of its own would take a thread with a large stack.
set_option Elab.async false

/-! ### Helpers -/

/-- What a part of an instruction gives, if it ends well. -/
def valueOf {α : Type} (m : M α) (s : State) : Option α := match m s with | .ok a _ => some a | .error _ _ => none

/-- The state in which it ends. -/
def after {α : Type} (m : M α) (s : State) : State := match m s with | .ok _ t => t | .error _ t => t

/-- The event that ends it. -/
def excOf {α : Type} (m : M α) (s : State) : Option Exc := match m s with | .ok _ _ => none | .error x _ => some x

/-- It ends well. -/
def ends {α : Type} (m : M α) (s : State) : Bool := match m s with | .ok _ _ => true | .error _ _ => false

theorem ok_of_value {α : Type} {m : M α} {s : State} {a : α} (h : valueOf m s = some a) : m s = .ok a (after m s) := by
  unfold valueOf at h
  unfold after
  split at h
  · cases h; simp_all
  · cases h

theorem ok_of_ends {m : M Unit} {s : State} (h : ends m s = true) : m s = .ok () (after m s) := by
  unfold ends at h
  unfold after
  split at h
  · simp_all
  · cases h

theorem exists_of_ends {α : Type} {m : M α} {s : State} (h : ends m s = true) : ∃ a, m s = .ok a (after m s) := by
  unfold ends after at *
  cases hm : m s with
  | ok a t => exact ⟨a, rfl⟩
  | error x t => rw [hm] at h; cases h

theorem error_of_exc {α : Type} {m : M α} {s : State} {x : Exc} (h : excOf m s = some x) : m s = .error x (after m s) := by
  unfold excOf at h
  unfold after
  split at h
  · cases h
  · cases h; simp_all

/-- Something of the next state. -/
def nextOf {α : Type} (o : Host.Outcome State Fault Refusal) (f : State → α) : Option α :=
  match o with
  | .next t => some (f t)
  | .fault _ => none
  | .refused _ => none

/-- The nonzero ones among bytes from an address on. -/
def cells (a : Nat) (bs : List Nat) : List Host.Cell :=
  (bs.mapIdx fun k b => ((a + k, BitVec.ofNat 8 b) : Host.Cell)).filter fun c => c.2 != 0

/-- A real-mode state: the segments at 1000h, 2000h, 3000h and 4000h, SP = 100h, and some register values. -/
def real16 : State :=
  { State.reset with
    gpr := { eax := 0x00010064, ecx := 3, edx := 0, ebx := 7, esp := 0x100, ebp := 0x80, esi := 0x10, edi := 0x20 }
    pc := 0
    segs := { cs := .real 0x400 0, ds := .real 0x100 0, ss := .real 0x200 0, es := .real 0x300 0, fs := .real 0 0,
              gs := .real 0 0 }
    cur := { Latch.idle with npc := 3 } }

/-- The same with other registers. -/
def real16With (ax dx bx cx : Nat) : State :=
  { real16 with gpr := { real16.gpr with eax := BitVec.ofNat 32 ax, edx := BitVec.ofNat 32 dx,
                                         ebx := BitVec.ofNat 32 bx, ecx := BitVec.ofNat 32 cx } }

/-- A GDT: 8 code, 10h data, 18h data that is not present, 20h an LDT, 28h an available TSS, 30h conforming code,
38h code of level 3. -/
def gdtBytes : List Nat :=
  [0, 0, 0, 0, 0, 0, 0, 0, 0xFF, 0xFF, 0, 0, 0, 0x9B, 0xCF, 0, 0xFF, 0xFF, 0, 0, 0, 0x93, 0xCF, 0,
   0xFF, 0xFF, 0, 0, 0, 0x13, 0xCF, 0, 0x27, 0, 0, 0x50, 0, 0x82, 0, 0, 0x67, 0, 0, 0x40, 0, 0x89, 0, 0]
  ++ [0xFF, 0xFF, 0, 0, 0, 0x9F, 0xCF, 0, 0xFF, 0xFF, 0, 0, 0, 0xFB, 0xCF, 0]

/-- A flat 32-bit segment. -/
def flatSeg (code : Bool) (sel : Word16) (dpl : BitVec 2) : SegCache :=
  { sel := sel, base := 0, limit := 0xFFFFFFFF, valid := true, readable := true, writable := !code, executable := code,
    expandDown := false, conforming := false, big := true, dpl := dpl }

/-- A protected-mode state at level 0 with that GDT at 1000h, an IDT with one interrupt gate at 2000h, a TSS in ROM at
3000h, and a TSS at 4000h whose task runs in V86 mode. -/
def prot32 : State :=
  { real16 with
    cr0 := { real16.cr0 with pe := true }
    gdtr := { base := 0x1000, limit := 0x3F }
    idtr := { base := 0x2000, limit := 7 }
    tr := { sel := 0x28, base := 0x3000, limit := 0x67, valid := true, is386 := true }
    memMap := [{ base := 0x3000, size := 0x100, kind := .rom }]
    mem := cells 0x1000 gdtBytes ++ cells 0x2000 [0x00, 0x01, 8, 0, 0, 0x8E, 0, 0] ++ [(0x4026, 2)]
    gpr := { real16.gpr with esp := 0x8000 }
    segs := { cs := flatSeg true 8 0, ss := flatSeg false 0x10 0, ds := flatSeg false 0x10 0, es := flatSeg false 0x10 0,
              fs := flatSeg false 0x10 0, gs := flatSeg false 0x10 0 } }

/-- The same at level 3. -/
def user32 : State := { prot32 with cpl := 3 }

/-- GDT entries that follow those of `gdtBytes`: 40h data of level 3, 48h an 80386 call gate with one parameter and 50h an
80286 call gate without any, both of level 3 and to 8:100h. -/
def ringBytes : List Nat :=
  [0xFF, 0xFF, 0, 0, 0, 0xF3, 0xCF, 0, 0, 1, 8, 0, 1, 0xEC, 0, 0, 0, 1, 8, 0, 0, 0xE4, 0, 0]

/-- A protected-mode state at level 3 with a longer GDT, an 80386 interrupt gate of level 3 and an 80286 trap gate in its
IDT, and a TSS at 5000h whose stack for level 0 is 10h:7000h. -/
def ring3 : State :=
  { prot32 with
    cpl := 3
    gdtr := { base := 0x1000, limit := 0x57 }
    idtr := { base := 0x2000, limit := 0xF }
    tr := { sel := 0x28, base := 0x5000, limit := 0x67, valid := true, is386 := true }
    memMap := []
    mem := cells 0x1000 (gdtBytes ++ ringBytes) ++ cells 0x2000 [0, 1, 8, 0, 0, 0xEE, 0, 0, 0, 1, 8, 0, 0, 0x87, 0, 0]
             ++ cells 0x5004 [0, 0x70, 0, 0, 0x10, 0]
    segs := { cs := flatSeg true 0x3B 3, ss := flatSeg false 0x43 3, ds := flatSeg false 0x43 3, es := flatSeg false 0 3,
              fs := flatSeg false 0x43 3, gs := flatSeg false 0x43 3 } }

/-- The same machine at level 0. -/
def ring0 : State := { ring3 with cpl := 0, segs := prot32.segs }

/-- The same machine in V86 mode with an IOPL. -/
def v86With (iopl : BitVec 2) : State :=
  { ring3 with
    flags := { ring3.flags with vm := true, iopl := iopl }
    segs := { cs := .real 0x400 3, ss := .real 0x200 3, ds := .real 0x100 3, es := .real 0x300 3, fs := .real 0 3, gs := .real 0 3 } }

/-- A condition met on the way: it ends the run if it does not hold. -/
def check (b : Bool) : M Unit := raiseIf (!b) .shutdown

/-- A memory operand. -/
def atSi : Mem := .based16 .si .none

/-- A memory operand of a 32-bit program. -/
def atEsi : Mem := .based32 .esi .none

/-! ### Well-formed terms -/

theorem test_wf_immediate : Instr.wf ⟨false, false⟩ (.movRIv .eax 0x10000) = false
    ∧ Instr.wf ⟨false, false⟩ (.movRIv .eax 0xFFFF) = true ∧ Instr.wf ⟨true, false⟩ (.movRIv .eax 0x10000) = true := by decide
theorem test_wf_offset : Instr.wf ⟨true, false⟩ (.movAlOb 0x10000) = false
    ∧ Instr.wf ⟨true, true⟩ (.movAlOb 0x10000) = true := by decide
theorem test_wf_direct16 : Instr.wf ⟨true, true⟩ (.incEv (.mem (.direct16 0))) = false := by decide
theorem test_wf_based16 : Instr.wf ⟨true, true⟩ (.incEv (.mem (.based16 .bx .none))) = false
    ∧ Instr.wf ⟨false, false⟩ (.incEv (.mem (.based16 .bp .none))) = false := by decide
theorem test_wf_direct32 : Instr.wf ⟨false, false⟩ (.incEv (.mem (.direct32 0))) = false := by decide
theorem test_wf_based32 : Instr.wf ⟨false, false⟩ (.incEv (.mem (.based32 .eax .none))) = false
    ∧ Instr.wf ⟨true, true⟩ (.incEv (.mem (.based32 .esp .none))) = false
    ∧ Instr.wf ⟨true, true⟩ (.incEv (.mem (.based32 .ebp .none))) = false := by decide
theorem test_wf_sib : Instr.wf ⟨false, false⟩ (.incEv (.mem (.sib 0 .eax .eax .none))) = false
    ∧ Instr.wf ⟨true, true⟩ (.incEv (.mem (.sib 0 .eax .ebp .none))) = false := by decide
theorem test_wf_sibNoBase : Instr.wf ⟨false, false⟩ (.incEv (.mem (.sibNoBase 0 .eax 0))) = false := by decide
theorem test_wf_memory : Instr.wf ⟨false, false⟩ (.leaGvM .eax (.direct32 0)) = false := by decide
theorem test_wf_relative : Instr.wf ⟨false, false⟩ (.jmpRel 0x10000) = false
    ∧ Instr.wf ⟨false, false⟩ (.jmpFar 0x10000 0) = false := by decide
theorem test_wf_code_segment : Instr.wf ⟨false, false⟩ (.movSregEw .cs (.reg .eax)) = false := by decide
theorem test_wf_exchange : Instr.wf ⟨false, false⟩ (.xchgEaxR .eax) = false := by decide

/-! ### The spec's examples -/

/-- 16-bit code and addresses. -/
def c16 : Ctx := ⟨false, false⟩
/-- 32-bit code and addresses. -/
def c32 : Ctx := ⟨true, true⟩

/-- Run an instruction given by its bytes in a real-mode state, with size prefixes for a 32-bit one. -/
def runBytes (c : Ctx) (bs : List Byte) (s : State) : Host.Outcome State Fault Refusal :=
  match (decode c).run bs with
  | some (i, _) =>
    exec i { s with cur := { Latch.idle with opSize := c.os32, adSize := c.as32, npc := s.pc + BitVec.ofNat 32 bs.length } }
  | none => .refused .pagingWithoutProtection

/-- A state with bytes stored. -/
def withMem (a : Nat) (bs : List Byte) (s : State) : State :=
  { s with mem := (bs.mapIdx fun k b => (a + k, b)).foldl (fun m c => Memory.set m c.1 c.2) s.mem }

/-- A state with CF set. -/
def withCf (s : State) : State := { s with flags := { s.flags with cf := true } }

/-- A state with AF set. -/
def withAf (s : State) : State := { s with flags := { s.flags with af := true } }

/-- The example of R323. -/
theorem test_mov_register : nextOf (runBytes c32 [0x89, 0xD8]
    (real16With 0x0 0x0 0x12345678 0x0)) (fun t => t.gpr.eax)
    = some 0x12345678 := by decide +kernel

/-- The example of R324. -/
theorem test_mov_immediate_word : nextOf (runBytes c16 [0xB8, 0x34, 0x12]
    (real16With 0xAAAA0000 0x0 0x0 0x0)) (fun t => t.gpr.eax)
    = some 0xAAAA1234 := by decide +kernel

/-- The example of R327. -/
theorem test_mov_sreg_real : nextOf (runBytes c16 [0x8E, 0xD8]
    (real16With 0x1234 0x0 0x0 0x0)) (fun t => (t.segs.ds.sel, t.segs.ds.base))
    = some (0x1234, 0x12340) := by decide +kernel

/-- The example of R328. -/
theorem test_movzx : nextOf (runBytes c32 [0x0F, 0xB6, 0xC3]
    (real16With 0x0 0x0 0x80 0x0)) (fun t => t.gpr.eax)
    = some 0x80 := by decide +kernel

/-- The example of R329. -/
theorem test_movsx : nextOf (runBytes c32 [0x0F, 0xBE, 0xC3]
    (real16With 0x0 0x0 0x80 0x0)) (fun t => t.gpr.eax)
    = some 0xFFFFFF80 := by decide +kernel

/-- The example of R330. -/
theorem test_xchg : nextOf (runBytes c32 [0x91]
    (real16With 0x1 0x0 0x0 0x2)) (fun t => (t.gpr.eax, t.gpr.ecx))
    = some (2, 1) := by decide +kernel

/-- The example of R331. -/
theorem test_push : nextOf (runBytes c32 [0x50]
    (real16With 0xAABBCCDD 0x0 0x0 0x0)) (fun t => (t.gpr.esp, Memory.get t.mem 0x20FC, Memory.get t.mem 0x20FF))
    = some (0xFC, 0xDD, 0xAA) := by decide +kernel

/-- The example of R333. -/
theorem test_pop : nextOf (runBytes c32 [0x5B]
    (withMem 0x2100 [0x44, 0x33, 0x22, 0x11] real16)) (fun t => (t.gpr.ebx, t.gpr.esp))
    = some (0x11223344, 0x104) := by decide +kernel

/-- The example of R335. -/
theorem test_pusha : nextOf (runBytes c16 [0x60]
    real16) (fun t => (t.gpr.esp, Memory.get t.mem 0x20F0, Memory.get t.mem 0x20FE, Memory.get t.mem 0x20F7))
    = some (0xF0, 0x20, 0x64, 1) := by decide +kernel

/-- PUSHA straddles the end of the segment from 1, 3 and 5 too, and PUSHAD from 2 and 30; from 6 PUSHA only wraps (R335,
R672). -/
theorem test_pusha_straddles :
    [1, 3, 5, 7].all (fun sp => nextOf (runBytes c16 [0x60] { real16 with gpr := { real16.gpr with esp := sp } })
      (fun t => t.run) == some .shutdown) = true
    ∧ [2, 30].all (fun sp => nextOf (runBytes c32 [0x60] { real16 with gpr := { real16.gpr with esp := sp } })
      (fun t => t.run) == some .shutdown) = true
    ∧ nextOf (runBytes c16 [0x60] { real16 with gpr := { real16.gpr with esp := 6 } }) (fun t => (t.run, t.reg .esp))
      = some (.running, 0) := by decide +kernel

/-- The inverse of the example of R335 (R336): the image of SP is discarded. -/
theorem test_popa : nextOf (runBytes c16 [0x61]
    (withMem 0x2100 [1, 0, 2, 0, 3, 0, 4, 0, 5, 0, 6, 0, 7, 0, 8, 0] real16))
      (fun t => [t.gpr.edi, t.gpr.esi, t.gpr.ebp, t.gpr.esp, t.gpr.ebx, t.gpr.edx, t.gpr.ecx, t.gpr.eax])
    = some [1, 2, 3, 0x110, 5, 6, 7, 0x10008] := by decide +kernel

/-- The example of R337. -/
theorem test_pushf : nextOf (runBytes c16 [0x9C]
    { real16 with flags := { real16.flags with ie := true } }) (fun t => (t.gpr.esp, Memory.get t.mem 0x20FE, Memory.get t.mem 0x20FF))
    = some (0xFE, 2, 2) := by decide +kernel

/-- The example of R338. -/
theorem test_popf : nextOf (runBytes c16 [0x9D]
    (withMem 0x2100 [1] real16)) (fun t => (t.flags.cf, t.flags.ie, t.flags.zf))
    = some (true, false, false) := by decide +kernel

/-- The example of R339. -/
theorem test_lea : nextOf (runBytes c32 [0x8D, 0x04, 0x9B]
    (real16With 0x0 0x0 0x10 0x0)) (fun t => t.gpr.eax)
    = some 0x50 := by decide +kernel

/-- The example of R341. -/
theorem test_les : nextOf (runBytes c16 [0xC4, 0x07]
    (withMem 0x1007 [0x34, 0x12, 0x00, 0x20] real16)) (fun t => (t.gpr.eax, t.segs.es.sel))
    = some (0x00011234, 0x2000) := by decide +kernel

/-- The example of R340. -/
theorem test_out : nextOf (runBytes c16 [0xEE]
    (real16With 0x41 0x3F8 0x0 0x0)) (fun t => t.ioTrace)
    = some [.portWrite 0x3F8 1 0x41] := by decide +kernel

/-- The example of R345. -/
theorem test_cbw : nextOf (runBytes c16 [0x98]
    (real16With 0x80 0x0 0x0 0x0)) (fun t => t.gpr.eax)
    = some 0xFF80 := by decide +kernel

/-- The example of R346. -/
theorem test_cdq : nextOf (runBytes c32 [0x99]
    (real16With 0x80000000 0x0 0x0 0x0)) (fun t => t.gpr.edx)
    = some 0xFFFFFFFF := by decide +kernel

/-- The example of R372. -/
theorem test_add : nextOf (runBytes c16 [0x04, 0x01]
    (real16With 0xFF 0x0 0x0 0x0)) (fun t => (t.gpr.eax, t.flags.cf, t.flags.zf, t.flags.af, t.flags.pf, t.flags.ovf || t.flags.sf))
    = some (0, true, true, true, true, false) := by decide +kernel

/-- The example of R373. -/
theorem test_adc : nextOf (runBytes c32 [0x83, 0xD0, 0x00]
    (withCf (real16With 0xFFFFFFFF 0x0 0x0 0x0))) (fun t => (t.gpr.eax, t.flags.cf, t.flags.zf))
    = some (0, true, true) := by decide +kernel

/-- The example of R374. -/
theorem test_sub : nextOf (runBytes c16 [0x2C, 0x01]
    (real16With 0x0 0x0 0x0 0x0)) (fun t => (t.gpr.eax, t.flags.cf, t.flags.sf, t.flags.af, t.flags.pf, t.flags.ovf))
    = some (0xFF, true, true, true, true, false) := by decide +kernel

/-- The example of R375. -/
theorem test_sbb : nextOf (runBytes c16 [0x1C, 0x00]
    (withCf (real16With 0x0 0x0 0x0 0x0))) (fun t => (t.gpr.eax, t.flags.cf))
    = some (0xFF, true) := by decide +kernel

/-- The example of R376. -/
theorem test_cmp : nextOf (runBytes c16 [0x3D, 0x01, 0x00]
    (real16With 0x8000 0x0 0x0 0x0)) (fun t => (t.flags.ovf, t.flags.sf, t.flags.cf, t.flags.zf))
    = some (true, false, false, false) := by decide +kernel

/-- The example of R377. -/
theorem test_inc : nextOf (runBytes c32 [0x40]
    (withCf (real16With 0x7FFFFFFF 0x0 0x0 0x0))) (fun t => (t.gpr.eax, t.flags.ovf, t.flags.sf, t.flags.cf))
    = some (0x80000000, true, true, true) := by decide +kernel

/-- The example of R378. -/
theorem test_dec : nextOf (runBytes c32 [0x49]
    (real16With 0x0 0x0 0x0 0x1)) (fun t => (t.gpr.ecx, t.flags.zf, t.flags.pf))
    = some (0, true, true) := by decide +kernel

/-- The example of R379. -/
theorem test_neg : nextOf (runBytes c16 [0xF6, 0xD8]
    (real16With 0x80 0x0 0x0 0x0)) (fun t => (t.gpr.eax, t.flags.cf, t.flags.ovf, t.flags.sf))
    = some (0x80, true, true, true) := by decide +kernel

/-- The example of R380. -/
theorem test_mul : nextOf (runBytes c32 [0xF7, 0xE3]
    (real16With 0x80000000 0x0 0x4 0x0)) (fun t => (t.gpr.edx, t.gpr.eax, t.flags.cf, t.flags.ovf))
    = some (2, 0, true, true) := by decide +kernel

/-- The example of R381. -/
theorem test_imul : nextOf (runBytes c16 [0xF6, 0xEB]
    (real16With 0xFF 0x0 0x2 0x0)) (fun t => (t.gpr.eax, t.flags.cf, t.flags.ovf))
    = some (0xFFFE, false, false) := by decide +kernel

/-- The example of R381. -/
theorem test_imul3 : nextOf (runBytes c32 [0x69, 0xC0, 0x00, 0x00, 0x01, 0x00]
    (real16With 0x10000 0x0 0x0 0x0)) (fun t => (t.gpr.eax, t.flags.cf, t.flags.ovf))
    = some (0, true, true) := by decide +kernel

/-- The example of R382. -/
theorem test_div : nextOf (runBytes c16 [0xF6, 0xF3]
    (real16With 0x100 0x0 0x2 0x0)) (fun t => t.gpr.eax)
    = some 0x0080 := by decide +kernel

/-- The example of R382, R641. -/
theorem test_div_error : nextOf (runBytes c16 [0xF6, 0xF3]
    (withMem 0 [0x78, 0x56, 0, 0x12] (real16With 0x200 0x0 0x2 0x0))) (fun t => (t.pc, t.segs.cs.sel, t.gpr.eax))
    = some (0x5678, 0x1200, 0x200) := by decide +kernel

/-- The example of R383. -/
theorem test_idiv : nextOf (runBytes c16 [0xF6, 0xFB]
    (real16With 0xFFF9 0x0 0x2 0x0)) (fun t => t.gpr.eax)
    = some 0xFFFD := by decide +kernel

/-- The example of R384. -/
theorem test_and : nextOf (runBytes c16 [0x24, 0x3C]
    (real16With 0xF0 0x0 0x0 0x0)) (fun t => (t.gpr.eax, t.flags.pf, t.flags.zf, t.flags.cf))
    = some (0x30, true, false, false) := by decide +kernel

/-- The example of R385. -/
theorem test_or : nextOf (runBytes c16 [0x0C, 0x80]
    (real16With 0x1 0x0 0x0 0x0)) (fun t => (t.gpr.eax, t.flags.sf, t.flags.pf))
    = some (0x81, true, true) := by decide +kernel

/-- The example of R386. -/
theorem test_xor : nextOf (runBytes c32 [0x31, 0xC0]
    (real16With 0x5 0x0 0x0 0x0)) (fun t => (t.gpr.eax, t.flags.zf, t.flags.pf, t.flags.sf))
    = some (0, true, true, false) := by decide +kernel

/-- The example of R387. -/
theorem test_not : nextOf (runBytes c16 [0xF6, 0xD0]
    (real16With 0x55 0x0 0x0 0x0)) (fun t => t.gpr.eax)
    = some 0xAA := by decide +kernel

/-- The example of R388. -/
theorem test_test : nextOf (runBytes c16 [0xA8, 0x80]
    (real16With 0x80 0x0 0x0 0x0)) (fun t => (t.flags.zf, t.flags.sf, t.flags.pf))
    = some (false, true, false) := by decide +kernel

/-- The example of R390. -/
theorem test_das : nextOf (runBytes c16 [0x2F]
    (withAf (withCf (real16With 0xFF 0x0 0x0 0x0)))) (fun t => (t.gpr.eax, t.flags.cf, t.flags.af))
    = some (0x99, true, true) := by decide +kernel

/-- The example of R393. -/
theorem test_aam : nextOf (runBytes c16 [0xD4, 0x0A]
    (real16With 0x3F 0x0 0x0 0x0)) (fun t => t.gpr.eax)
    = some 0x0603 := by decide +kernel

/-- The example of R394. -/
theorem test_aad : nextOf (runBytes c16 [0xD5, 0x0A]
    (real16With 0x603 0x0 0x0 0x0)) (fun t => t.gpr.eax)
    = some 0x3F := by decide +kernel

/-- The example of R422 to R428. -/
theorem test_rol : nextOf (runBytes c16 [0xD0, 0xC0]
    (real16With 0x81 0x0 0x0 0x0)) (fun t => (t.gpr.eax, t.flags.cf, t.flags.ovf))
    = some (0x3, true, true) := by decide +kernel

/-- The example of R422 to R428. -/
theorem test_ror : nextOf (runBytes c16 [0xD0, 0xC8]
    (real16With 0x1 0x0 0x0 0x0)) (fun t => (t.gpr.eax, t.flags.cf, t.flags.ovf))
    = some (0x80, true, true) := by decide +kernel

/-- The example of R422 to R428. -/
theorem test_rcl : nextOf (runBytes c16 [0xD0, 0xD0]
    (real16With 0x80 0x0 0x0 0x0)) (fun t => (t.gpr.eax, t.flags.cf, t.flags.ovf))
    = some (0x0, true, true) := by decide +kernel

/-- The example of R422 to R428. -/
theorem test_rcr : nextOf (runBytes c16 [0xD0, 0xD8]
    (real16With 0x1 0x0 0x0 0x0)) (fun t => (t.gpr.eax, t.flags.cf, t.flags.ovf))
    = some (0x0, true, false) := by decide +kernel

/-- The example of R422 to R428. -/
theorem test_shl : nextOf (runBytes c16 [0xD0, 0xE0]
    (real16With 0xC0 0x0 0x0 0x0)) (fun t => (t.gpr.eax, t.flags.cf, t.flags.ovf))
    = some (0x80, true, false) := by decide +kernel

/-- The example of R422 to R428. -/
theorem test_shr : nextOf (runBytes c16 [0xD0, 0xE8]
    (real16With 0x81 0x0 0x0 0x0)) (fun t => (t.gpr.eax, t.flags.cf, t.flags.ovf))
    = some (0x40, true, true) := by decide +kernel

/-- The example of R422 to R428. -/
theorem test_sar : nextOf (runBytes c16 [0xD0, 0xF8]
    (real16With 0x81 0x0 0x0 0x0)) (fun t => (t.gpr.eax, t.flags.cf, t.flags.ovf))
    = some (0xC0, true, false) := by decide +kernel

/-- The example of R429. -/
theorem test_shld : nextOf (runBytes c32 [0x0F, 0xA4, 0xD8, 0x08]
    (real16With 0x12345678 0x0 0x9ABCDEF0 0x0)) (fun t => (t.gpr.eax, t.flags.cf))
    = some (0x3456789A, false) := by decide +kernel

/-- The example of R430. -/
theorem test_shrd : nextOf (runBytes c32 [0x0F, 0xAC, 0xD8, 0x08]
    (real16With 0x12345678 0x0 0x9ABCDEF0 0x0)) (fun t => (t.gpr.eax, t.flags.cf))
    = some (0xF0123456, false) := by decide +kernel

/-- The example of R442. -/
theorem test_movs : nextOf (runBytes c32 [0xA5]
    (withMem 0x1010 [1, 2, 3, 4] real16)) (fun t => (t.gpr.esi, t.gpr.edi, Memory.get t.mem 0x3023))
    = some (0x14, 0x24, 4) := by decide +kernel

/-- The example of R443. -/
theorem test_cmps : nextOf (runBytes c16 [0xA6]
    (withMem 0x1010 [0x41] (withMem 0x3020 [0x42] real16))) (fun t => (t.flags.cf, t.flags.zf, t.flags.sf))
    = some (true, false, true) := by decide +kernel

/-- The example of R445. -/
theorem test_lods_down : nextOf (runBytes c16 [0xAC]
    (withMem 0x1010 [9] { real16 with flags := { real16.flags with df := true } })) (fun t => (t.gpr.eax, t.gpr.esi))
    = some (0x10009, 0xF) := by decide +kernel

/-- The example of R461. -/
theorem test_bt : nextOf (runBytes c32 [0x0F, 0xBA, 0xE0, 0x08]
    (real16With 0x100 0x0 0x0 0x0)) (fun t => t.flags.cf)
    = some true := by decide +kernel

/-- The example of R462. -/
theorem test_bts : nextOf (runBytes c32 [0x0F, 0xAB, 0xC8]
    (real16With 0x0 0x0 0x0 0x23)) (fun t => (t.gpr.eax, t.flags.cf))
    = some (8, false) := by decide +kernel

/-- The example of R463. -/
theorem test_btr : nextOf (runBytes c32 [0x0F, 0xBA, 0xF0, 0x1F]
    (real16With 0xFFFFFFFF 0x0 0x0 0x0)) (fun t => (t.gpr.eax, t.flags.cf))
    = some (0x7FFFFFFF, true) := by decide +kernel

/-- The example of R464. -/
theorem test_btc : nextOf (runBytes c16 [0x0F, 0xBA, 0xF8, 0x00]
    (real16With 0x1 0x0 0x0 0x0)) (fun t => (t.gpr.eax, t.flags.cf))
    = some (0, true) := by decide +kernel

/-- The example of R465. -/
theorem test_bsf : nextOf (runBytes c32 [0x0F, 0xBC, 0xC3]
    (real16With 0x0 0x0 0x50 0x0)) (fun t => (t.gpr.eax, t.flags.zf))
    = some (4, false) := by decide +kernel

/-- The example of R466. -/
theorem test_bsr : nextOf (runBytes c32 [0x0F, 0xBD, 0xC3]
    (real16With 0x0 0x0 0x50 0x0)) (fun t => (t.gpr.eax, t.flags.zf))
    = some (6, false) := by decide +kernel

/-- The example of R484. -/
theorem test_jmp_short : nextOf (runBytes c16 [0xEB, 0xFE]
    { real16 with pc := 0x100 }) (fun t => t.pc)
    = some 0x100 := by decide +kernel

/-- The example of R486. -/
theorem test_jmp_far : nextOf (runBytes c16 [0xEA, 0x00, 0x01, 0x00, 0x20]
    real16) (fun t => (t.segs.cs.sel, t.segs.cs.base, t.pc))
    = some (0x2000, 0x20000, 0x100) := by decide +kernel

/-- The example of R489. -/
theorem test_call_far : nextOf (runBytes c16 [0x9A, 0x00, 0x00, 0x00, 0x30]
    { real16 with pc := 0x200 }) (fun t => (t.gpr.esp, Memory.get t.mem 0x20FC, Memory.get t.mem 0x20FD, Memory.get t.mem 0x20FF, t.segs.cs.sel, t.pc))
    = some (0xFC, 5, 2, 4, 0x3000, 0) := by decide +kernel

/-- The example of R490. -/
theorem test_ret_near : nextOf (runBytes c16 [0xC2, 0x08, 0x00]
    (withMem 0x2100 [5, 0x10] real16)) (fun t => (t.pc, t.gpr.esp))
    = some (0x1005, 0x10A) := by decide +kernel

/-- The example of R491. -/
theorem test_ret_far : nextOf (runBytes c16 [0xCB]
    (withMem 0x2100 [5, 2, 0, 0x10] real16)) (fun t => (t.pc, t.segs.cs.sel, t.gpr.esp))
    = some (0x205, 0x1000, 0x104) := by decide +kernel

/-- The example of R493. -/
theorem test_int : nextOf (runBytes c16 [0xCD, 0x21]
    (withMem 0x84 [0x78, 0x56, 0, 0x12] { real16 with pc := 0x100, flags := { real16.flags with ie := true } })) (fun t => (t.pc, t.segs.cs.sel, t.flags.ie, Memory.get t.mem 0x20FE, Memory.get t.mem 0x20FA))
    = some (0x5678, 0x1200, false, 2, 2) := by decide +kernel

/-- The example of R496. -/
theorem test_iret : nextOf (runBytes c16 [0xCF]
    (withMem 0x2100 [2, 1, 0, 0x10, 2, 2] real16)) (fun t => (t.pc, t.segs.cs.sel, t.flags.ie, t.gpr.esp))
    = some (0x102, 0x1000, true, 0x106) := by decide +kernel

/-- The example of R497. -/
theorem test_jcc : nextOf (runBytes c16 [0x74, 0x05]
    { real16 with pc := 0x100, flags := { real16.flags with zf := true } }) (fun t => t.pc)
    = some 0x107 := by decide +kernel

/-- The example of R498. -/
theorem test_setcc : nextOf (runBytes c16 [0x0F, 0x92, 0xC0]
    (withCf (real16With 0x0 0x0 0x0 0x0))) (fun t => t.gpr.eax)
    = some 1 := by decide +kernel

/-- The example of R499. -/
theorem test_loop : nextOf (runBytes c16 [0xE2, 0xFE]
    (real16With 0x0 0x0 0x0 0x1)) (fun t => (t.gpr.ecx, t.pc))
    = some (0, 2) := by decide +kernel

/-- The example of R530. -/
theorem test_enter : nextOf (runBytes c32 [0xC8, 0x10, 0x00, 0x00]
    real16) (fun t => (t.gpr.ebp, t.gpr.esp))
    = some (0xFC, 0xEC) := by decide +kernel

/-- The example of R532. -/
theorem test_bound : nextOf (runBytes c16 [0x62, 0x07]
    (withMem 0x1000 [0, 0, 4, 0] (real16With 0x4 0x0 0x0 0x0))) (fun t => t.pc)
    = some 2 := by decide +kernel

/-- The example of R550. -/
theorem test_lmsw : nextOf (runBytes c16 [0x0F, 0x01, 0xF0]
    (real16With 0x1 0x0 0x0 0x0)) (fun t => t.cr0.pe)
    = some true := by decide +kernel

/-- The example of R571, R655. -/
theorem test_lldt_real : nextOf (runBytes c16 [0x0F, 0x00, 0xD0]
    (withMem 0x18 [0x78, 0x56, 0, 0x12] real16)) (fun t => (t.pc, t.segs.cs.sel))
    = some (0x5678, 0x1200) := by decide +kernel

/-! ### Every row of the opcode table decodes -/

/-- The bytes decode to the instruction, and nothing is left. -/
def decodesTo (x : Ctx × List Byte × Instr) : Bool := (decode x.1).run x.2.1 == some (x.2.2, [])

/-- The rows 0 to 19 of the table, each from a word written out from its encoding. -/
theorem test_decode_rows_0 : ([(c16, [0x00, 0xCA], .addEbGb (.reg .dl) .cl),
    (c32, [0x01, 0x53, 0x9C], .addEvGv (.mem (.based32 .ebx (.d8 0x9C))) .edx),
    (c16, [0x02, 0x99, 0x65, 0x87], .addGbEb .bl (.mem (.based16 .bxDi (.d16 0x8765)))),
    (c32, [0x03, 0xF1], .addGvEv .esi (.reg .ecx)),
    (c16, [0x04, 0xA5], .addAlIb 0xA5),
    (c32, [0x05, 0xEF, 0xCD, 0xAB, 0x89], .addEaxIv 0x89ABCDEF),
    (c16, [0x80, 0xC3, 0xA5], .addEbIb (.reg .bl) 0xA5),
    (c32, [0x81, 0x43, 0x9C, 0xEF, 0xCD, 0xAB, 0x89], .addEvIv (.mem (.based32 .ebx (.d8 0x9C))) 0x89ABCDEF),
    (c16, [0x83, 0x81, 0x65, 0x87, 0xA5], .addEvIbs (.mem (.based16 .bxDi (.d16 0x8765))) 0xA5),
    (c32, [0x08, 0xDF], .orEbGb (.reg .bh) .bl),
    (c16, [0x09, 0xB1, 0x65, 0x87], .orEvGv (.mem (.based16 .bxDi (.d16 0x8765))) .esi),
    (c32, [0x0A, 0x7B, 0x9C], .orGbEb .bh (.mem (.based32 .ebx (.d8 0x9C)))),
    (c16, [0x0B, 0xEE], .orGvEv .ebp (.reg .esi)),
    (c32, [0x0C, 0xA5], .orAlIb 0xA5),
    (c16, [0x0D, 0xEF, 0xCD], .orEaxIv 0xCDEF),
    (c32, [0x80, 0xCA, 0xA5], .orEbIb (.reg .dl) 0xA5),
    (c16, [0x81, 0x89, 0x65, 0x87, 0xEF, 0xCD], .orEvIv (.mem (.based16 .bxDi (.d16 0x8765))) 0xCDEF),
    (c32, [0x83, 0x4B, 0x9C, 0xA5], .orEvIbs (.mem (.based32 .ebx (.d8 0x9C))) 0xA5),
    (c16, [0x10, 0xF9], .adcEbGb (.reg .cl) .bh),
    (c32, [0x11, 0x6B, 0x9C], .adcEvGv (.mem (.based32 .ebx (.d8 0x9C))) .ebp)] : List (Ctx × List Byte × Instr)).all decodesTo = true := by decide +kernel

/-- The rows 20 to 39 of the table, each from a word written out from its encoding. -/
theorem test_decode_rows_20 : ([(c16, [0x12, 0xA1, 0x65, 0x87], .adcGbEb .ah (.mem (.based16 .bxDi (.d16 0x8765)))),
    (c32, [0x13, 0xCB], .adcGvEv .ecx (.reg .ebx)),
    (c16, [0x14, 0xA5], .adcAlIb 0xA5),
    (c32, [0x15, 0xEF, 0xCD, 0xAB, 0x89], .adcEaxIv 0x89ABCDEF),
    (c16, [0x80, 0xD7, 0xA5], .adcEbIb (.reg .bh) 0xA5),
    (c32, [0x81, 0x53, 0x9C, 0xEF, 0xCD, 0xAB, 0x89], .adcEvIv (.mem (.based32 .ebx (.d8 0x9C))) 0x89ABCDEF),
    (c16, [0x83, 0x91, 0x65, 0x87, 0xA5], .adcEvIbs (.mem (.based16 .bxDi (.d16 0x8765))) 0xA5),
    (c32, [0x18, 0xE6], .sbbEbGb (.reg .dh) .ah),
    (c16, [0x19, 0x89, 0x65, 0x87], .sbbEvGv (.mem (.based16 .bxDi (.d16 0x8765))) .ecx),
    (c32, [0x1A, 0x53, 0x9C], .sbbGbEb .dl (.mem (.based32 .ebx (.d8 0x9C)))),
    (c16, [0x1B, 0xDA], .sbbGvEv .ebx (.reg .edx)),
    (c32, [0x1C, 0xA5], .sbbAlIb 0xA5),
    (c16, [0x1D, 0xEF, 0xCD], .sbbEaxIv 0xCDEF),
    (c32, [0x80, 0xD9, 0xA5], .sbbEbIb (.reg .cl) 0xA5),
    (c16, [0x81, 0x99, 0x65, 0x87, 0xEF, 0xCD], .sbbEvIv (.mem (.based16 .bxDi (.d16 0x8765))) 0xCDEF),
    (c32, [0x83, 0x5B, 0x9C, 0xA5], .sbbEvIbs (.mem (.based32 .ebx (.d8 0x9C))) 0xA5),
    (c16, [0x20, 0xD3], .andEbGb (.reg .bl) .dl),
    (c32, [0x21, 0x5B, 0x9C], .andEvGv (.mem (.based32 .ebx (.d8 0x9C))) .ebx),
    (c16, [0x22, 0xB1, 0x65, 0x87], .andGbEb .dh (.mem (.based16 .bxDi (.d16 0x8765)))),
    (c32, [0x23, 0xFF], .andGvEv .edi (.reg .edi))] : List (Ctx × List Byte × Instr)).all decodesTo = true := by decide +kernel

/-- The rows 40 to 59 of the table, each from a word written out from its encoding. -/
theorem test_decode_rows_40 : ([(c16, [0x24, 0xA5], .andAlIb 0xA5),
    (c32, [0x25, 0xEF, 0xCD, 0xAB, 0x89], .andEaxIv 0x89ABCDEF),
    (c16, [0x80, 0xE6, 0xA5], .andEbIb (.reg .dh) 0xA5),
    (c32, [0x81, 0x63, 0x9C, 0xEF, 0xCD, 0xAB, 0x89], .andEvIv (.mem (.based32 .ebx (.d8 0x9C))) 0x89ABCDEF),
    (c16, [0x83, 0xA1, 0x65, 0x87, 0xA5], .andEvIbs (.mem (.based16 .bxDi (.d16 0x8765))) 0xA5),
    (c32, [0x28, 0xF2], .subEbGb (.reg .dl) .dh),
    (c16, [0x29, 0xB9, 0x65, 0x87], .subEvGv (.mem (.based16 .bxDi (.d16 0x8765))) .edi),
    (c32, [0x2A, 0x6B, 0x9C], .subGbEb .ch (.mem (.based32 .ebx (.d8 0x9C)))),
    (c16, [0x2B, 0xE1], .subGvEv .esp (.reg .ecx)),
    (c32, [0x2C, 0xA5], .subAlIb 0xA5),
    (c16, [0x2D, 0xEF, 0xCD], .subEaxIv 0xCDEF),
    (c32, [0x80, 0xEB, 0xA5], .subEbIb (.reg .bl) 0xA5),
    (c16, [0x81, 0xA9, 0x65, 0x87, 0xEF, 0xCD], .subEvIv (.mem (.based16 .bxDi (.d16 0x8765))) 0xCDEF),
    (c32, [0x83, 0x6B, 0x9C, 0xA5], .subEvIbs (.mem (.based32 .ebx (.d8 0x9C))) 0xA5),
    (c16, [0x30, 0xEF], .xorEbGb (.reg .bh) .ch),
    (c32, [0x31, 0x63, 0x9C], .xorEvGv (.mem (.based32 .ebx (.d8 0x9C))) .esp),
    (c16, [0x32, 0x89, 0x65, 0x87], .xorGbEb .cl (.mem (.based16 .bxDi (.d16 0x8765)))),
    (c32, [0x33, 0xD6], .xorGvEv .edx (.reg .esi)),
    (c16, [0x34, 0xA5], .xorAlIb 0xA5),
    (c32, [0x35, 0xEF, 0xCD, 0xAB, 0x89], .xorEaxIv 0x89ABCDEF)] : List (Ctx × List Byte × Instr)).all decodesTo = true := by decide +kernel

/-- The rows 60 to 79 of the table, each from a word written out from its encoding. -/
theorem test_decode_rows_60 : ([(c16, [0x80, 0xF2, 0xA5], .xorEbIb (.reg .dl) 0xA5),
    (c32, [0x81, 0x73, 0x9C, 0xEF, 0xCD, 0xAB, 0x89], .xorEvIv (.mem (.based32 .ebx (.d8 0x9C))) 0x89ABCDEF),
    (c16, [0x83, 0xB1, 0x65, 0x87, 0xA5], .xorEvIbs (.mem (.based16 .bxDi (.d16 0x8765))) 0xA5),
    (c32, [0x38, 0xC9], .cmpEbGb (.reg .cl) .cl),
    (c16, [0x39, 0x91, 0x65, 0x87], .cmpEvGv (.mem (.based16 .bxDi (.d16 0x8765))) .edx),
    (c32, [0x3A, 0x5B, 0x9C], .cmpGbEb .bl (.mem (.based32 .ebx (.d8 0x9C)))),
    (c16, [0x3B, 0xF3], .cmpGvEv .esi (.reg .ebx)),
    (c32, [0x3C, 0xA5], .cmpAlIb 0xA5),
    (c16, [0x3D, 0xEF, 0xCD], .cmpEaxIv 0xCDEF),
    (c32, [0x80, 0xFF, 0xA5], .cmpEbIb (.reg .bh) 0xA5),
    (c16, [0x81, 0xB9, 0x65, 0x87, 0xEF, 0xCD], .cmpEvIv (.mem (.based16 .bxDi (.d16 0x8765))) 0xCDEF),
    (c32, [0x83, 0x7B, 0x9C, 0xA5], .cmpEvIbs (.mem (.based32 .ebx (.d8 0x9C))) 0xA5),
    (c16, [0x06], .pushEs),
    (c32, [0x0E], .pushCs),
    (c16, [0x16], .pushSs),
    (c32, [0x1E], .pushDs),
    (c16, [0x07], .popEs),
    (c32, [0x17], .popSs),
    (c16, [0x1F], .popDs),
    (c32, [0x0F, 0xA0], .pushFs)] : List (Ctx × List Byte × Instr)).all decodesTo = true := by decide +kernel

/-- The rows 80 to 99 of the table, each from a word written out from its encoding. -/
theorem test_decode_rows_80 : ([(c16, [0x0F, 0xA1], .popFs),
    (c32, [0x0F, 0xA8], .pushGs),
    (c16, [0x0F, 0xA9], .popGs),
    (c32, [0x26], .segEs),
    (c16, [0x2E], .segCs),
    (c32, [0x36], .segSs),
    (c16, [0x3E], .segDs),
    (c32, [0x64], .segFs),
    (c16, [0x65], .segGs),
    (c32, [0x66], .opSize),
    (c16, [0x67], .adSize),
    (c32, [0xF0], .lock),
    (c16, [0xF2], .repne),
    (c32, [0xF3], .rep),
    (c16, [0x27], .daa),
    (c32, [0x2F], .das),
    (c16, [0x37], .aaa),
    (c32, [0x3F], .aas),
    (c16, [0xD4, 0xA5], .aamIb 0xA5),
    (c32, [0xD5, 0xA5], .aadIb 0xA5)] : List (Ctx × List Byte × Instr)).all decodesTo = true := by decide +kernel

/-- The rows 100 to 119 of the table, each from a word written out from its encoding. -/
theorem test_decode_rows_100 : ([(c16, [0x43], .incR .ebx),
    (c32, [0x4E], .decR .esi),
    (c16, [0x57], .pushR .edi),
    (c32, [0x5D], .popR .ebp),
    (c16, [0x60], .pusha),
    (c32, [0x61], .popa),
    (c16, [0x62, 0x91, 0x65, 0x87], .boundGvMa .edx (.based16 .bxDi (.d16 0x8765))),
    (c32, [0x63, 0x5B, 0x9C], .arplEwGw (.mem (.based32 .ebx (.d8 0x9C))) .ebx),
    (c16, [0x68, 0xEF, 0xCD], .pushIv 0xCDEF),
    (c32, [0x6A, 0xA5], .pushIbs 0xA5),
    (c16, [0x69, 0xA9, 0x65, 0x87, 0xEF, 0xCD], .imulGvEvIv .ebp (.mem (.based16 .bxDi (.d16 0x8765))) 0xCDEF),
    (c32, [0x6B, 0xE3, 0xA5], .imulGvEvIb .esp (.reg .ebx) 0xA5),
    (c16, [0x6C], .insb),
    (c32, [0x6D], .insw),
    (c16, [0x6E], .outsb),
    (c32, [0x6F], .outsw),
    (c16, [0x75, 0xA5], .jccRel8 .nz 0xA5),
    (c32, [0x84, 0xEE], .testEbGb (.reg .dh) .ch),
    (c16, [0x85, 0xA1, 0x65, 0x87], .testEvGv (.mem (.based16 .bxDi (.d16 0x8765))) .esp),
    (c32, [0x86, 0x4B, 0x9C], .xchgEbGb (.mem (.based32 .ebx (.d8 0x9C))) .cl)] : List (Ctx × List Byte × Instr)).all decodesTo = true := by decide +kernel

/-- The rows 120 to 139 of the table, each from a word written out from its encoding. -/
theorem test_decode_rows_120 : ([(c16, [0x87, 0xD2], .xchgEvGv (.reg .edx) .edx),
    (c32, [0x88, 0x5B, 0x9C], .movEbGb (.mem (.based32 .ebx (.d8 0x9C))) .bl),
    (c16, [0x89, 0xB1, 0x65, 0x87], .movEvGv (.mem (.based16 .bxDi (.d16 0x8765))) .esi),
    (c32, [0x8A, 0xF9], .movGbEb .bh (.reg .cl)),
    (c16, [0x8B, 0xA9, 0x65, 0x87], .movGvEv .ebp (.mem (.based16 .bxDi (.d16 0x8765)))),
    (c32, [0x8C, 0x43, 0x9C], .movEwSreg (.mem (.based32 .ebx (.d8 0x9C))) .es),
    (c16, [0x8D, 0x89, 0x65, 0x87], .leaGvM .ecx (.based16 .bxDi (.d16 0x8765))),
    (c32, [0x8E, 0x5B, 0x9C], .movSregEw .ds (.mem (.based32 .ebx (.d8 0x9C)))),
    (c16, [0x8F, 0x81, 0x65, 0x87], .popEv (.mem (.based16 .bxDi (.d16 0x8765)))),
    (c32, [0x90], .nop),
    (c16, [0x97], .xchgEaxR .edi),
    (c32, [0x98], .cbw),
    (c16, [0x99], .cwd),
    (c32, [0x9A, 0xEF, 0xCD, 0xAB, 0x89, 0x0D, 0xF0], .callFar 0x89ABCDEF 0xF00D),
    (c16, [0x9B], .wait),
    (c32, [0x9C], .pushf),
    (c16, [0x9D], .popf),
    (c32, [0x9E], .sahf),
    (c16, [0x9F], .lahf),
    (c32, [0xA0, 0xEF, 0xCD, 0xAB, 0x89], .movAlOb 0x89ABCDEF)] : List (Ctx × List Byte × Instr)).all decodesTo = true := by decide +kernel

/-- The rows 140 to 159 of the table, each from a word written out from its encoding. -/
theorem test_decode_rows_140 : ([(c16, [0xA1, 0xEF, 0xCD], .movEaxOv 0xCDEF),
    (c32, [0xA2, 0xEF, 0xCD, 0xAB, 0x89], .movObAl 0x89ABCDEF),
    (c16, [0xA3, 0xEF, 0xCD], .movOvEax 0xCDEF),
    (c32, [0xA4], .movsb),
    (c16, [0xA5], .movsw),
    (c32, [0xA6], .cmpsb),
    (c16, [0xA7], .cmpsw),
    (c32, [0xA8, 0xA5], .testAlIb 0xA5),
    (c16, [0xA9, 0xEF, 0xCD], .testEaxIv 0xCDEF),
    (c32, [0xAA], .stosb),
    (c16, [0xAB], .stosw),
    (c32, [0xAC], .lodsb),
    (c16, [0xAD], .lodsw),
    (c32, [0xAE], .scasb),
    (c16, [0xAF], .scasw),
    (c32, [0xB2, 0xA5], .movR8Ib .dl 0xA5),
    (c16, [0xBB, 0xEF, 0xCD], .movRIv .ebx 0xCDEF),
    (c32, [0xC0, 0x43, 0x9C, 0xA5], .rolEbIb (.mem (.based32 .ebx (.d8 0x9C))) 0xA5),
    (c16, [0xC1, 0x81, 0x65, 0x87, 0xA5], .rolEvIb (.mem (.based16 .bxDi (.d16 0x8765))) 0xA5),
    (c32, [0xD0, 0xC7], .rolEb1 (.reg .bh))] : List (Ctx × List Byte × Instr)).all decodesTo = true := by decide +kernel

/-- The rows 160 to 179 of the table, each from a word written out from its encoding. -/
theorem test_decode_rows_160 : ([(c16, [0xD1, 0x81, 0x65, 0x87], .rolEv1 (.mem (.based16 .bxDi (.d16 0x8765)))),
    (c32, [0xD2, 0x43, 0x9C], .rolEbCl (.mem (.based32 .ebx (.d8 0x9C)))),
    (c16, [0xD3, 0xC6], .rolEvCl (.reg .esi)),
    (c32, [0xC0, 0x4B, 0x9C, 0xA5], .rorEbIb (.mem (.based32 .ebx (.d8 0x9C))) 0xA5),
    (c16, [0xC1, 0x89, 0x65, 0x87, 0xA5], .rorEvIb (.mem (.based16 .bxDi (.d16 0x8765))) 0xA5),
    (c32, [0xD0, 0xCA], .rorEb1 (.reg .dl)),
    (c16, [0xD1, 0x89, 0x65, 0x87], .rorEv1 (.mem (.based16 .bxDi (.d16 0x8765)))),
    (c32, [0xD2, 0x4B, 0x9C], .rorEbCl (.mem (.based32 .ebx (.d8 0x9C)))),
    (c16, [0xD3, 0xC9], .rorEvCl (.reg .ecx)),
    (c32, [0xC0, 0x53, 0x9C, 0xA5], .rclEbIb (.mem (.based32 .ebx (.d8 0x9C))) 0xA5),
    (c16, [0xC1, 0x91, 0x65, 0x87, 0xA5], .rclEvIb (.mem (.based16 .bxDi (.d16 0x8765))) 0xA5),
    (c32, [0xD0, 0xD3], .rclEb1 (.reg .bl)),
    (c16, [0xD1, 0x91, 0x65, 0x87], .rclEv1 (.mem (.based16 .bxDi (.d16 0x8765)))),
    (c32, [0xD2, 0x53, 0x9C], .rclEbCl (.mem (.based32 .ebx (.d8 0x9C)))),
    (c16, [0xD3, 0xD7], .rclEvCl (.reg .edi)),
    (c32, [0xC0, 0x5B, 0x9C, 0xA5], .rcrEbIb (.mem (.based32 .ebx (.d8 0x9C))) 0xA5),
    (c16, [0xC1, 0x99, 0x65, 0x87, 0xA5], .rcrEvIb (.mem (.based16 .bxDi (.d16 0x8765))) 0xA5),
    (c32, [0xD0, 0xDE], .rcrEb1 (.reg .dh)),
    (c16, [0xD1, 0x99, 0x65, 0x87], .rcrEv1 (.mem (.based16 .bxDi (.d16 0x8765)))),
    (c32, [0xD2, 0x5B, 0x9C], .rcrEbCl (.mem (.based32 .ebx (.d8 0x9C))))] : List (Ctx × List Byte × Instr)).all decodesTo = true := by decide +kernel

/-- The rows 180 to 199 of the table, each from a word written out from its encoding. -/
theorem test_decode_rows_180 : ([(c16, [0xD3, 0xDA], .rcrEvCl (.reg .edx)),
    (c32, [0xC0, 0x63, 0x9C, 0xA5], .shlEbIb (.mem (.based32 .ebx (.d8 0x9C))) 0xA5),
    (c16, [0xC1, 0xA1, 0x65, 0x87, 0xA5], .shlEvIb (.mem (.based16 .bxDi (.d16 0x8765))) 0xA5),
    (c32, [0xD0, 0xE1], .shlEb1 (.reg .cl)),
    (c16, [0xD1, 0xA1, 0x65, 0x87], .shlEv1 (.mem (.based16 .bxDi (.d16 0x8765)))),
    (c32, [0xD2, 0x63, 0x9C], .shlEbCl (.mem (.based32 .ebx (.d8 0x9C)))),
    (c16, [0xD3, 0xE3], .shlEvCl (.reg .ebx)),
    (c32, [0xC0, 0x6B, 0x9C, 0xA5], .shrEbIb (.mem (.based32 .ebx (.d8 0x9C))) 0xA5),
    (c16, [0xC1, 0xA9, 0x65, 0x87, 0xA5], .shrEvIb (.mem (.based16 .bxDi (.d16 0x8765))) 0xA5),
    (c32, [0xD0, 0xEF], .shrEb1 (.reg .bh)),
    (c16, [0xD1, 0xA9, 0x65, 0x87], .shrEv1 (.mem (.based16 .bxDi (.d16 0x8765)))),
    (c32, [0xD2, 0x6B, 0x9C], .shrEbCl (.mem (.based32 .ebx (.d8 0x9C)))),
    (c16, [0xD3, 0xEE], .shrEvCl (.reg .esi)),
    (c32, [0xC0, 0x7B, 0x9C, 0xA5], .sarEbIb (.mem (.based32 .ebx (.d8 0x9C))) 0xA5),
    (c16, [0xC1, 0xB9, 0x65, 0x87, 0xA5], .sarEvIb (.mem (.based16 .bxDi (.d16 0x8765))) 0xA5),
    (c32, [0xD0, 0xFA], .sarEb1 (.reg .dl)),
    (c16, [0xD1, 0xB9, 0x65, 0x87], .sarEv1 (.mem (.based16 .bxDi (.d16 0x8765)))),
    (c32, [0xD2, 0x7B, 0x9C], .sarEbCl (.mem (.based32 .ebx (.d8 0x9C)))),
    (c16, [0xD3, 0xF9], .sarEvCl (.reg .ecx)),
    (c32, [0xC2, 0xDC, 0xFE], .retNearIw 0xFEDC)] : List (Ctx × List Byte × Instr)).all decodesTo = true := by decide +kernel

/-- The rows 200 to 219 of the table, each from a word written out from its encoding. -/
theorem test_decode_rows_200 : ([(c16, [0xC3], .retNear),
    (c32, [0xC4, 0x6B, 0x9C], .lesGvMp .ebp (.based32 .ebx (.d8 0x9C))),
    (c16, [0xC5, 0xA1, 0x65, 0x87], .ldsGvMp .esp (.based16 .bxDi (.d16 0x8765))),
    (c32, [0xC6, 0x43, 0x9C, 0xA5], .movEbIb (.mem (.based32 .ebx (.d8 0x9C))) 0xA5),
    (c16, [0xC7, 0xC7, 0xEF, 0xCD], .movEvIv (.reg .edi) 0xCDEF),
    (c32, [0xC8, 0x34, 0x12, 0x1F], .enterIwIb 0x1234 0x1F),
    (c16, [0xC9], .leave),
    (c32, [0xCA, 0xDC, 0xFE], .retFarIw 0xFEDC),
    (c16, [0xCB], .retFar),
    (c32, [0xCC], .int3),
    (c16, [0xCD, 0xA5], .intIb 0xA5),
    (c32, [0xCE], .into),
    (c16, [0xCF], .iret),
    (c32, [0xD7], .xlat),
    (c16, [0xDB, 0xB1, 0x65, 0x87], .esc 3 6 (.mem (.based16 .bxDi (.d16 0x8765)))),
    (c32, [0xE0, 0xA5], .loopneRel8 0xA5),
    (c16, [0xE1, 0xA5], .loopeRel8 0xA5),
    (c32, [0xE2, 0xA5], .loopRel8 0xA5),
    (c16, [0xE3, 0xA5], .jcxzRel8 0xA5),
    (c32, [0xE4, 0xA5], .inAlIb 0xA5)] : List (Ctx × List Byte × Instr)).all decodesTo = true := by decide +kernel

/-- The rows 220 to 239 of the table, each from a word written out from its encoding. -/
theorem test_decode_rows_220 : ([(c16, [0xE5, 0xA5], .inEaxIb 0xA5),
    (c32, [0xE6, 0xA5], .outIbAl 0xA5),
    (c16, [0xE7, 0xA5], .outIbEax 0xA5),
    (c32, [0xE8, 0xEF, 0xCD, 0xAB, 0x89], .callRel 0x89ABCDEF),
    (c16, [0xE9, 0xEF, 0xCD], .jmpRel 0xCDEF),
    (c32, [0xEA, 0xEF, 0xCD, 0xAB, 0x89, 0x0D, 0xF0], .jmpFar 0x89ABCDEF 0xF00D),
    (c16, [0xEB, 0xA5], .jmpRel8 0xA5),
    (c32, [0xEC], .inAlDx),
    (c16, [0xED], .inEaxDx),
    (c32, [0xEE], .outDxAl),
    (c16, [0xEF], .outDxEax),
    (c32, [0xF4], .hlt),
    (c16, [0xF5], .cmc),
    (c32, [0xF6, 0x43, 0x9C, 0xA5], .testEbIb (.mem (.based32 .ebx (.d8 0x9C))) 0xA5),
    (c16, [0xF7, 0xC7, 0xEF, 0xCD], .testEvIv (.reg .edi) 0xCDEF),
    (c32, [0xF6, 0x53, 0x9C], .notEb (.mem (.based32 .ebx (.d8 0x9C)))),
    (c16, [0xF7, 0x91, 0x65, 0x87], .notEv (.mem (.based16 .bxDi (.d16 0x8765)))),
    (c32, [0xF6, 0xDE], .negEb (.reg .dh)),
    (c16, [0xF7, 0x99, 0x65, 0x87], .negEv (.mem (.based16 .bxDi (.d16 0x8765)))),
    (c32, [0xF6, 0x63, 0x9C], .mulEb (.mem (.based32 .ebx (.d8 0x9C))))] : List (Ctx × List Byte × Instr)).all decodesTo = true := by decide +kernel

/-- The rows 240 to 259 of the table, each from a word written out from its encoding. -/
theorem test_decode_rows_240 : ([(c16, [0xF7, 0xE2], .mulEv (.reg .edx)),
    (c32, [0xF6, 0x6B, 0x9C], .imulEb (.mem (.based32 .ebx (.d8 0x9C)))),
    (c16, [0xF7, 0xA9, 0x65, 0x87], .imulEv (.mem (.based16 .bxDi (.d16 0x8765)))),
    (c32, [0xF6, 0xF1], .divEb (.reg .cl)),
    (c16, [0xF7, 0xB1, 0x65, 0x87], .divEv (.mem (.based16 .bxDi (.d16 0x8765)))),
    (c32, [0xF6, 0x7B, 0x9C], .idivEb (.mem (.based32 .ebx (.d8 0x9C)))),
    (c16, [0xF7, 0xFB], .idivEv (.reg .ebx)),
    (c32, [0xF8], .clc),
    (c16, [0xF9], .stc),
    (c32, [0xFA], .cli),
    (c16, [0xFB], .sti),
    (c32, [0xFC], .cld),
    (c16, [0xFD], .std),
    (c32, [0xFE, 0x43, 0x9C], .incEb (.mem (.based32 .ebx (.d8 0x9C)))),
    (c16, [0xFE, 0x89, 0x65, 0x87], .decEb (.mem (.based16 .bxDi (.d16 0x8765)))),
    (c32, [0xFF, 0xC2], .incEv (.reg .edx)),
    (c16, [0xFF, 0x89, 0x65, 0x87], .decEv (.mem (.based16 .bxDi (.d16 0x8765)))),
    (c32, [0xFF, 0x53, 0x9C], .callNearEv (.mem (.based32 .ebx (.d8 0x9C)))),
    (c16, [0xFF, 0x99, 0x65, 0x87], .callFarMp (.based16 .bxDi (.d16 0x8765))),
    (c32, [0xFF, 0x63, 0x9C], .jmpNearEv (.mem (.based32 .ebx (.d8 0x9C))))] : List (Ctx × List Byte × Instr)).all decodesTo = true := by decide +kernel

/-- The rows 260 to 279 of the table, each from a word written out from its encoding. -/
theorem test_decode_rows_260 : ([(c16, [0xFF, 0xA9, 0x65, 0x87], .jmpFarMp (.based16 .bxDi (.d16 0x8765))),
    (c32, [0xFF, 0xF3], .pushEv (.reg .ebx)),
    (c16, [0x0F, 0x00, 0x81, 0x65, 0x87], .sldtEw (.mem (.based16 .bxDi (.d16 0x8765)))),
    (c32, [0x0F, 0x00, 0x4B, 0x9C], .strEw (.mem (.based32 .ebx (.d8 0x9C)))),
    (c16, [0x0F, 0x00, 0xD7], .lldtEw (.reg .edi)),
    (c32, [0x0F, 0x00, 0x5B, 0x9C], .ltrEw (.mem (.based32 .ebx (.d8 0x9C)))),
    (c16, [0x0F, 0x00, 0xA1, 0x65, 0x87], .verrEw (.mem (.based16 .bxDi (.d16 0x8765)))),
    (c32, [0x0F, 0x00, 0xEE], .verwEw (.reg .esi)),
    (c16, [0x0F, 0x01, 0x81, 0x65, 0x87], .sgdtMs (.based16 .bxDi (.d16 0x8765))),
    (c32, [0x0F, 0x01, 0x4B, 0x9C], .sidtMs (.based32 .ebx (.d8 0x9C))),
    (c16, [0x0F, 0x01, 0x91, 0x65, 0x87], .lgdtMs (.based16 .bxDi (.d16 0x8765))),
    (c32, [0x0F, 0x01, 0x5B, 0x9C], .lidtMs (.based32 .ebx (.d8 0x9C))),
    (c16, [0x0F, 0x01, 0xA1, 0x65, 0x87], .smswEw (.mem (.based16 .bxDi (.d16 0x8765)))),
    (c32, [0x0F, 0x01, 0xF1], .lmswEw (.reg .ecx)),
    (c16, [0x0F, 0x02, 0x91, 0x65, 0x87], .larGvEw .edx (.mem (.based16 .bxDi (.d16 0x8765)))),
    (c32, [0x0F, 0x03, 0x5B, 0x9C], .lslGvEw .ebx (.mem (.based32 .ebx (.d8 0x9C)))),
    (c16, [0x0F, 0x06], .clts),
    (c32, [0x0F, 0x20, 0xD6], .movRCr 3 2 .esi),
    (c16, [0x0F, 0x22, 0xD9], .movCrR 3 3 .ecx),
    (c32, [0x0F, 0x21, 0xDF], .movRDr 3 3 .edi)] : List (Ctx × List Byte × Instr)).all decodesTo = true := by decide +kernel

/-- The rows 280 to 299 of the table, each from a word written out from its encoding. -/
theorem test_decode_rows_280 : ([(c16, [0x0F, 0x23, 0xF2], .movDrR 3 6 .edx),
    (c32, [0x0F, 0x24, 0xFB], .movRTr 3 7 .ebx),
    (c16, [0x0F, 0x26, 0xF6], .movTrR 3 6 .esi),
    (c32, [0x0F, 0x8C, 0xEF, 0xCD, 0xAB, 0x89], .jccRel .l 0x89ABCDEF),
    (c16, [0x0F, 0x99, 0xA9, 0x65, 0x87], .setccEb .ns 5 (.mem (.based16 .bxDi (.d16 0x8765)))),
    (c32, [0x0F, 0xA3, 0xEA], .btEvGv (.reg .edx) .ebp),
    (c16, [0x0F, 0xAB, 0xA1, 0x65, 0x87], .btsEvGv (.mem (.based16 .bxDi (.d16 0x8765))) .esp),
    (c32, [0x0F, 0xB3, 0x4B, 0x9C], .btrEvGv (.mem (.based32 .ebx (.d8 0x9C))) .ecx),
    (c16, [0x0F, 0xBB, 0xD1], .btcEvGv (.reg .ecx) .edx),
    (c32, [0x0F, 0xA4, 0x5B, 0x9C, 0xA5], .shldEvGvIb (.mem (.based32 .ebx (.d8 0x9C))) .ebx 0xA5),
    (c16, [0x0F, 0xA5, 0xB1, 0x65, 0x87], .shldEvGvCl (.mem (.based16 .bxDi (.d16 0x8765))) .esi),
    (c32, [0x0F, 0xAC, 0xFB, 0xA5], .shrdEvGvIb (.reg .ebx) .edi 0xA5),
    (c16, [0x0F, 0xAD, 0xA9, 0x65, 0x87], .shrdEvGvCl (.mem (.based16 .bxDi (.d16 0x8765))) .ebp),
    (c32, [0x0F, 0xAF, 0x63, 0x9C], .imulGvEv .esp (.mem (.based32 .ebx (.d8 0x9C)))),
    (c16, [0x0F, 0xB2, 0x89, 0x65, 0x87], .lssGvMp .ecx (.based16 .bxDi (.d16 0x8765))),
    (c32, [0x0F, 0xB4, 0x53, 0x9C], .lfsGvMp .edx (.based32 .ebx (.d8 0x9C))),
    (c16, [0x0F, 0xB5, 0x99, 0x65, 0x87], .lgsGvMp .ebx (.based16 .bxDi (.d16 0x8765))),
    (c32, [0x0F, 0xB6, 0xF6], .movzxGvEb .esi (.reg .dh)),
    (c16, [0x0F, 0xB7, 0xB9, 0x65, 0x87], .movzxGvEw .edi (.mem (.based16 .bxDi (.d16 0x8765)))),
    (c32, [0x0F, 0xBA, 0x63, 0x9C, 0xA5], .btEvIb (.mem (.based32 .ebx (.d8 0x9C))) 0xA5)] : List (Ctx × List Byte × Instr)).all decodesTo = true := by decide +kernel

/-- The rows 300 to 319 of the table, each from a word written out from its encoding. -/
theorem test_decode_rows_300 : ([(c16, [0x0F, 0xBA, 0xEA, 0xA5], .btsEvIb (.reg .edx) 0xA5),
    (c32, [0x0F, 0xBA, 0x73, 0x9C, 0xA5], .btrEvIb (.mem (.based32 .ebx (.d8 0x9C))) 0xA5),
    (c16, [0x0F, 0xBA, 0xB9, 0x65, 0x87, 0xA5], .btcEvIb (.mem (.based16 .bxDi (.d16 0x8765))) 0xA5),
    (c32, [0x0F, 0xBC, 0xD9], .bsfGvEv .ebx (.reg .ecx)),
    (c16, [0x0F, 0xBD, 0xB1, 0x65, 0x87], .bsrGvEv .esi (.mem (.based16 .bxDi (.d16 0x8765)))),
    (c32, [0x0F, 0xBE, 0x7B, 0x9C], .movsxGvEb .edi (.mem (.based32 .ebx (.d8 0x9C)))),
    (c16, [0x0F, 0xBF, 0xEB], .movsxGvEw .ebp (.reg .ebx)),
    (c32, [0x82], .ud82),
    (c16, [0xD6], .udD6),
    (c32, [0xF1], .udF1),
    (c16, [0xC0, 0x30], .udC0s6),
    (c32, [0xC1, 0x30], .udC1s6),
    (c16, [0xD0, 0x30], .udD0s6),
    (c32, [0xD1, 0x30], .udD1s6),
    (c16, [0xD2, 0x30], .udD2s6),
    (c32, [0xD3, 0x30], .udD3s6),
    (c16, [0xF6, 0x08], .udF6s1),
    (c32, [0xF7, 0x08], .udF7s1),
    (c16, [0xFE, 0x10], .udFEs2),
    (c32, [0xFE, 0x18], .udFEs3)] : List (Ctx × List Byte × Instr)).all decodesTo = true := by decide +kernel

/-- The rows 320 to 339 of the table, each from a word written out from its encoding. -/
theorem test_decode_rows_320 : ([(c16, [0xFE, 0x20], .udFEs4),
    (c32, [0xFE, 0x28], .udFEs5),
    (c16, [0xFE, 0x30], .udFEs6),
    (c32, [0xFE, 0x38], .udFEs7),
    (c16, [0xFF, 0x38], .udFFs7),
    (c32, [0x8F, 0x08], .ud8Fs1),
    (c16, [0xC6, 0x08], .udC6s1),
    (c32, [0xC7, 0x08], .udC7s1),
    (c16, [0x8F, 0x10], .ud8Fs2),
    (c32, [0xC6, 0x10], .udC6s2),
    (c16, [0xC7, 0x10], .udC7s2),
    (c32, [0x8F, 0x18], .ud8Fs3),
    (c16, [0xC6, 0x18], .udC6s3),
    (c32, [0xC7, 0x18], .udC7s3),
    (c16, [0x8F, 0x20], .ud8Fs4),
    (c32, [0xC6, 0x20], .udC6s4),
    (c16, [0xC7, 0x20], .udC7s4),
    (c32, [0x8F, 0x28], .ud8Fs5),
    (c16, [0xC6, 0x28], .udC6s5),
    (c32, [0xC7, 0x28], .udC7s5)] : List (Ctx × List Byte × Instr)).all decodesTo = true := by decide +kernel

/-- The rows 340 to 355 of the table, each from a word written out from its encoding. -/
theorem test_decode_rows_340 : ([(c16, [0x8F, 0x30], .ud8Fs6),
    (c32, [0xC6, 0x30], .udC6s6),
    (c16, [0xC7, 0x30], .udC7s6),
    (c32, [0x8F, 0x38], .ud8Fs7),
    (c16, [0xC6, 0x38], .udC6s7),
    (c32, [0xC7, 0x38], .udC7s7),
    (c16, [0x0F, 0x00, 0x30], .ud0F00s6),
    (c32, [0x0F, 0x00, 0x38], .ud0F00s7),
    (c16, [0x0F, 0x01, 0x28], .ud0F01s5),
    (c32, [0x0F, 0x01, 0x38], .ud0F01s7),
    (c16, [0x0F, 0xBA, 0x00], .ud0FBAs0),
    (c32, [0x0F, 0xBA, 0x08], .ud0FBAs1),
    (c16, [0x0F, 0xBA, 0x10], .ud0FBAs2),
    (c32, [0x0F, 0xBA, 0x18], .ud0FBAs3),
    (c16, [0x0F, 0xA6], .ud0FA6),
    (c32, [0x0F, 0xA7], .ud0FA7)] : List (Ctx × List Byte × Instr)).all decodesTo = true := by decide +kernel

/-! ### Witnesses: for each statement with hypotheses, a state and operands that meet them -/

theorem witness_ArithmeticFlags : 4 < 5 ∧ 4 < 32 := by decide

/-- The place of a word operand. -/
def openWord (n : Nat) (e : Rm Reg) : M (Place Reg) := openRm n e

/-- The place of a byte operand. -/
def openByte (e : Rm Reg8) : M (Place Reg8) := openRm 8 e

/-- Source read, then destination opened, for a word form. -/
def opensWord (f : WordForm) (s : State) : Bool :=
  ends (f.source s.osBits) s && ends (openRm s.osBits f.dest) (after (f.source s.osBits) s)

/-- The same for a byte form. -/
def opensByte (f : ByteForm) (s : State) : Bool := ends f.source s && ends (openRm 8 f.dest) (after f.source s)

theorem witness_TwoOperandFormsComplete :
    (Alu.add ≠ .cmp ∧ opensWord (.evGv (.mem atSi) .ebx) real16 = true ∧ opensWord (.gvEv .esp (.mem atSi)) real16 = true
      ∧ opensWord (.eaxIv 0xFFFF) real16 = true ∧ opensWord (.evIv (.reg .esp) 0) real16 = true
      ∧ opensWord (.evIbs (.mem (.direct16 0xFFFE)) 0x80) real16 = true)
    ∧ opensByte (.ebGb (.mem atSi) .bh) real16 = true ∧ opensByte (.gbEb .ah (.mem (.direct16 0xFFFF))) real16 = true
      ∧ opensByte (.alIb 0xFF) real16 = true ∧ opensByte (.ebIb (.reg .ah) 1) real16 = true := by decide +kernel

theorem witness_CompareAndTestComplete :
    ends (readRm 16 (.mem (.direct16 0xFFFE))) real16 = true ∧ ends (readRm8 (.mem (.direct16 0xFFFF))) real16 = true
      ∧ real16.osBits = 16
      ∧ opensWord (.gvEv .eax (.mem atSi)) real16 = true ∧ opensByte (.gbEb .ah (.mem atSi)) real16 = true := by decide +kernel

theorem witness_OneOperandFormsComplete :
    ends (openWord real16.osBits (.mem atSi)) real16 = true ∧ ends (openWord real16.osBits (.reg .esp)) real16 = true
      ∧ ends (openByte (.mem (.direct16 0xFFFF))) real16 = true := by decide +kernel

theorem witness_MultiplyComplete :
    valueOf (readRm 16 (.reg .ebx)) real16 = some 7 ∧ real16.osBits = 16
      ∧ ends (readRm 16 (.mem atSi)) real16 = true ∧ ends (readRm8 (.mem atSi)) real16 = true := by decide +kernel

/-- The quotient and the remainder at the ends of their ranges. -/
theorem witness_DivideFormsComplete :
    (let s := real16With 0xFFFF 0 1 0
     valueOf (readRm 16 (.reg .ebx)) s = some 1 ∧ s.osBits = 16
       ∧ (s.regN 16 .edx).toNat * 2 ^ 16 + (s.regN 16 .eax).toNat = 1 * 0xFFFF + 0 ∧ 0 < 1 ∧ 0xFFFF < 2 ^ 16)
    ∧ (let s := real16With 0xFF 0 1 0
       valueOf (readRm8 (.reg .bl)) s = some 1 ∧ (s.regN 16 .eax).toNat = 1 * 255 + 0)
    ∧ (let s := real16With 0x8000 0xFFFF 1 0
       valueOf (readRm 16 (.reg .ebx)) s = some 1
         ∧ (s.regN 16 .edx).toInt * 2 ^ 16 + (s.regN 16 .eax).toNat = 1 * (-0x8000) + 0)
    ∧ (let s := real16With 0xFF80 0 1 0
       valueOf (readRm8 (.reg .bl)) s = some 1 ∧ (s.regN 16 .eax).toInt = 1 * (-128) + 0)
    ∧ (let s := real16With 5 1 1 0
       valueOf (readRm 16 (.reg .ebx)) s = some 1 ∧ (1 : Nat) ≤ (s.regN 16 .edx).toNat
         ∧ valueOf (readRm 16 (.reg .ecx)) s = some 0)
    ∧ (let s := real16With 0x0100 0 1 0
       valueOf (readRm8 (.reg .bl)) s = some 1 ∧ (1 : Nat) ≤ (s.reg8 .ah).toNat ∧ valueOf (readRm8 (.reg .cl)) s = some 0)
    ∧ (let s := real16With 0x8000 0 1 0
       (s.regN 16 .edx).toInt * 2 ^ 16 + (s.regN 16 .eax).toNat = 1 * 2 ^ 15 + 0)
    ∧ (let s := real16With 0x7FFF 0xFFFF 1 0
       (s.regN 16 .edx).toInt * 2 ^ 16 + (s.regN 16 .eax).toNat = 1 * (-(2 ^ 15) - 1) + 0)
    ∧ (real16With 0x80 0 1 0).regN 16 .eax = BitVec.ofInt 16 (1 * 128 + 0)
    ∧ (real16With 0xFF7F 0 1 0).regN 16 .eax = BitVec.ofInt 16 (1 * (-129) + 0) := by
  decide +kernel

/-- Both values of the low-digit test, with AL on both sides of where it wraps. -/
theorem witness_DecimalAdjustComplete :
    (let low (s : State) := decide (9 < (s.reg8 .al).toNat % 16) || s.flags.af
     low (real16With 0xF9 0 0 0) = false ∧ low (withAf (real16With 0xF9 0 0 0)) = true
       ∧ low (real16With 0xFA 0 0 0) = true ∧ low (withAf (real16With 6 0 0 0)) = true
       ∧ low (withAf (real16With 5 0 0 0)) = true) ∧ (0x0A : Byte) ≠ 0 := by decide +kernel

/-- Checking a memory operand for writing and then reading it, as a count of 0 does. -/
def touches (n : Nat) (m : Mem) : M Unit := do
  let s ← get
  segProbe (s.memSegment m) (s.ea m) (n / 8) true
  let _ ← segRead (s.memSegment m) (s.ea m) (n / 8)

theorem witness_ShiftFormsComplete :
    ends (openWord real16.osBits (.mem atSi)) real16 = true ∧ ends (openByte (.reg .bh)) real16 = true
      ∧ ends (touches 16 atSi) real16 = true ∧ ends (touches 8 atSi) real16 = true
      ∧ (Count.imm 32).value real16 = 0 ∧ (Count.imm 31).value real16 = 31 ∧ Count.one.value real16 ≠ 0
      ∧ Count.cl.value real16 = 3 ∧ Count.cl.value (real16With 0 0 0 0x20) = 0 := by decide +kernel

theorem witness_ShiftResults : 1 < 2 ∧ 1 < 32 ∧ 0 < 1 ∧ 0 < 31 ∧ 31 ≤ 32 := by decide

/-- Counts 0, 16 and 17 of a 16-bit operand. -/
theorem witness_DoubleShiftFormsComplete :
    ends (openWord real16.osBits (.mem atSi)) real16 = true ∧ real16.osBits = 16 ∧ (Count.imm 0x20).value real16 = 0
      ∧ ends (touches 16 atSi) real16 = true
      ∧ (Count.imm 16).value real16 = 16 ∧ (Count.imm 17).value real16 = 17 := by decide +kernel

theorem witness_BitTestMemoryFormsComplete :
    real16.osBits = 16
      ∧ ends (segRead (real16.memSegment atSi) (real16.bitAddress 16 atSi (real16.regN 16 .ebx).toInt) 2) real16 = true
      ∧ ends (segRead (real16.memSegment atSi) (real16.ea atSi) 2) real16 = true ∧ BitOp.btc ≠ .bt
      ∧ ends (dataAddresses (real16.memSegment atSi) (real16.bitAddress 16 atSi (real16.regN 16 .ebx).toInt) 2 true) real16 = true
      ∧ ends (dataAddresses (real16.memSegment atSi) (real16.ea atSi) 2 true) real16 = true ∧ prot32.as32 = true := by
  decide +kernel

/-- A source of 0, and one whose only bit is both the lowest and the highest. -/
theorem witness_BitScanFormsComplete :
    valueOf (readRm 16 (.reg .edx)) real16 = some 0
      ∧ valueOf (readRm 16 (.reg .ebx)) (real16With 0 0 0x8000 0) = some 0x8000 ∧ bitAt (0x8000 : Word16) 15 = true
      ∧ (∀ j, j < 15 → bitAt (0x8000 : Word16) j = false) ∧ real16.osBits = 16 := by decide +kernel

theorem witness_BitScanHighest : ∀ j, 15 < j → bitAt (0x8000 : Word16) j = false := by
  intro j h
  unfold bitAt
  exact BitVec.getLsbD_of_ge _ _ (by omega)

theorem witness_MoveFormsComplete :
    ends (openByte (.mem (.direct16 0xFFFF))) real16 = true ∧ ends (openWord real16.osBits (.mem atSi)) real16 = true
      ∧ ends (readRm8 (.mem atSi)) real16 = true ∧ ends (readRm real16.osBits (.mem (.direct16 0xFFFE))) real16 = true
      ∧ ends (readRm 16 (.reg .esp)) real16 = true ∧ ends (segRead real16.dataSegment 0xFFFF 1) real16 = true
      ∧ ends (segRead real16.dataSegment 0 (real16.osBits / 8)) real16 = true
      ∧ ends (dataAddresses real16.dataSegment 0xFFFF 1 true) real16 = true
      ∧ ends (dataAddresses real16.dataSegment 0xFFFE (real16.osBits / 8) true) real16 = true := by decide +kernel

theorem witness_ExchangeFormsComplete :
    ends (openWord real16.osBits (.mem atSi)) real16 = true ∧ ends (openByte (.mem atSi)) real16 = true := by decide +kernel

theorem witness_AccumulatorFormsComplete :
    ends (segRead real16.dataSegment (sized real16.as32 (real16.reg .ebx + (real16.reg8 .al).setWidth 32)) 1) real16 = true := by
  decide +kernel

/-- Each clause: the level allows, no trap is armed, and each trap. -/
theorem witness_ProcessorControlComplete :
    real16.ioAllowed = true ∧ prot32.ioAllowed = true ∧ real16.privilegedOk = true ∧ prot32.privilegedOk = true
      ∧ real16.cr0.mp = false ∧ real16.cr0.em = false ∧ real16.cr0.ts = false
      ∧ real16.cr0.pg = false ∧ real16.segFault (real16.memSegment atSi) (real16.ea atSi) 1 .read = none
      ∧ (let s := withMem 0x4000 [0xDF] { real16 with cr0 := { real16.cr0 with em := true } }
         (valueOf fetchByte s.begin = some 0xDF) ∧ s.begin.cur.lock = false ∧ s.begin.cr0.em = true)
      ∧ ({ real16 with cr0 := { real16.cr0 with mp := true, ts := true } } : State).cr0.ts = true
      ∧ ({ real16 with cr0 := { real16.cr0 with mp := true, ts := true } } : State).cr0.mp = true := by decide +kernel

/-- The `n` bytes of a memory operand that lie `k` bytes on, modulo 2^AS. -/
def secondPart (m : Mem) (k n : Nat) : M Nat := do
  let s ← get
  segRead (s.memSegment m) (sized s.as32 (s.ea m + BitVec.ofNat 32 k)) n

/-- A far pointer in the middle of the segment, and one whose second part wraps to offset 0. -/
theorem witness_SegmentMovesInRealMode :
    real16.protected = false ∧ SegReg.ss ≠ .cs ∧ ends (readRm 16 (.mem atSi)) real16 = true
      ∧ ends (stackRead 0 (real16.osBits / 8)) real16 = true
      ∧ ends (segRead (real16.memSegment atSi) (real16.ea atSi) 2) real16 = true
      ∧ ends (secondPart atSi 2 2) (after (segRead (real16.memSegment atSi) (real16.ea atSi) 2) real16) = true
      ∧ (let s := { real16 with gpr := { real16.gpr with esi := 0xFFFE } }
         sized s.as32 (s.ea atSi + BitVec.ofNat 32 2) = 0
           ∧ ends (secondPart atSi 2 2) (after (segRead (s.memSegment atSi) (s.ea atSi) 2) s) = true)
      ∧ real16.osBits = 16 ∧ ends (openWord 16 (.mem atSi)) real16 = true := by decide +kernel

/-- The data descriptor of a selector in `ax` of the protected-mode state. -/
def descOf (sel : Word16) : Option Desc := valueOf (readDesc sel .gp) prot32

/-- Which clause of the loads of DS, ES, FS and GS a selector falls under: null, wrong type, not visible, absent, or
loaded. -/
def dataClause (sel : Word16) : M Nat :=
  if isNull sel then pure 0 else do
  let d ← readDesc sel .gp
  let s ← get
  if !d.isReadable then pure 1
  else if !d.isConforming && d.dpl < weaker s.level (rpl sel) then pure 2
  else if !d.present then pure 3
  else do
    markAccessed sel d
    pure 4

/-- The same of the loads of SS. -/
def stackClause (sel : Word16) : M Nat :=
  if isNull sel then pure 0 else do
  let d ← readDesc sel .gp
  let s ← get
  if !(d.isWritable && rpl sel == s.level && d.dpl == s.level) then pure 1
  else if !d.present then pure 3
  else do
    markAccessed sel d
    pure 4

/-- A state with a selector in AX, on the stack, and after an offset at ESI. -/
def selects (sel : Byte) : State :=
  withMem 0x14 [sel] (withMem 0x8000 [sel] { ring0 with gpr := { ring0.gpr with eax := sel.setWidth 32 } })

/-- Each clause: null selectors with RPL 0 and 3; the LDT's descriptor; data of level 0 with RPL 3; the absent segment;
data, and conforming code with RPL 3. For SS a wrong RPL, and data of level 3. -/
theorem witness_SegmentLoadsInProtectedMode :
    ring0.protected = true
      ∧ [0, 3, 0x20, 0x13, 0x18, 0x10, 0x33].map (fun x => valueOf (do
          let sel ← readRm 16 (.reg .eax)
          dataClause sel) (selects x)) = [some 0, some 0, some 1, some 2, some 3, some 4, some 4]
      ∧ [0, 0x13, 0x43, 0x18, 0x10].map (fun x => valueOf (do
          let v ← stackRead 0 4
          stackClause (BitVec.ofNat 16 v)) (selects x)) = [some 0, some 1, some 1, some 3, some 4]
      ∧ [0, 0x20, 0x13, 0x18, 0x10].map (fun x => valueOf (do
          let s ← get
          let _ ← segRead (s.memSegment atEsi) (s.ea atEsi) 4
          let v ← secondPart atEsi 4 2
          dataClause (BitVec.ofNat 16 v)) (selects x)) = [some 0, some 1, some 2, some 3, some 4] := by decide +kernel

theorem witness_PushAndPopMoveTheStackPointer :
    real16.pushShutsDown 4 = false
      ∧ [0, 1, 3, 4].map (fun v => (real16.setReg .esp v).pushShutsDown 4) = [false, true, true, false]
      ∧ real16.cr0.pe = false ∧ excOf (push 4 0) (real16.setReg .esp 3) = some .shutdown
      ∧ ends (dataAddresses .ss (real16.stackOffset (real16.sp - BitVec.ofNat 32 4)) 4 true) real16 = true
      ∧ ends (segRead .ss real16.sp 4) real16 = true := by decide +kernel

theorem witness_PushAndPopFormsComplete :
    ends (push 2 5) real16 = true ∧ ends (readRm 16 (.mem atSi)) real16 = true
      ∧ ends (push 2 5) (after (readRm 16 (.mem atSi)) real16) = true ∧ ends (pop 2) real16 = true
      ∧ ends (openWord 16 (.mem atSi)) (after (pop 2) real16) = true
      ∧ real16.os32 = false ∧ prot32.os32 = true ∧ ends (push 4 5) prot32.drawn = true := by decide +kernel

/-- The least stack pointer with room; each case in which real mode has none, at both ends; and eight pops in a row. -/
theorem witness_PushAllAndPopAllComplete :
    real16.osBits ≤ real16.sp.toNat ∧ prot32.cr0.pe = true
      ∧ ends (stackPlaces 2 true [-2, -4, -6, -8, -10, -12, -14, -16]) real16 = true
      ∧ (let t (sp : Word32) := { real16 with gpr := { real16.gpr with esp := sp } }
         (t 16).osBits ≤ (t 16).sp.toNat ∧ ends (stackPlaces 2 true [-2, -4, -6, -8, -10, -12, -14, -16]) (t 16) = true
           ∧ [0, 1, 6, 14].all (fun x => decide ((t x).sp.toNat ∉ [7, 9, 11, 13, 15]) && !(t x).os32
               && decide ((t x).sp.toNat < (t x).osBits)) = true
           ∧ (t 1).sp.toNat = 1 ∧ (t 7).cr0.pe = false ∧ (t 7).sp.toNat ∈ [7, 9, 11, 13, 15]
           ∧ (t 15).sp.toNat ∈ [7, 9, 11, 13, 15])
      ∧ (let t (sp : Word32) := { real16 with gpr := { real16.gpr with esp := sp }, cur := { real16.cur with opSize := true } }
         [0, 28].all (fun x => (t x).os32 && decide ((t x).sp.toNat < 32) && decide ((t x).sp.toNat % 4 = 0)) = true
           ∧ [1, 31].all (fun x => (t x).os32 && decide ((t x).sp.toNat < 32) && decide ((t x).sp.toNat % 4 ≠ 0)) = true
           ∧ (t 32).osBits ≤ (t 32).sp.toNat)
      ∧ ends (stackPlaces 2 false [0, 2, 4, 6, 8, 10, 12, 14]) real16 = true := by decide +kernel

theorem witness_FlagPushAndPopComplete :
    real16.v86 = false ∧ real16.os32 = false ∧ prot32.v86 = false ∧ prot32.os32 = true
      ∧ ends (push 2 ((({ real16.flags with vm := false, rf := false } : Flags).image 0).setWidth 16).toNat) real16 = true
      ∧ ends (pop 2) real16 = true := by decide +kernel

theorem witness_FlagPushWide (u : BitVec 14) :
    ends (push 4 (({ prot32.flags with vm := false, rf := false } : Flags).image u).toNat) prot32.drawn = true := rfl

theorem witness_PortFormsComplete : real16.ioAllowed = true ∧ prot32.ioAllowed = true := by decide +kernel

theorem witness_StringElements :
    ends (segRead real16.dataSegment (real16.indexReg .esi) 2) real16 = true
      ∧ (let t := after (segRead real16.dataSegment (real16.indexReg .esi) 2) real16
         ends (dataAddresses .es (t.indexReg .edi) 2 true) t = true ∧ ends (segRead .es (t.indexReg .edi) 2) t = true)
      ∧ real16.ioAllowed = true ∧ ends (segRead .es (real16.indexReg .edi) 4) real16 = true
      ∧ ends (dataAddresses .es (real16.indexReg .edi) 1 true) real16 = true
      ∧ ends (segProbe .es (real16.indexReg .edi) 1 true) real16 = true
      ∧ (let t := after (segProbe .es (real16.indexReg .edi) 1 true) real16
         ends (dataAddresses .es (t.indexReg .edi) 1 true) { t with ioTrace := .portRead 0 1 :: t.ioTrace } = true) := by
  decide +kernel

theorem witness_StringInstructionsComplete :
    real16.cur.rep = none ∧ ends (StringOp.movs.element 8) real16 = true ∧ ends (StringOp.ins.element 16) real16 = true
      ∧ (let t := { real16 with cur := { real16.cur with rep := some .repne } }
         t.cur.rep = some .repne ∧ StringOp.scas.compares = true ∧ StringOp.movs.compares = false
           ∧ t.indexReg .ecx ≠ 0 ∧ ends (StringOp.scas.element 8) t = true
           ∧ ({ t with gpr := { t.gpr with ecx := 0x10000 } } : State).indexReg .ecx = 0) := by decide +kernel

theorem witness_ConditionCodes : Cond.o.code.toNat % 2 = 0 ∧ Cond.no.code.toNat = Cond.o.code.toNat + 1
    ∧ Cond.le.code.toNat % 2 = 0 ∧ Cond.nle.code.toNat = Cond.le.code.toNat + 1 := by decide

/-- The last offset of the segment and the first outside it; each count, each condition. -/
theorem witness_JumpFormsComplete :
    real16.inSegment .cs (real16.relativeTarget 0xFFFC) 1 = true
      ∧ prot32.inSegment .cs (prot32.relativeTarget 0) 1 = true
      ∧ (let t := { real16 with segs := { real16.segs with cs := { real16.segs.cs with limit := 0xFF } } }
         t.inSegment .cs (t.relativeTarget 0xFC) 1 = true ∧ t.inSegment .cs (t.relativeTarget 0xFD) 1 = false)
      ∧ real16.flags.holds .nz = true ∧ real16.flags.holds .z = false
      ∧ real16.inSegment .cs (real16.relativeTarget ((0x80 : Byte).signExtend 32)) 1 = true
      ∧ (real16With 0 0 0 0).indexReg .ecx = 0 ∧ real16.indexReg .ecx ≠ 0
      ∧ (real16.withIndexReg .ecx (real16.indexReg .ecx - 1)).indexReg .ecx ≠ 0
      ∧ (let t := real16With 0 0 0 1
         (t.withIndexReg .ecx (t.indexReg .ecx - 1)).indexReg .ecx = 0)
      ∧ valueOf (readRm 16 (.reg .ebx)) real16 = some 7 ∧ real16.inSegment .cs 7 1 = true
      ∧ (let t := { real16 with segs := { real16.segs with cs := { real16.segs.cs with limit := 6 } } }
         t.inSegment .cs 7 1 = false ∧ t.inSegment .cs (t.relativeTarget ((4 : Byte).signExtend 32)) 1 = false
           ∧ t.inSegment .cs (t.relativeTarget ((3 : Byte).signExtend 32)) 1 = true)
      ∧ ends (openByte (.mem atSi)) real16 = true := by decide +kernel

theorem witness_NearCallsAndReturnsComplete :
    real16.inSegment .cs (real16.relativeTarget 0x10) 1 = true ∧ ends (push 2 real16.cur.npc.toNat) real16 = true
      ∧ valueOf (readRm 16 (.reg .ebx)) real16 = some 7 ∧ real16.inSegment .cs 7 1 = true
      ∧ valueOf (pop 2) real16 = some 0 ∧ real16.inSegment .cs (BitVec.ofNat 32 0) 1 = true := by decide +kernel

/-- Far transfers in real mode, and to the three kinds of code segment of the GDT. -/
theorem witness_FarTransfersComplete :
    real16.protected = false ∧ (0xFFFF : Word32).toNat ≤ 0xFFFF
      ∧ ends (pushAll 2 [real16.segs.cs.sel.toNat, real16.cur.npc.toNat]) real16 = true
      ∧ valueOf (segRead (real16.memSegment atSi) (real16.ea atSi) 2) real16 = some 0
      ∧ ends (secondPart atSi 2 2) (after (segRead (real16.memSegment atSi) (real16.ea atSi) 2) real16) = true
      ∧ ends (pushAll 2 [1, 2]) (after (secondPart atSi 2 2) real16) = true ∧ 0xFFFF < (0x10000 : Word32).toNat
      ∧ valueOf (stackRead 0 2) real16 = some 0 ∧ ends (stackRead 2 2) (after (stackRead 0 2) real16) = true
      ∧ prot32.protected = true ∧ isNull 8 = false
      ∧ (descOf 8).map (fun d => (d.isCode, d.isConforming, decide (d.dpl = prot32.level), d.present, d.limit)) = some (true, false, true, true, 0xFFFFFFFF)
      ∧ rpl 8 ≤ prot32.level
      ∧ (descOf 8).map (fun d => ends (markAccessed 8 d) prot32) = some true
      ∧ (descOf 0x30).map (fun d => (d.isCode, d.isConforming, decide (d.dpl ≤ prot32.level))) = some (true, true, true)
      ∧ (descOf 0x38).map (fun d => (d.isCode, d.isConforming, decide (d.dpl = prot32.level))) = some (true, false, false) := by
  decide +kernel

/-- A far CALL in protected mode, with room for its frame and without; a far pointer in memory to a code segment, null, to
an absent code segment, and beyond the end of a segment. -/
theorem witness_FarCallsInProtectedMode :
    [8, 0x30, 0x38, 0, 3].all (fun x => ends (do
        let _ ← segRead .ds 0x10 4
        let v ← secondPart atEsi 4 2
        check (v == x)) (withMem 0x14 [BitVec.ofNat 8 x] ring0)) = true
      ∧ (let s := withMem 0x100D [0x1B] ring0
         (valueOf (readDesc 8 .gp) s).map (fun d => (d.isCode, decide (d.dpl = s.level), d.present)) = some (true, true, false))
      ∧ (let s := withMem 0x100E [0] ring0
         (valueOf (readDesc 8 .gp) s).map (fun d => (d.isCode, d.present, d.limit)) = some (true, true, 0xFFFF)) ∧
    ring0.segs.ss.hasRoom ring0.stack32 ring0.sp 2 4 = true
      ∧ (let t (limit : Word32) := { ring0 with segs := { ring0.segs with ss := { ring0.segs.ss with limit := limit } } }
         (t 0x7FFF).segs.ss.hasRoom (t 0x7FFF).stack32 (t 0x7FFF).sp 2 4 = true
           ∧ (t 0x7FFE).segs.ss.hasRoom (t 0x7FFE).stack32 (t 0x7FFE).sp 2 4 = false)
      ∧ ends (do
          let d ← readDesc 8 .gp
          check (d.isCode && !d.isConforming && d.dpl == 0 && d.present)
          pushAll 4 [ring0.segs.cs.sel.toNat, ring0.cur.npc.toNat]
          markAccessed 8 d) ring0 = true := by decide +kernel

/-- The frame of a far return or of IRET (where `image` is the flags) to a selector, and an outer stack above it. -/
def frame (sel : Byte) (image : List Byte) : List Byte :=
  [0, 2, 0, 0, sel, 0, 0, 0] ++ image ++ [0, 0x90, 0, 0, 0x43, 0, 0, 0]

/-- The hypotheses of a return to the same level (`frame` bytes are popped). -/
def returnsSame (sel : Word16) : M Unit := do
  let s ← get
  check (!isNull sel && rpl sel == s.level)
  let d ← readDesc sel .gp
  check (d.isCode && d.present && (if d.isConforming then d.dpl ≤ rpl sel else d.dpl == rpl sel) && 0x200 ≤ d.limit.toNat)
  markAccessed sel d

/-- The hypotheses of a return to an outer level. -/
def returnsOuter (sel : Word16) (n frame : Nat) : M Unit := do
  let s ← get
  check (!isNull sel && decide (s.level < rpl sel))
  let d ← readDesc sel .gp
  check (d.isCode && d.present && (if d.isConforming then d.dpl ≤ rpl sel else d.dpl == rpl sel) && 0x200 ≤ d.limit.toNat)
  let _ ← segRead .ss (s.stackOffset (s.sp + BitVec.ofNat 32 frame)) n
  let nss ← segRead .ss (s.stackOffset (s.sp + BitVec.ofNat 32 (frame + n))) n
  let sd ← readDesc (BitVec.ofNat 16 nss) .gp
  check (!isNull (BitVec.ofNat 16 nss) && sd.isWritable && rpl (BitVec.ofNat 16 nss) == rpl sel && sd.dpl == rpl sel && sd.present)
  markAccessed sel d
  update fun s => s.inCode sel d (rpl sel) 0x200
  markAccessed (BitVec.ofNat 16 nss) sd

/-- A far return to the same and to an outer level. -/
theorem witness_FarReturnsInProtectedMode :
    ends (do
        let _ ← stackRead 0 4
        let sel ← stackRead 4 4
        returnsSame (BitVec.ofNat 16 sel)) (withMem 0x8000 (frame 8 []) ring0) = true
      ∧ ends (do
        let _ ← stackRead 0 4
        let sel ← stackRead 4 4
        returnsOuter (BitVec.ofNat 16 sel) 4 8) (withMem 0x8000 (frame 0x3B []) ring0) = true := by decide +kernel

/-- The hypotheses on a call gate, and what then holds of its code segment. -/
def throughGate (sel : Word16) (inner : Bool) : M Desc := do
  let s ← get
  let g ← readDesc sel .gp
  check (!isNull sel && (g.isSystem 4 || g.isSystem 0xC) && decide (weaker s.level (rpl sel) ≤ g.dpl) && g.present)
  check (!isNull g.gateSelector)
  let d ← readDesc g.gateSelector .gp
  check (d.isCode && decide (d.dpl ≤ s.level) && d.present && g.gateSelector == 8)
  check (decide ((g.gateOffset (g.isSystem 0xC)).toNat ≤ d.limit.toNat))
  check (if inner then !d.isConforming && decide (d.dpl < s.level) else d.dpl == s.level)
  pure g

/-- Call gates of both sizes at the same level and to an inner one, with and without parameters. -/
theorem witness_CallGates :
    ends (do
        let g ← throughGate 0x48 false
        check (g.isSystem 0xC && ring0.segs.ss.hasRoom ring0.stack32 ring0.sp 2 4)
        pushAll 4 [ring0.segs.cs.sel.toNat, ring0.cur.npc.toNat]
        let d ← readDesc 8 .gp
        markAccessed 8 d) ring0 = true
      ∧ ends (do
        let g ← throughGate 0x50 false
        check (g.isSystem 4 && ring0.segs.ss.hasRoom ring0.stack32 ring0.sp 2 2)
        pushAll 2 [ring0.segs.cs.sel.toNat, ring0.cur.npc.toNat]) ring0 = true
      ∧ [(0x4B, 4), (0x53, 2)].all (fun x => ends (do
        let g ← throughGate x.1 true
        let d ← readDesc 8 .gp
        let (nss, nesp) ← innerStack 0
        let sd ← readDesc nss .ts
        check (!isNull nss && sd.isWritable && rpl nss == 0 && sd.dpl == 0 && sd.present)
        check ((sd.cache nss).hasRoom (sd.cache nss).big nesp (4 + g.gateCount) x.2)
        let ps ← readParameters x.2 g.gateCount 0
        markAccessed nss sd
        update fun s => ({ s.setSeg .ss (sd.cache nss) with cpl := 0 } : State).withSp nesp
        pushAll x.2 ([ring3.segs.ss.sel.toNat, (ring3.reg .esp).toNat] ++ ps.reverse ++ [ring3.segs.cs.sel.toNat, ring3.cur.npc.toNat])
        markAccessed 8 d) ring3) = true := by decide +kernel

/-- A vector whose entry ends exactly at the limit of the table. -/
theorem witness_RealModeDelivery :
    real16.cr0.pe = false ∧ 4 * (0xFF : Byte).toNat + 3 ≤ real16.idtr.limit.toNat
      ∧ ends (pushAll 2 [(real16.flags.image 0).toNat, real16.segs.cs.sel.toNat, 5]) real16 = true
      ∧ (let t := after (pushAll 2 [(real16.flags.image 0).toNat, real16.segs.cs.sel.toNat, 5]) real16
         ends (sysRead (real16.idtr.base + BitVec.ofNat 32 (4 * 0xFF)) 2) t = true
           ∧ ends (sysRead (real16.idtr.base + BitVec.ofNat 32 (4 * 0xFF + 2)) 2)
               (after (sysRead (real16.idtr.base + BitVec.ofNat 32 (4 * 0xFF)) 2) t) = true) := by decide +kernel

theorem witness_InterruptsAndReturnsComplete :
    real16.cr0.pe = false ∧ 4 * (0x21 : Byte).toNat + 3 ≤ real16.idtr.limit.toNat
      ∧ ends (do
          pushAll 2 [(real16.flags.image 0).toNat, real16.segs.cs.sel.toNat, real16.cur.npc.toNat]
          let _ ← sysRead (real16.idtr.base + BitVec.ofNat 32 (4 * 0x21)) 2
          sysRead (real16.idtr.base + BitVec.ofNat 32 (4 * 0x21 + 2)) 2) real16 = true
      ∧ real16.flags.ovf = false ∧ ({ real16 with flags := { real16.flags with ovf := true } } : State).flags.ovf = true
      ∧ real16.protected = false ∧ (v86With 3).protected = false ∧ (v86With 3).v86 = true
      ∧ [real16, v86With 3].all (fun s =>
          let t := { s with nmiInService := false, cur := { s.cur with keepRf := true } }
          valueOf (pop 2) t == some 0
           && ends (do
              let _ ← pop 2
              let _ ← pop 2
              pop 2) t) = true := by decide +kernel

/-- A software interrupt that is delivered, in real mode and through a gate of level 3. -/
theorem witness_SoftwareInterruptsDelivered :
    ends (deliver { vec := 0x21, kind := .software, err := none, ret := 3, rf := some false }) real16 = true
      ∧ ring3.v86 = false := by decide +kernel

theorem witness_SoftwareInterruptThroughGate :
    ends (deliver { vec := 0, kind := .software, err := none, ret := 3, rf := some false }) ring3 = true := by decide +kernel

/-- IRET in protected mode: to the same level, to an outer one, and with VM set in the image to V86 mode. -/
theorem witness_ReturnsInProtectedMode :
    ring0.protected = true ∧ ring0.flags.nt = false ∧ ring0.level = 0 ∧ ring0.os32 = true
      ∧ (let start (s : State) : State := { s with nmiInService := false, cur := { s.cur with keepRf := true } }
         let frameOf : M (Word16 × Nat) := do
           let _ ← stackRead 0 4
           let sel ← stackRead 4 4
           let img ← stackRead 8 4
           pure (BitVec.ofNat 16 sel, img)
         ends (do
             let (sel, img) ← frameOf
             check (!bitAt (BitVec.ofNat 32 img) 17)
             returnsSame sel) (start (withMem 0x8000 (frame 8 [2, 0, 0, 0]) ring0)) = true
           ∧ ends (do
             let (sel, img) ← frameOf
             check (!bitAt (BitVec.ofNat 32 img) 17)
             returnsOuter sel 4 12) (start (withMem 0x8000 (frame 0x3B [2, 0, 0, 0]) ring0)) = true
           ∧ ends (do
             let (_, img) ← frameOf
             check (bitAt (BitVec.ofNat 32 img) 17)
             let _ ← stackRead 12 4
             let _ ← stackRead 16 4
             let _ ← stackRead 20 4
             let _ ← stackRead 24 4
             let _ ← stackRead 28 4
             stackRead 32 4) (start (withMem 0x8000 (frame 0x40 [2, 0, 2, 0]) ring0)) = true) := by decide +kernel

theorem witness_UndefinedOpcodesEnterVectorSix :
    Instr.udD6 ∈ unassigned ∧ Instr.ud0FA7 ∈ unassigned ∧ real16.cr0.pe = false
      ∧ 27 ≤ ({ real16 with idtr := { base := 0, limit := 27 } } : State).idtr.limit.toNat
      ∧ ends (do
          pushAll 2 [(real16.flags.image 0).toNat, real16.segs.cs.sel.toNat, real16.pc.toNat]
          let _ ← sysRead (real16.idtr.base + 24) 2
          sysRead (real16.idtr.base + 26) 2) (unwind real16 real16) = true := by decide +kernel

theorem witness_FaultsRestoreTheState :
    (let t := { real16 with cur := { real16.cur with walk := [(0x5000, 0x20), (0x6000, 0x60)] } }
     t.cur.committed = false ∧ Memory.wf real16.mem = true ∧ (∀ c ∈ t.cur.walk, c.2 &&& settled = 0))
    ∧ real16.cur.walk = [] := by decide +kernel

/-- The hypotheses of a delivery through the gate of a vector, up to the error code. -/
def throughIdt (v : Byte) : M Desc := do
  let s ← get
  check (s.cr0.pe && decide (8 * v.toNat + 7 ≤ s.idtr.limit.toNat))
  let n ← sysRead (s.idtr.base + 8 * v.setWidth 32) 8
  let g : Desc := BitVec.ofNat 64 n
  check (!g.isSegment && [6, 7, 0xE, 0xF].contains g.type && g.present && g.gateSelector == 8 && !isNull g.gateSelector)
  let d ← readDesc g.gateSelector .gp
  check (d.isCode && decide (d.dpl ≤ s.level) && d.present && !d.isConforming && 0x100 ≤ d.limit.toNat)
  pure d

/-- The interrupt gate and the 80286 trap gate, at the level of the program and above it; a software interrupt that the
level of the gate allows and one from level 0; and V86 mode, also to a handler that is not at level 0. -/
theorem witness_GateDelivery :
    [ring0, ring3, v86With 0].all (fun s => ends (throughIdt 0) s && ends (throughIdt 1) s) = true
      ∧ ring0.segs.ss.hasRoom ring0.stack32 ring0.sp 4 4 = true ∧ ring0.segs.ss.hasRoom ring0.stack32 ring0.sp 3 2 = true
      ∧ ring0.flags.vm = false ∧ ring3.flags.vm = false ∧ (v86With 0).flags.vm = true
      ∧ (valueOf (readDesc 8 .gp) ring0).map (fun d => (d.dpl, ends (markAccessed 8 d) ring0)) = some (0, true)
      ∧ (let s := { v86With 0 with mem := cells 0x1000 (gdtBytes ++ ringBytes) ++ cells 0x2000 [0, 1, 0x30, 0, 0, 0xEE, 0, 0] }
         (valueOf (sysRead 0x2000 8) s).map (fun n => Desc.gateSelector (BitVec.ofNat 64 n)) = some 0x30
           ∧ (valueOf (readDesc 0x30 .gp) s).map (fun d => (d.isCode, d.isConforming, d.present)) = some (true, true, true))
      ∧ [ring3, v86With 0].all (fun s => ends (do
          let (nss, nesp) ← innerStack 0
          let sd ← readDesc nss .ts
          check (!isNull nss && sd.isWritable && rpl nss == 0 && sd.dpl == 0 && sd.present)
          check ((sd.cache nss).hasRoom (sd.cache nss).big nesp (6 + (if s.flags.vm then 4 else 0)) 4)
          markAccessed nss sd) s) = true := by decide +kernel

/-- The frames of those deliveries can be pushed; bits of their images and of the error code are free. -/
theorem witness_GateDeliveryFrames :
    (let img (s : State) : Nat := (({ s.flags with rf := bitAt s.fresh 0 } : Flags).image (s.fresh.extractLsb' 18 14)).toNat
     let err (s : State) : Nat := (insertLow s.fresh (0x12 : Word16)).toNat
     ends (pushAll 4 [img ring0, ring0.segs.cs.sel.toNat, 5, err ring0.drawn]) ring0.drawn.drawn = true
      ∧ ends (pushAll 2 [img ring0, ring0.segs.cs.sel.toNat, 5]) ring0.drawn = true
      ∧ ends (pushAll 4 [ring3.segs.ss.sel.toNat, (ring3.reg .esp).toNat, img ring3, ring3.segs.cs.sel.toNat, 5, err ring3.drawn])
          ((({ ring3.drawn.drawn.setSeg .ss (flatSeg false 0x10 0) with cpl := 0 } : State)).withSp 0x7000) = true
      ∧ ends (pushAll 4 [0, 0, 0x100, 0x300, 0x200, 0x100, img (v86With 0), 0x400, 5])
          ((({ (v86With 0).drawn.setSeg .ss (flatSeg false 0x10 0) with
               cpl := 0, flags := { ring3.flags with vm := false } } : State)).withSp 0x7000) = true) := by decide +kernel

/-- A vector outside the table, delivered after a double fault, after a contributory exception, and after another. -/
theorem witness_DoubleFaults :
    (let e (v : Byte) (k : DeliveryKind) : Event := { vec := v, kind := k, err := none, ret := 0, rf := none }
     excOf (deliver (e 8 .exception)) prot32 = some (.vector 13 (some 0x42))
       ∧ excOf (deliver (e 13 .exception)) prot32 = some (.vector 13 (some 0x6A))
       ∧ excOf (deliver (e 6 .exception)) prot32 = some (.vector 13 (some 0x32))
       ∧ excOf (deliver (e 0x21 .software)) prot32 = some (.vector 13 (some 0x10A)))
    ∧ (13 : Byte) ∈ [(0 : Byte), 10, 11, 12, 13] := by decide +kernel

/-- The least stack pointer with room for the frame, and the last vector of the table. -/
theorem witness_InterruptReturnUndoesDelivery :
    (let s := { real16 with gpr := { real16.gpr with esp := 6 } }
     let e : Event := { vec := 0xFF, kind := .external, err := none, ret := 0xFFFF, rf := some false }
     s.cr0.pe = false ∧ s.flat = true ∧ Memory.wf s.mem = true ∧ s.segs.ss = SegCache.real s.segs.ss.sel 0
       ∧ s.segs.ss.base.toNat + 0xFFFF < 0x100000 ∧ 6 ≤ (s.reg .esp &&& 0xFFFF).toNat ∧ e.ret.toNat ≤ 0xFFFF
       ∧ s.flags.rf = false ∧ 4 * e.vec.toNat + 3 ≤ s.idtr.limit.toNat ∧ ends (deliver e) s = true) := by decide +kernel

theorem witness_PrivilegedInstructionsTrap :
    user32.cr0.pe = true ∧ user32.cpl ≠ 0 ∧ user32.flags.vm = false
      ∧ ({ user32 with cpl := 0, flags := { user32.flags with vm := true } } : State).flags.vm = true := by decide +kernel

theorem witness_IoSensitiveInstructionsTrap :
    user32.cr0.pe = true ∧ user32.flags.iopl < user32.level ∧ user32.cur.rep = none ∧ user32.indexReg .ecx ≠ 0
      ∧ (v86With 2).cr0.pe = true ∧ (v86With 2).flags.iopl < (v86With 2).level ∧ (v86With 2).flags.vm = true := by
  decide +kernel

theorem witness_ProtectedOnlyInstructionsTrap :
    real16.cr0.pe = false ∧ ({ prot32 with flags := { prot32.flags with vm := true } } : State).flags.vm = true := by
  decide +kernel

/-- ENTER with levels 0 and 2, and with level 31 where its last push would wrap or lie outside the stack; LEAVE, and BOUND
on and beside its bounds. -/
theorem witness_FrameFormsComplete :
    ends (probePushes 2 1 real16.sp) real16 = true ∧ ends (probePushes 2 3 real16.sp) real16 = true ∧
    excOf (probePushes 2 32 3) (real16With 0 0 0 0) = some .shutdown ∧
    (let t := { prot32 with segs := { prot32.segs with ss := { prot32.segs.ss with expandDown := true, limit := 0x7F80 } } }
     excOf (probePushes 4 32 t.sp) t = some (.ss 0) ∧ ends (probePushes 4 31 t.sp) t = true) ∧
    real16.osBits = 16 ∧ ends (push 2 (real16.regN 16 .ebp).toNat) real16 = true
      ∧ (let t := after (push 2 (real16.regN 16 .ebp).toNat) real16
         ends (copyFrames 16 1) t = true ∧ ends (push 2 t.sp.toNat) (after (copyFrames 16 1) t) = true)
      ∧ (0x20 : Byte).toNat % 32 = 0 ∧ 0 < (2 : Byte).toNat % 32
      ∧ ends (pop 2) (real16.withSp (real16.stackOffset (real16.reg .ebp))) = true
      ∧ (let s := withMem 0x1010 [7, 0, 7, 0] real16
         valueOf (segRead (s.memSegment atSi) (s.ea atSi) 2) s = some 7
           ∧ valueOf (secondPart atSi 2 2) (after (segRead (s.memSegment atSi) (s.ea atSi) 2) s) = some 7
           ∧ (BitVec.ofNat 16 7).toInt ≤ (s.regN 16 .ebx).toInt ∧ (s.regN 16 .ebx).toInt ≤ (BitVec.ofNat 16 7).toInt
           ∧ (s.regN 16 .ecx).toInt < (BitVec.ofNat 16 7).toInt)
      ∧ (let t := real16.setRegN .ebp (real16.regN 16 .ebp - BitVec.ofNat 16 2)
         ends (segRead .ss ((t.regN 16 .ebp).setWidth 32) 2) t = true
           ∧ ends (push 2 0) (after (segRead .ss ((t.regN 16 .ebp).setWidth 32) 2) t) = true) := by decide +kernel

theorem witness_TableRegisterFormsComplete :
    real16.privilegedOk = true ∧ real16.os32 = false ∧ prot32.os32 = true
      ∧ ends (do
          let _ ← segRead (real16.memSegment atSi) (real16.ea atSi) 2
          secondPart atSi 2 4) real16 = true
      ∧ ends (segWrite (real16.memSegment atSi) (real16.ea atSi) 2 real16.gdtr.limit.toNat) real16 = true
      ∧ ends (do
          segWrite (prot32.memSegment atEsi) (prot32.ea atEsi) 2 prot32.gdtr.limit.toNat
          segWrite (prot32.memSegment atEsi) (sized prot32.as32 (prot32.ea atEsi + 2)) 4 prot32.gdtr.base.toNat) prot32 = true := by decide +kernel

theorem witness_TableRegisterStoresNarrow (v : Nat) :
    ends (segWrite (real16.memSegment atSi) (sized real16.as32 (real16.ea atSi + 2)) 4 v)
      (after (segWrite (real16.memSegment atSi) (real16.ea atSi) 2 0) real16).drawn = true := rfl

/-- The level allows; CR0 with PG and PE, with PG alone, and registers that are absent. -/
theorem witness_SpecialRegisterFormsComplete :
    real16.privilegedOk = true ∧ ends (readRm 16 (.mem atSi)) real16 = true
      ∧ ends (openWord 16 (.mem atSi)) real16.drawn = true
      ∧ (0x80000001 : Word32).getLsbD 31 = true ∧ (0x80000001 : Word32).getLsbD 0 = true
      ∧ (0x80000000 : Word32).getLsbD 31 = true ∧ (0x80000000 : Word32).getLsbD 0 = false
      ∧ (1 : BitVec 3) ≠ 0 ∧ (4 : BitVec 3) ≠ 2 ∧ (7 : BitVec 3) ≠ 3 ∧ (5 : BitVec 3) ≠ 6 ∧ (0 : BitVec 3) ≠ 7 := by
  decide +kernel

/-- The null selector, the LDT and the TSS of the GDT. -/
theorem witness_TaskAndLdtRegisterFormsComplete :
    prot32.protected = true ∧ prot32.cpl = 0 ∧ ends (openWord 16 (.mem atEsi)) prot32 = true
      ∧ valueOf (readRm 16 (.reg .edx)) prot32 = some 0 ∧ isNull 0 = true
      ∧ valueOf (readRm 16 (.reg .edi)) prot32 = some 0x20 ∧ isNull 0x20 = false ∧ (0x20 : Word16).getLsbD 2 = false
      ∧ (descOf 0x20).map (fun d => (d.present, d.isSystem 2)) = some (true, true)
      ∧ (descOf 0x28).map (fun d => (d.present, d.isSystem 9)) = some (true, true)
      ∧ ends (setBusy 0x28 true) (after (readDesc 0x28 .gp) prot32) = true := by decide +kernel

/-- A paged state: the directory at 1000h; linear 0 has a table at 2000h with a supervisor page, a user page that may not
be written, an absent page and a page at 3000h; linear 400000h has no table. -/
def paged : State :=
  { prot32 with
    cr0 := { prot32.cr0 with pg := true }, cr3 := 0x1000, memMap := []
    mem := cells 0x1000 [0x47, 0x20, 0, 0] ++ cells 0x2000 [0x01, 0x30, 0, 0, 0x05, 0x30, 0, 0, 0, 0, 0, 0, 0x67, 0x30, 0, 0] }

/-- Null selectors with RPL 0 and 3, the last selector inside the GDT and the first outside it, an LDT that is not valid, and
descriptors of level 0 and 3 and a conforming one, seen from level 3. -/
theorem witness_Visible :
    [0, 3].all (fun x => (BitVec.ofNat 16 x).extractLsb' 2 14 == 0#14) = true
      ∧ (let last (x : Word16) := (x.extractLsb' 3 13 : BitVec 13).toNat * 8 + 7
         last 0x57 = ring3.gdtr.limit.toNat ∧ ring3.gdtr.limit.toNat < last 0x58 ∧ (0x57 : Word16).getLsbD 2 = true
           ∧ (0x50 : Word16).getLsbD 2 = false ∧ ring3.ldtr.valid = false)
      ∧ [0x10, 0x40, 0x30].map (fun x => (valueOf (readDesc x .gp) ring3).map fun d =>
          (d.isConforming, decide (weaker ring3.level (rpl x) ≤ d.dpl)))
        = [some (false, false), some (false, true), some (true, false)]
      ∧ excOf (readDesc 0x50 .gp) { paged with gdtr := { base := 0x2000, limit := 0x57 }, mem := [] } ≠ none := by
  decide +kernel

/-- Descriptors inside and outside both tables, and a table that cannot be read, to which LAR answers ZF = 0; stacks of inner
levels inside and outside the TSS. -/
theorem witness_WhereDescriptorsAreRead :
    (valueOf (readDesc 0x10 .gp) ring3).isSome = true ∧ ring3.gdtr.limit.toNat = 0x57 ∧ (0x10 : Word16).getLsbD 2 = false
      ∧ excOf (readDesc 0x5B .gp) ring3 = some (.vector 13 (some 0x58)) ∧ excOf (readDesc 7 .ts) ring3 = some (.vector 10 (some 4))
      ∧ (let s : State := { paged with gdtr := { base := 0x2000, limit := 0x57 }, mem := [] }
         excOf (readDesc 0x50 .gp) s ≠ none ∧ valueOf (visible 0x50) s = some none)
      ∧ ring3.tr.valid = true ∧ (valueOf (innerStack 0) ring3).isSome = true
      ∧ excOf (innerStack 0) { ring3 with tr := { ring3.tr with limit := 8 } } = some (.vector 10 (some (ring3.tr.sel &&& 0xFFFC)))
      ∧ ends (innerStack 0) { ring3 with tr := { ring3.tr with limit := 9 } } = true ∧ ring3.tr.is386 = true
      ∧ real16.as32 = false ∧ real16.cur.seg = none ∧ real16.os32 = false ∧ real16.cur.committed = false := by decide +kernel

/-- RPLs on both sides; no visible descriptor, a segment, system descriptors that are accepted and one that is not (the
LDT's type is, a gate's is not). -/
theorem witness_PointerValidationComplete :
    prot32.protected = true ∧ valueOf (readRm 16 (.reg .ebx)) prot32 = some 7 ∧ rpl (prot32.regN 16 .edx) ≤ rpl 7
      ∧ valueOf (readRm 16 (.reg .edi)) prot32 = some 0x20 ∧ rpl 0x20 < rpl (prot32.regN 16 .ebx)
      ∧ ends (openWord 16 (.reg .edi)) prot32 = true
      ∧ valueOf (visible 0) prot32 = some none
      ∧ (valueOf (visible 0x10) prot32).map (fun d => d.map fun x => x.isSegment) = some (some true)
      ∧ (valueOf (visible 0x20) prot32).map (fun d => d.map fun x => (x.isSegment, x.type)) = some (some (false, 2))
      ∧ (let s := { prot32 with gdtr := { base := 0x2000, limit := 0xF }, mem := cells 0x2008 [0, 0, 8, 0, 0, 0x8E, 0, 0] }
         (valueOf (visible 8) s).map (fun d => d.map fun x => (x.isSegment, x.type)) = some (some (false, 0xE)))
      ∧ (valueOf (visible 0x48) ring0).map (fun d => d.map fun x => (x.isSegment, x.type)) = some (some (false, 0xC))
      ∧ ring0.os32 = true ∧ ({ ring0 with cur := { ring0.cur with opSize := true } } : State).os32 = false := by
  decide +kernel

/-- LAR of a data segment of level 3 with 16-bit operands, the example of 47_os_support.md R564, and of a call gate with
32-bit operands, whose bits 23 to 20 are those of its offset. -/
theorem test_lar :
    (let s := withMem 0x1045 [0xF2] { ring3 with cur := { ring3.cur with opSize := true }
                                                 gpr := { ring3.gpr with ebx := 0x43, edx := 0 } }
     nextOf (exec (.larGvEw .edx (.reg .ebx)) s) (fun t => (t.reg .edx, t.flags.zf)) = some (0xF200, true))
    ∧ (let s := withMem 0x104E [0x35, 0x12] { ring3 with gpr := { ring3.gpr with ebx := 0x4B } }
       nextOf (exec (.larGvEw .edx (.reg .ebx)) s) (fun t => (t.reg .edx, t.flags.zf)) = some (0x0030EC00, true)) := by
  decide +kernel

/-- ESC at the end of its segment raises NM before its ModRM byte is fetched, else the fetch fault; its operand is checked
page by page. -/
theorem test_escape :
    (let s (em : Bool) := withMem 0x13FFF [0xD8] { real16 with pc := 0xFFFF, cr0 := { real16.cr0 with em := em } }
     excOf fetchItem (s true).begin = some .nm ∧ excOf fetchItem (s false).begin = some (.gp 0))
      ∧ nextOf (exec (.esc 0 0 (.mem (.direct32 0x3010))) paged) (fun t => bitAt (Memory.get32 t.mem 0x200C) 5) = some true
      ∧ ends (escape 0 0 (.mem (.direct32 0x400000))) paged = false
      ∧ ends (escape 0 0 (.mem (.direct32 0x3010))) paged = true := by decide +kernel

/-- Selectors that do not fit an inner stack or a data segment register of an incoming task: null, of the wrong type, of
another level, and absent ones. -/
theorem witness_WrongSelectors :
    isNull 3 = true
      ∧ [0x20, 8, 0x13].all (fun x => (valueOf (readDesc x .ts) prot32).any fun d =>
          !isNull x && !(d.isWritable && rpl x == 0 && d.dpl == 0)) = true
      ∧ [0x20, 0x13].all (fun x => (valueOf (readDesc x .ts) prot32).any fun d =>
          !isNull x && !(d.isReadable && (d.isConforming || decide (weaker prot32.level (rpl x) ≤ d.dpl)))) = true
      ∧ (valueOf (readDesc 0x18 .ts) prot32).map (fun d => (d.isWritable, d.isReadable, d.dpl, d.present))
          = some (true, true, 0, false)
      ∧ prot32.level = 0 ∧ rpl 0x18 = 0 ∧ ends (loadTaskData .ds 0x10) prot32 = true := by decide +kernel

/-- A stack selector of another level, a null one, the LDT's in FS and a null CS raise TS; an absent segment raises SS or
NP; a stack or a back link outside the table raises GP. -/
theorem test_wrong_selectors :
    excOf (innerStackSegment 0x13 0) prot32 = some (.ts 0x10) ∧ excOf (innerStackSegment 3 0) prot32 = some (.ts 0)
      ∧ excOf (loadTaskData .fs 0x20) prot32 = some (.ts 0x20) ∧ excOf (loadTaskCode 2) prot32 = some (.ts 0)
      ∧ excOf (innerStackSegment 0x18 0) prot32 = some (.ss 0x18) ∧ excOf (loadTaskData .fs 0x18) prot32 = some (.np 0x18)
      ∧ excOf (innerStackSegment 0x7000 0) prot32 = some (.gp 0x7000)
      ∧ excOf (checkNewTask 0x7000 .iret) prot32 = some (.gp 0x7000) := by
  decide +kernel

/-- A switch to the task of the TSS at 4000h, by JMP and by CALL. -/
theorem witness_TaskSwitches :
    (let s := { prot32 with memMap := [{ base := 0x2F00, size := 0x1200, kind := .rom }] }
     ends (taskSwitch 0x28 .jmp 5) s = true ∧ ends (taskSwitch 0x28 .call 5) s = true)
    ∧ prot32.protected = true ∧ isNull 0x28 = false
    ∧ (descOf 0x28).map (fun d => (d.isSystem 9, decide (weaker prot32.level (rpl 0x28) ≤ d.dpl))) = some (true, true) := by
  decide +kernel

/-- A machine whose TSSs lie in ROM, the outgoing one at 3000h and one that runs in V86 mode at 4000h. -/
def switching : State :=
  { prot32 with memMap := [{ base := 0x2F00, size := 0x1200, kind := .rom }], gdtr := { base := 0x1000, limit := 0x57 } }

/-- The phases of a switch, each after the one before. -/
def phases (sel : Word16) (cause : SwitchCause) : M Unit := do
  let d ← checkNewTask sel cause
  saveOldTask cause 5
  enterNewTask sel d cause
  let _ ← loadNewTask d (cause == .call || cause == .int)
  validateTask

/-- The phases one after the other by JMP and CALL, and by IRET to a busy TSS. -/
theorem witness_TaskSwitchPhases :
    switching.tr.valid = true ∧ ends (phases 0x28 .jmp) switching = true ∧ ends (phases 0x28 .call) switching = true
      ∧ ends (phases 0x28 .iret) (withMem 0x102D [0x8B] switching) = true := by decide +kernel

/-- Each phase in RAM with paging off: outgoing TSSs of both formats, whose saved flags have free bits; incoming ones. -/
theorem witness_TaskFields :
    ring0.flat = true ∧ Memory.wf ring0.mem = true ∧ ring0.tr.is386 = true
      ∧ ends (saveOldTask .jmp 5) ring0 = true ∧ ends (saveOldTask .call 5) ring0 = true
      ∧ ends (saveOldTask .iret 5) { ring0 with tr := { ring0.tr with is386 := false } } = true
      ∧ [SwitchCause.jmp, .call, .iret].all (fun c => ends (do
          let d ← readDesc 0x28 .gp
          enterNewTask 0x28 d c) ring0) = true
      ∧ [0x89, 0x81].all (fun x => ends (do
          let d ← readDesc 0x28 .gp
          loadNewTask d true) (withMem 0x102D [x] ring0)) = true
      ∧ ends validateTask { ring0 with flags := { ring0.flags with vm := true } } = true ∧ ends validateTask ring0 = true
      ∧ 0x102D ∉ byteAddresses 0x4000 2 := by decide +kernel

theorem witness_TaskFieldsApart :
    (let busy := (ring0.gdtr.base + (ring0.tr.sel &&& 0xFFF8).setWidth 32 + 5).toNat
     busy ∉ byteAddresses (ring0.tr.base + BitVec.ofNat 32 0x20) 40
         ++ (List.range 6).flatMap (fun k => byteAddresses (ring0.tr.base + BitVec.ofNat 32 (0x48 + 4 * k)) 2)
       ∧ busy ∉ byteAddresses (ring0.tr.base + BitVec.ofNat 32 0x0E) 20
         ++ (List.range 4).flatMap (fun k => byteAddresses (ring0.tr.base + BitVec.ofNat 32 (0x22 + 2 * k)) 2)) := by
  decide +kernel

/-- A far pointer to a task gate and to TSSs: available, busy, of a level the program may not use; a task gate in the IDT;
IRET with NT set and a back link, and with no TSS in TR. -/
theorem witness_TaskGates :
    (let gate (s : State) := withMem 0x1050 [0, 0, 0x28, 0, 0, 0xE5, 0, 0] s
     ends (do
        let g ← readDesc 0x50 .gp
        let s ← get
        check (g.isSystem 5 && decide (weaker s.level (rpl 0x50) ≤ g.dpl) && g.present && g.gateSelector == 0x28)
        taskSwitch g.gateSelector .jmp 5) (gate switching) = true
      ∧ (valueOf (readDesc 0x50 .gp) (withMem 0x1055 [0x65] (gate switching))).map (fun g => (g.isSystem 5, g.present))
          = some (true, false)
      ∧ (valueOf (readDesc 0x28 .gp) (withMem 0x102D [0x8B] switching)).map (fun d => d.isSystem 0xB) = some true
      ∧ (valueOf (readDesc 0x28 .gp) ring3).map (fun d => decide (weaker ring3.level (rpl 0x28) ≤ d.dpl)) = some false
      ∧ (let s := withMem 0x2000 [0, 0, 0x28, 0, 0, 0xE5, 0, 0] switching
         ends (do
            let v ← sysRead (s.idtr.base + 8 * (0 : Byte).setWidth 32) 8
            let g : Desc := BitVec.ofNat 64 v
            check (g.isSystem 5 && g.present && g.gateSelector == 0x28)
            taskSwitch g.gateSelector .int 5
            let t ← get
            let errs ← errorItems (if t.tr.is386 then 4 else 2) none
            pushAll 4 errs) s = true)
      ∧ (let s := { withMem 0x102D [0x8B] (withMem 0x3000 [0x28] switching) with flags := { ring0.flags with nt := true } }
         s.protected = true ∧ ends (do
            let link ← sysRead s.tr.base 2
            taskSwitch (BitVec.ofNat 16 link) .iret 5) s = true
          ∧ ({ s with tr := { s.tr with valid := false } } : State).tr.valid = false)) := by decide +kernel

theorem witness_MemoryReadsBackWhatWasWritten :
    Memory.wf real16.mem = true ∧ [0xFFFF, 0, 7].Nodup ∧ [0xFFFF, 0, 7].length = [(1 : Byte), 0, 3].length
      ∧ (∀ a ∈ [0xFFFF, 0, 7], real16.kindAt a = .ram) ∧ Memory.wf prot32.mem = true := by decide +kernel

/-- Every clause: the last byte of a segment and the first outside it, through DS and SS, in real and protected mode; an
unusable register; each access that its type does not allow; the first byte above 1 Mbyte; nothing. -/
theorem witness_SegmentAccesses :
    real16.flat = true ∧ real16.segFault .ds 0xFFFC 4 .read = none ∧ real16.segFault .ds 0xFFFC 4 .write = none
      ∧ real16.segFault .ds 0xFFFD 4 .read = some (.gp 0) ∧ real16.segFault .ss 0xFFFD 4 .write = some (.gp 0)
      ∧ (let t := { prot32 with segs := { prot32.segs with ss := { prot32.segs.ss with limit := 0x7FFF }
                                                           es := prot32.segs.es.null 0 } }
         t.segFault .ss 0x7FFC 4 .read = none ∧ t.segFault .ss 0x7FFD 4 .read = some (.ss 0)
           ∧ t.segFault .es 0 1 .read = some (.gp 0) ∧ t.segs.es.valid = false)
      ∧ prot32.segFault .cs 0 1 .write = some (.gp 0) ∧ prot32.segs.cs.writable = false
      ∧ prot32.segFault .ds 0 1 .execute = some (.gp 0) ∧ prot32.segFault .cs 0 1 .execute = none
      ∧ (let c := { prot32.segs.cs with readable := false }
         ({ prot32 with segs := { prot32.segs with cs := c } } : State).segFault .cs 0 1 .read = some (.gp 0))
      ∧ (let t := { real16 with segs := { real16.segs with ds := .real 0xFFFF 0 } }
         t.protected = false ∧ 0x100000 < t.segs.ds.base.toNat + 0x10 + 1 ∧ t.segs.ds.base.toNat + 0x10 ≤ 0x10FFEF
           ∧ t.segFault .ds 0xF 1 .read = none)
      ∧ Desc.isSegment (BitVec.ofNat 64 0x00CF93000000FFFF) = true ∧ 4 ≤ 4096 := by decide +kernel

theorem witness_AccessesChangeOnlyPageBits :
    Memory.wf real16.mem = true ∧ ends (dataAddresses .ds 0xFFFE 2 true) real16 = true
      ∧ ends (segRead .ds 0xFFFE 2) real16 = true ∧ ends (openWord 16 (.mem atSi)) real16 = true := by decide +kernel

/-- An absent table, an absent page, both kinds of forbidden access, and an allowed one. -/
theorem witness_PageTranslation :
    paged.cr0.pg = true ∧ paged.memMap = [] ∧ Memory.wf paged.mem = true ∧ paged.tlbFind 0x400000 = none
      ∧ bitAt (Memory.get32 paged.mem 0x1004) 0 = false ∧ bitAt (Memory.get32 paged.mem 0x1000) 0 = true
      ∧ (let m := Memory.set paged.mem 0x1000 (Memory.get paged.mem 0x1000 ||| 0x20)
         bitAt (Memory.get32 m 0x2008) 0 = false
           ∧ bitAt (Memory.get32 m 0x2000) 0 = true ∧ bitAt (Memory.get32 m 0x2000) 2 = false
           ∧ bitAt (Memory.get32 m 0x2004) 2 = true ∧ bitAt (Memory.get32 m 0x2004) 1 = false
           ∧ bitAt (Memory.get32 m 0x200C) 0 = true ∧ bitAt (Memory.get32 m 0x200C) 1 = true
           ∧ bitAt (Memory.get32 m 0x200C) 2 = true) := by decide +kernel

/-- The same with bit A set, and a TLB that holds the pages 0 (supervisor), 1 (read only) and 3. -/
def pagedHeld (dirty : Bool) : State :=
  { paged with
    mem := cells 0x1000 [0x27, 0x20, 0, 0] ++ cells 0x2000 [0x21, 0x30, 0, 0, 0x25, 0x30, 0, 0, 0, 0, 0, 0,
             if dirty then 0x67 else 0x27, 0x30, 0, 0]
    tlb := [{ page := 0, frame := 3, rights := 0, dirty := false }, { page := 1, frame := 3, rights := 2, dirty := false },
            { page := 3, frame := 3, rights := 3, dirty := dirty }] }

/-- At level 3 the queue holds no byte of a supervisor page; where PE is cleared it keeps what lies beyond offset FFFFh, and
where PE is set it keeps nothing. -/
theorem test_queue :
    (let s := { pagedHeld true with cpl := 3 }
     s.queueValues 0x10 = [] ∧ (s.queueValues 0x1010).length = 2 ∧ ((pagedHeld true).queueValues 0x10).length = 2)
      ∧ (after (loadCr0 0) { prot32 with cur := { prot32.cur with npc := 0x20000 } }).stale.length = 16
      ∧ (after (loadCr0 1) real16).stale = [] := by decide +kernel

/-- Held entries that agree with the tables: used, used and forbidden, and not used for a write that D does not record yet;
one that disagrees. -/
theorem witness_HeldPages :
    (let e (d : Bool) : TlbEntry := { page := 3, frame := 3, rights := 3, dirty := d }
     (pagedHeld true).tlbFind 0x3010 = some (e true) ∧ (pagedHeld false).tlbFind 0x3010 = some (e false)
      ∧ (pagedHeld true).tlbAgrees (e true) 0x3010 true = true ∧ (pagedHeld false).tlbAgrees (e false) 0x3010 false = true
      ∧ valueOf (translate 0x3010 true true) (pagedHeld true) = some 0x3010
      ∧ valueOf (translate 0x3010 true true) (pagedHeld false) = some 0x3010
      ∧ ((pagedHeld true).tlbFind 0x10).map (fun x => (x.rights, (pagedHeld true).tlbAgrees x 0x10 false)) = some (0, true)
      ∧ (pagedHeld true).tlbAgrees (e false) 0x3010 false = false
      ∧ (pagedHeld true).cr0.pg = true ∧ (pagedHeld true).memMap = [] ∧ Memory.wf (pagedHeld true).mem = true) := by
  decide +kernel

theorem witness_OperandFormsFrame :
    Memory.wf real16.mem = true ∧ Alu.add ≠ .cmp ∧ opensWord (.evGv (.mem atSi) .ebx) real16 = true
      ∧ ends (openWord 16 (.mem atSi)) real16 = true ∧ real16.osBits = 16
      ∧ (nextOf (exec (.addEvGv (.mem atSi) .ebx) real16) fun _ => ()) = some ()
      ∧ (nextOf (exec (.incEv (.mem atSi)) real16) fun _ => ()) = some ()
      ∧ (nextOf (exec (.shlEv1 (.mem atSi)) real16) fun _ => ()) = some ()
      ∧ (nextOf (exec (.movEvGv (.mem atSi) .eax) real16) fun _ => ()) = some ()
      ∧ [Instr.decR .esp, .movGvEv .ecx (.mem atSi), .xchgEvGv (.mem atSi) .esi, .xchgEaxR .esp, .movRIv .ebx 7,
          .shldEvGvIb (.mem atSi) .eax 3, .shrdEvGvCl (.reg .ebp) .eax, .btsEvGv (.reg .ebx) .ecx, .btcEvIb (.mem atSi) 5,
          .btrEvGv (.mem atSi) .ebx].all (fun i => (nextOf (exec i real16) fun _ => ()).isSome) = true
      ∧ ends (readRm real16.osBits (.mem atSi)) real16 = true
      ∧ ends (dataAddresses (real16.memSegment atSi) (real16.bitAddress real16.osBits atSi (real16.regN real16.osBits .ebx).toInt)
          (real16.osBits / 8) true) real16 = true
      ∧ (after ((WordForm.evGv (.mem atSi) .ebx).source 16) real16).flat = true := by decide +kernel

theorem witness_OperandFormsFrameBytes :
    opensByte (.ebGb (.mem atSi) .bh) real16 = true ∧ ends (openByte (.mem atSi)) real16 = true
      ∧ ends (openByte (.reg .ah)) real16 = true ∧ ends (readRm8 (.mem atSi)) real16 = true
      ∧ [Instr.addEbGb (.mem atSi) .bh, .incEb (.mem atSi), .shlEb1 (.reg .ah), .setccEb .z 0 (.mem atSi),
          .movEbGb (.mem atSi) .ch, .movEbIb (.reg .ah) 5, .movR8Ib .bh 1, .movGbEb .dl (.mem atSi),
          .xchgEbGb (.mem atSi) .ah].all (fun i => (nextOf (exec i real16) fun _ => ()).isSome) = true := by decide +kernel

/-- BT on memory, by register and by immediate, and shifts of memory by 0 in their three sizes. -/
theorem witness_OperandFormsFrameReads :
    ends (segRead (real16.memSegment atSi) (real16.bitAddress real16.osBits atSi (real16.regN real16.osBits .ebx).toInt)
        (real16.osBits / 8)) real16 = true
      ∧ ends (segRead (real16.memSegment atSi) (real16.ea atSi) (real16.osBits / 8)) real16 = true
      ∧ (Count.imm 0x20).value real16 = 0 ∧ doubleCount (some 0) real16 = 0
      ∧ [2, 1].all (fun n => ends (segProbe (real16.memSegment atSi) (real16.ea atSi) n true) real16
          && ends (segRead (real16.memSegment atSi) (real16.ea atSi) n)
              (after (segProbe (real16.memSegment atSi) (real16.ea atSi) n true) real16)) = true
      ∧ [Instr.btEvGv (.mem atSi) .ebx, .btEvIb (.mem atSi) 5, .shlEvIb (.mem atSi) 0x20, .rorEbIb (.mem atSi) 0x20,
          .shrdEvGvIb (.mem atSi) .eax 0].all (fun i => (nextOf (exec i real16) fun _ => ()).isSome) = true := by
  decide +kernel

theorem witness_DecodeAndEncodeAgree :
    Instr.wf c32 (.addEvIv (.mem (.sib 3 .ebp .eax (.d8 0x80))) 0xFFFFFFFF) = true
      ∧ Instr.wf c16 (.movRIv .edi 0xFFFF) = true
      ∧ (decode c16).run [0x90, 0x01] = some (.nop, [0x01]) := by decide +kernel

/-- A real-mode state with a NOP, an LGDT beyond the segment's end, or a prefix and a NOP at `pc`. -/
theorem witness_StepRunsTheDecodedInstruction :
    (let s := withMem 0x4000 [0x26, 0x90] { real16 with cur := Latch.idle }
     s.run = .running ∧ (boundaryEvent s).isNone = true
       ∧ valueOf fetchItem s.noteBreaks.begin = some .segEs ∧ isPrefix .segEs = true
       ∧ nextOf (exec .segEs (after fetchItem s.noteBreaks.begin)) (fun t => t.cur.inPrefix) = some true)
    ∧ (let s := withMem 0x4000 [0x90] { real16 with cur := Latch.idle }
       s.run = .running ∧ (boundaryEvent s).isNone = true ∧ s.flat = true ∧ s.stale = []
         ∧ (decode ⟨s.code32, s.code32⟩).run [0x90] = some (.nop, []) ∧ isPrefix .nop = false
         ∧ s.segFault .cs (s.pc + BitVec.ofNat 32 0) 1 .execute = none
         ∧ Memory.get s.mem (s.segs.cs.base + (s.pc + BitVec.ofNat 32 0)).toNat = 0x90
         ∧ valueOf fetchItem s.noteBreaks.begin = some .nop)
    ∧ excOf fetchItem ({ real16 with pc := 0x10000 } : State).begin = some (.gp 0) := by decide +kernel

theorem witness_PrefixesNoteThemselves : real16.ioAllowed = true := by decide +kernel

/-- Each kind of event at a boundary, and the two waiting states with and without what ends them. -/
theorem witness_BoundaryEventsInPriorityOrder :
    real16.run = .running ∧ real16.dbgPending = false ∧ real16.breaks = false
      ∧ (let s := { real16 with dr7 := 1, dr0 := 0x4000 }
         s.breaks = true)
      ∧ (let s := { real16 with nmiPending := true }
         s.nmiPending = true ∧ s.nmiInService = false ∧ s.breaks = false)
      ∧ (let s := { real16 with intr := some 0x20, flags := { real16.flags with ie := true } }
         s.nmiReady = false ∧ s.flags.ie = true ∧ s.intr = some 0x20)
      ∧ ({ real16 with run := .halted } : State).nmiReady = false
      ∧ ({ real16 with run := .shutdown } : State).run = .shutdown ∧ real16.flags.ie = false := by decide +kernel

/-- Breakpoints that match the next instruction and a data access, enabled and not, at both ends of their range. -/
theorem witness_Breakpoints :
    (let s := { real16 with dr0 := 0x4000, dr1 := 0x102, dr2 := 0x4000, dr7 := 0x00D00005 }
     s.breaks = true ∧ s.noteBreaks.dr6 = 5
       ∧ (s.noteData 0x103 1 true).dr6 = 2 ∧ (s.noteData 0x103 1 true).dbgPending = true
       ∧ (s.noteData 0xFF 1 true).dr6 = 0 ∧ (s.noteData 0xFD 4 true).dr6 = 2 ∧ (s.noteData 0x104 1 true).dr6 = 0
       ∧ (s.noteData 0x100 1 false).dr6 = 0)
      ∧ (let s := { real16 with dr0 := 0x4000, dr7 := 1, flags := { real16.flags with rf := true } }
         s.breaks = false) := by decide +kernel

/-- SHUTDOWN with an NMI: the least table and stack pointer that let it be left, the greatest that do not, and a delivery
that fails in protected mode. -/
theorem witness_Shutdown :
    (let s (limit : Word16) (sp : Word32) : State :=
       { real16 with run := .shutdown, nmiPending := true, idtr := { base := 0, limit := limit }
                     gpr := { real16.gpr with esp := sp } }
     (s 0x0F 6).nmiReady = true ∧ (s 0x0F 6).cr0.pe = false ∧ 0x0F ≤ (s 0x0F 6).idtr.limit.toNat
       ∧ 5 < ((s 0x0F 6).reg .esp).toNat % 0x10000
       ∧ nextOf (step (s 0x0F 6)) (fun t => (t.run, t.nmiInService, t.reg .esp)) = some (.running, true, 0)
       ∧ nextOf (step (s 0x0E 6)) (fun t => t.run) = some .shutdown
       ∧ nextOf (step (s 0x0F 0x10005)) (fun t => t.run) = some .shutdown)
      ∧ (let s := { prot32 with run := .shutdown, nmiPending := true }
         excOf (deliver (externalEvent s 2)) { s.takeNmi with run := .running } = some (.vector 13 (some 0x12))
           ∧ nextOf (step s) (fun t => t.run) = some .shutdown) := by decide +kernel

/-- A step that begins in a state that meets the invariants, and one at level 3. -/
theorem witness_StepKeepsTheInvariants :
    (let s := withMem 0x4000 [0x90] { real16 with cur := Latch.idle }
     s.inv = true ∧ s.legalMode = true ∧ s.reservedClear = true
       ∧ nextOf (step s) (fun t => t.pc) = some 1) := by decide +kernel

theorem witness_UserStepsKeepSystemRegisters :
    (let s := { user32 with cur := Latch.idle, pc := 0x6000, memMap := [], mem := [(0x6000, 0x90)] }
     s.cr0.pe = true ∧ s.level ≠ 0 ∧ nextOf (step s) (fun t => t.pc) = some 0x6001) := by decide +kernel

/-! ### Reset -/

theorem test_reset_invariants : State.reset.inv = true ∧ State.reset.legalMode = true ∧ State.reset.reservedClear = true := by
  decide +kernel

/-- The TLB after reset is within its bounds (22_paging.md R249), and so is one whose set is full. A fifth entry of a set is not. -/
theorem test_tlb_bounds :
    let entry (n : Nat) : TlbEntry := { page := BitVec.ofNat 20 n, frame := 0, rights := 0, dirty := false }
    tlbFits State.reset.tlb = true ∧ tlbFits ([0, 8, 16, 24, 1].map entry) = true
      ∧ tlbFits ([0, 8, 16, 24, 32].map entry) = false := by decide

/-- A NOP placed where the first instruction is fetched runs as the first step. -/
theorem test_first_instruction :
    nextOf (step (State.reset.withFetchWord 8 0x90)) (fun t => t.pc) = some 0xFFF1
      ∧ decodeTableWord 8 0x90 = some .nop := by decide +kernel

/-- RESET keeps memory and samples the coprocessor. -/
theorem test_reset_keeps_memory :
    (user32.afterReset .i80387 true).cr0.et = true ∧ (user32.afterReset .i80287 true).cr0.et = false
      ∧ (user32.afterReset .i80387 true).gpr.edx = 0
      ∧ Memory.get (user32.afterReset .absent true).mem 0x4026 = 2 := by decide +kernel

end Sys2Proof.Machine.Slice0
end

/-! The invariants of the machine: every step keeps them, and reset meets them (10_state.md R53, R54, R62, R71, R95). -/

namespace Sys2Proof.Machine

/-! ### The invariants as propositions -/

theorem State.inv_iff (s : State) :
    s.inv = true ↔ Memory.wf s.mem = true ∧ s.cr3 &&& 0xFFF = 0 ∧ s.cur = Latch.idle := by
  simp [State.inv, State.idle, and_assoc]

theorem State.legalMode_iff (s : State) :
    s.legalMode = true ↔
      (s.cr0.pe = false → s.flags.vm = false ∧ s.cr0.pg = false ∧ s.cpl = 0) := by
  unfold State.legalMode
  cases s.cr0.pe <;> simp [and_assoc]

theorem State.reservedClear_iff (s : State) :
    s.reservedClear = true ↔
      s.dr6 &&& ~~~dr6Mask = 0 ∧ s.dr7 &&& ~~~dr7Mask = 0 ∧ s.tr6 &&& ~~~tr6Mask = 0 ∧ s.tr7 &&& ~~~tr7Mask = 0 := by
  simp [State.reservedClear, and_assoc]

/-- What is kept of a value under a mask has none of the bits outside it. -/
theorem masked_clear (v mask : Word32) : v &&& mask &&& ~~~mask = 0 := by
  simp [BitVec.and_assoc]

/-- CR3 takes the page-frame bits of a value only. -/
theorem frame_clear (v : Word32) : v &&& 0xFFFFF000 &&& 0xFFF = 0 := by
  simp [BitVec.and_assoc]

theorem or_clear {a b m : Word32} (ha : a &&& m = 0) (hb : b &&& m = 0) : (a ||| b) &&& m = 0 := by
  rw [BitVec.and_or_distrib_right, ha, hb]
  exact BitVec.zero_or

theorem and_clear {a m : Word32} (ha : a &&& m = 0) (b : Word32) : a &&& b &&& m = 0 := by
  rw [BitVec.and_assoc, BitVec.and_comm b, ← BitVec.and_assoc, ha]
  exact BitVec.zero_and

/-! ### What one change of the state keeps -/

/-- `t` has the invariants that `s` has. The idle latch is not among them: an instruction under way does not have it. -/
structure Keeps (s t : State) : Prop where
  mem : Memory.wf s.mem = true → Memory.wf t.mem = true
  cr3 : s.cr3 &&& 0xFFF = 0 → t.cr3 &&& 0xFFF = 0
  legal : s.legalMode = true → t.legalMode = true
  reserved : s.reservedClear = true → t.reservedClear = true

theorem steps_keeps : Steps Keeps where
  refl _ := ⟨id, id, id, id⟩
  trans h k := ⟨k.mem ∘ h.mem, k.cr3 ∘ h.cr3, k.legal ∘ h.legal, k.reserved ∘ h.reserved⟩

/-- `t` has the invariants that `s` has, and both are in protected mode or V86 mode, or both outside. -/
def KeepsInMode (s t : State) : Prop := Keeps s t ∧ t.cr0.pe = s.cr0.pe

theorem steps_keepsInMode : Steps KeepsInMode where
  refl s := ⟨steps_keeps.refl s, rfl⟩
  trans h k := ⟨steps_keeps.trans h.1 k.1, k.2.trans h.2⟩

/-- All that the invariants speak of but for the latch. -/
def State.watched (s : State) : Memory × Cr0 × Word32 × Bool × BitVec 2 × Word32 × Word32 × Word32 × Word32 :=
  (s.mem, s.cr0, s.cr3, s.flags.vm, s.cpl, s.dr6, s.dr7, s.tr6, s.tr7)

/-- A change of fields that no invariant speaks of. -/
theorem keepsInMode_of_watched {s t : State} (h : t.watched = s.watched) : KeepsInMode s t := by
  simp only [State.watched, Prod.mk.injEq] at h
  obtain ⟨hmem, hcr0, hcr3, hvm, hcpl, hdr6, hdr7, htr6, htr7⟩ := h
  refine ⟨⟨?_, ?_, ?_, ?_⟩, by rw [hcr0]⟩
  · rw [hmem]; exact id
  · rw [hcr3]; exact id
  · simp only [State.legalMode, hcr0, hvm, hcpl]; exact id
  · simp only [State.reservedClear, hdr6, hdr7, htr6, htr7]; exact id

theorem keepsInMode_gdtr (s : State) (x : TableReg) : KeepsInMode s { s with gdtr := x } := keepsInMode_of_watched rfl

theorem keepsInMode_idtr (s : State) (x : TableReg) : KeepsInMode s { s with idtr := x } := keepsInMode_of_watched rfl

/-- A change of the debug and test registers that keeps their reserved bits clear. -/
theorem keepsInMode_reserved (s : State) {d6 d7 t6 t7 : Word32}
    (h : s.reservedClear = true →
      ({ s with dr6 := d6, dr7 := d7, tr6 := t6, tr7 := t7 } : State).reservedClear = true) :
    KeepsInMode s { s with dr6 := d6, dr7 := d7, tr6 := t6, tr7 := t7 } :=
  ⟨⟨id, id, id, h⟩, rfl⟩

theorem keepsInMode_dr6 (s : State) {v : Word32} (hv : (s.dr6 &&& ~~~dr6Mask = 0) → v &&& ~~~dr6Mask = 0) :
    KeepsInMode s { s with dr6 := v } :=
  keepsInMode_reserved s fun hs => by
    rw [State.reservedClear_iff] at hs ⊢
    obtain ⟨h6, hrest⟩ := hs
    exact ⟨hv h6, hrest⟩

theorem keepsInMode_dr7 (s : State) {v : Word32} (hv : (s.dr7 &&& ~~~dr7Mask = 0) → v &&& ~~~dr7Mask = 0) :
    KeepsInMode s { s with dr7 := v } :=
  keepsInMode_reserved s fun hs => by
    rw [State.reservedClear_iff] at hs ⊢
    obtain ⟨h6, h7, ht⟩ := hs
    exact ⟨h6, hv h7, ht⟩

theorem keepsInMode_tr6 (s : State) (v : Word32) : KeepsInMode s { s with tr6 := v &&& tr6Mask } :=
  keepsInMode_reserved s fun hs => by
    rw [State.reservedClear_iff] at hs ⊢
    obtain ⟨h6, h7, -, ht7⟩ := hs
    exact ⟨h6, h7, masked_clear v _, ht7⟩

theorem keepsInMode_tr7 (s : State) (v : Word32) : KeepsInMode s { s with tr7 := v &&& tr7Mask } :=
  keepsInMode_reserved s fun hs => by
    rw [State.reservedClear_iff] at hs ⊢
    obtain ⟨h6, h7, ht6, -⟩ := hs
    exact ⟨h6, h7, ht6, masked_clear v _⟩

/-- A change that only the legality of the mode speaks of: of CR0 but for PE, the flags or the level. -/
theorem keepsInMode_legal (s : State) (c : Cr0) (f : Flags) (l : BitVec 2) (hpe : c.pe = s.cr0.pe)
    (h : s.legalMode = true → ({ s with cr0 := c, flags := f, cpl := l } : State).legalMode = true) :
    KeepsInMode s { s with cr0 := c, flags := f, cpl := l } :=
  ⟨⟨id, id, h, id⟩, hpe⟩

/-- The invariants allow every change that an instruction can make, but for the loading of CR0. -/
theorem machineRel_keepsInMode : MachineRel KeepsInMode where
  toSteps := steps_keepsInMode
  pe h := h.2
  gpr _ _ := keepsInMode_of_watched rfl
  pc _ _ := keepsInMode_of_watched rfl
  cur _ _ := keepsInMode_of_watched rfl
  segs _ _ := keepsInMode_of_watched rfl
  stale _ _ := keepsInMode_of_watched rfl
  tlb _ _ := keepsInMode_of_watched rfl
  draws _ _ := keepsInMode_of_watched rfl
  ioTrace _ _ := keepsInMode_of_watched rfl
  dbgPending _ _ := keepsInMode_of_watched rfl
  repActive _ _ := keepsInMode_of_watched rfl
  unrestartable _ _ := keepsInMode_of_watched rfl
  run _ _ := keepsInMode_of_watched rfl
  nmiInService _ _ := keepsInMode_of_watched rfl
  nmiPending _ _ := keepsInMode_of_watched rfl
  intr _ _ := keepsInMode_of_watched rfl
  cr2 _ _ := keepsInMode_of_watched rfl
  ldtr _ _ := keepsInMode_of_watched rfl
  tr _ _ := keepsInMode_of_watched rfl
  ts s _ := keepsInMode_legal s _ s.flags s.cpl rfl id
  mem _ a v := ⟨⟨fun h => Memory.wf_set h a v, id, id, id⟩, rfl⟩
  dr6 s _ hv := keepsInMode_dr6 s fun hs => or_clear hs hv
  dr7 s := keepsInMode_dr7 s fun hs => and_clear hs _
  cr3 _ v := ⟨⟨id, fun _ => frame_clear v, id, id⟩, rfl⟩
  flags _ _ hf := keepsInMode_of_watched (by simp only [State.watched, hf])
  mode s f l hp := keepsInMode_legal s s.cr0 f l rfl fun _ => (State.legalMode_iff _).2 (by simp [hp])

/-! ### The instructions that load a system register -/

theorem within_loadTable {R : State → State → Prop} (h : MachineRel R) (m : Mem) : Within R (loadTable m) := by
  have hs := h.toSteps
  have ha := h.access.toAccessRel
  exact within_bind hs (within_privileged h) fun _ => within_bind hs (within_get hs) fun _ =>
    within_bind hs (within_segRead ha _ _ _) fun _ => within_bind hs (within_segRead ha _ _ _) fun _ =>
      within_pure hs _

theorem within_writeDebug (n : BitVec 3) (r : Reg) : Within KeepsInMode (writeDebug n r) := by
  have h := machineRel_keepsInMode
  have hs := h.toSteps
  refine within_bind hs (within_privileged h) fun _ => within_bind hs (within_raiseIf hs _ _) fun _ =>
    within_bind hs (within_get hs) fun s => within_bind hs (within_update fun t => ?_) fun _ =>
      within_undefinedStatus h
  split
  · exact keepsInMode_of_watched rfl
  · exact keepsInMode_of_watched rfl
  · exact keepsInMode_of_watched rfl
  · exact keepsInMode_of_watched rfl
  · exact keepsInMode_dr6 t fun _ => masked_clear _ _
  · exact keepsInMode_dr7 t fun _ => masked_clear _ _

theorem within_writeTest (n : BitVec 3) (r : Reg) : Within KeepsInMode (writeTest n r) := by
  have h := machineRel_keepsInMode
  have hs := h.toSteps
  refine within_bind hs (within_privileged h) fun _ => within_bind hs (within_raiseIf hs _ _) fun _ =>
    within_bind hs (within_get hs) fun s => within_bind hs (within_update fun t => ?_) fun _ =>
      within_undefinedStatus h
  split
  · exact keepsInMode_tr6 t _
  · exact keepsInMode_tr7 t _

/-- A part of an instruction that ends so: completed with the invariants, or by an event in the same mode. LMSW and MOV
to CR0 change the mode, but nothing ends them once they did. -/
def EndsKept {α : Type} (s : State) : EStateM.Result Exc State α → Prop
  | .ok _ t => Keeps s t
  | .error _ t => KeepsInMode s t

variable {α β : Type}

theorem endsKept_of_within {m : M α} (h : Within KeepsInMode m) (s : State) : EndsKept s (m s) := by
  have hs := h s
  cases hr : m s with
  | ok a t => rw [hr] at hs; exact hs.1
  | error x t => rw [hr] at hs; exact hs

/-- A sequence whose first part keeps the mode. -/
theorem endsKept_bind {x : M α} {f : α → M β} {s : State} (hx : Within KeepsInMode x)
    (hf : ∀ a t, x s = .ok a t → EndsKept t (f a t)) : EndsKept s ((x >>= f) s) := by
  have hs := hx s
  rw [bind_apply]
  cases hr : x s with
  | error e t => rw [hr] at hs; exact hs
  | ok a t =>
    rw [hr] at hs
    have ht := hf a t hr
    dsimp only
    cases hu : f a t with
    | ok b u => rw [hu] at ht; exact steps_keeps.trans hs.1 ht
    | error e u => rw [hu] at ht; exact steps_keepsInMode.trans hs ht

theorem NextWithin.keeps {s : State} {o : Host.Outcome State Fault Refusal} (h : NextWithin KeepsInMode s o) :
    NextWithin Keeps s o := fun t ht => (h t ht).1

theorem next_runInstr_of_endsKept {m : M Unit} {s : State} (hm : EndsKept s (m s)) :
    NextWithin Keeps s (runInstr m s) := by
  unfold runInstr
  cases hr : m s with
  | ok _ t => rw [hr] at hm; exact .next (steps_keeps.trans hm (rel_complete machineRel_keepsInMode t _).1)
  | error x t => rw [hr] at hm; exact (next_takeExc machineRel_keepsInMode hm x).keeps

theorem privileged_eq_ok {s t : State} : privileged s = .ok () t ↔ s.privilegedOk = true ∧ t = s := by
  unfold privileged
  rw [bind_of_ok (get_apply s), raiseIf_eq_ok, State.privilegedOk, Bool.not_eq_true']

/-- Privileged code in a legal mode is neither in V86 mode nor above level 0. -/
theorem level0_of_privilegedOk {s : State} (hp : s.privilegedOk = true) (hl : s.legalMode = true) :
    s.flags.vm = false ∧ s.cpl = 0 := by
  rw [State.legalMode_iff] at hl
  simp only [State.privilegedOk] at hp
  cases hpe : s.cr0.pe with
  | false =>
    obtain ⟨hvm, -, hcpl⟩ := hl hpe
    exact ⟨hvm, hcpl⟩
  | true => simpa [hpe] using hp

/-- LMSW can set PE and not clear it. -/
theorem keeps_setMsw (s : State) (pe mp em ts : Bool) :
    Keeps s { s with cr0 := { s.cr0 with pe := s.cr0.pe || pe, mp := mp, em := em, ts := ts } } := by
  refine ⟨id, id, fun hl => ?_, id⟩
  rw [State.legalMode_iff] at hl ⊢
  exact fun hpe => hl (Bool.or_eq_false_iff.1 hpe).1

theorem endsKept_loadMsw (e : Rm Reg) (s : State) : EndsKept s (loadMsw e s) :=
  endsKept_bind (within_privileged machineRel_keepsInMode) fun _ _ _ =>
    endsKept_bind (within_readRm machineRel_keepsInMode _ _) fun _ t _ => keeps_setMsw t _ _ _ _

/-- CR0 with PG only beside PE is legal for privileged code in a legal mode. -/
theorem keeps_setCr0 {s : State} (hp : s.privilegedOk = true) {c : Cr0} (hc : c.pe = false → c.pg = false) :
    Keeps s { s with cr0 := c } := by
  refine ⟨id, id, fun hl => ?_, id⟩
  obtain ⟨hvm, hcpl⟩ := level0_of_privilegedOk hp hl
  exact (State.legalMode_iff _).2 fun hpe => ⟨hvm, hc hpe, hcpl⟩

theorem endsKept_loadCr0 (v : Word32) {s : State} (hp : s.privilegedOk = true) : EndsKept s (loadCr0 v s) := by
  have hs := steps_keepsInMode
  unfold loadCr0
  rw [bind_of_ok (get_apply s)]
  refine endsKept_bind (within_raiseIf hs _ _) fun _ t ht => ?_
  obtain ⟨hpg, rfl⟩ := raiseIf_eq_ok.1 ht
  have hc : bitAt v 0 = false → bitAt v 31 = false := fun h0 => by simpa [h0] using hpg
  refine endsKept_bind (within_whenever hs (within_update fun s => machineRel_keepsInMode.stale s _)) fun _ q hq => ?_
  have hq : q.privilegedOk = true := by
    unfold whenever at hq
    split at hq <;> cases hq <;> exact hp
  exact keeps_setCr0 hq hc

/-- The undefined status flags are drawn whatever the mode has become. -/
theorem endsKept_undefinedStatus {x : M Unit} {s : State} (hx : EndsKept s (x s)) :
    EndsKept s ((x >>= fun _ => undefinedStatus) s) := by
  rw [bind_apply]
  cases hr : x s with
  | error e t => rw [hr] at hx; exact hx
  | ok _ t =>
    rw [hr] at hx
    exact steps_keeps.trans hx (within_undefinedStatus machineRel_keepsInMode t).1

theorem endsKept_writeControl (n : BitVec 3) (r : Reg) (s : State) : EndsKept s (writeControl n r s) := by
  have h := machineRel_keepsInMode
  have hs := h.toSteps
  refine endsKept_bind (within_privileged h) fun _ t ht => ?_
  obtain ⟨hp, rfl⟩ := privileged_eq_ok.1 ht
  refine endsKept_bind (within_raiseIf hs _ _) fun _ u hu => ?_
  obtain ⟨-, rfl⟩ := raiseIf_eq_ok.1 hu
  rw [bind_of_ok (reads_apply _ _)]
  split
  · exact endsKept_undefinedStatus (endsKept_loadCr0 _ hp)
  · split
    · exact endsKept_undefinedStatus (endsKept_of_within (within_update fun s => h.cr2 s _) _)
    · exact endsKept_undefinedStatus (endsKept_of_within (within_loadCr3 h _) _)

/-- Every instruction keeps the invariants. -/
theorem next_exec_keeps (i : Instr) (s : State) : NextWithin Keeps s (exec i s) := by
  have h := machineRel_keepsInMode
  cases hi : loadsSystem i with
  | false => exact (next_exec h i hi s).keeps
  | true =>
    unfold loadsSystem at hi
    split at hi
    · next m =>
      exact (next_runInstr h (within_bind h.toSteps (within_loadTable h m) fun _ =>
        within_update fun s => keepsInMode_gdtr s _) s).keeps
    · next m =>
      exact (next_runInstr h (within_bind h.toSteps (within_loadTable h m) fun _ =>
        within_update fun s => keepsInMode_idtr s _) s).keeps
    · next e => exact next_runInstr_of_endsKept (endsKept_loadMsw e s)
    · next n r => exact next_runInstr_of_endsKept (endsKept_writeControl n r s)
    · next n r => exact (next_runInstr h (within_writeDebug n r) s).keeps
    · next n r => exact (next_runInstr h (within_writeTest n r) s).keeps
    · exact absurd hi Bool.false_ne_true

/-! ### A whole step -/

theorem next_runItems_keeps (fuel : Nat) (s : State) : NextWithin Keeps s (runItems fuel s) := by
  have h := machineRel_keepsInMode
  induction fuel generalizing s with
  | zero => exact (next_takeExc h (h.refl s) _).keeps
  | succ fuel ih =>
    have hf := within_fetchItem h s
    rw [runItems]
    cases hr : fetchItem s with
    | error x s1 => rw [hr] at hf; exact (next_takeExc h hf x).keeps
    | ok i s1 =>
      rw [hr] at hf
      have hx := next_exec_keeps i s1
      dsimp only
      cases he : exec i s1 with
      | fault r => exact .fault
      | refused r => exact .refused
      | next t =>
        have ht := steps_keeps.trans hf.1 (hx t he)
        dsimp only
        split
        · exact .after steps_keeps ht (ih t)
        · exact .next ht

theorem keepsInMode_noteBreaks (s : State) : KeepsInMode s s.noteBreaks :=
  machineRel_keepsInMode.dr6 s _ (breakBits_named _ _ _ _)

/-- An event at a boundary is delivered in a state that differs in what is pending and in DR6 only. -/
theorem boundaryEvent_keepsInMode {s t : State} {e : Event} (h : boundaryEvent s = some (t, e)) : KeepsInMode s t := by
  have hb := keepsInMode_noteBreaks s
  have hw {u : State} (hu : u.watched = s.noteBreaks.watched) : KeepsInMode s u :=
    steps_keepsInMode.trans hb (keepsInMode_of_watched hu)
  unfold boundaryEvent at h
  split at h
  · cases h; exact keepsInMode_of_watched rfl
  · split at h
    · cases h; exact hb
    · split at h
      · cases h; exact hw rfl
      · split at h <;> cases h
        exact hw rfl

theorem next_runningStep_keeps (s : State) : NextWithin Keeps s (runningStep s) := by
  have h := machineRel_keepsInMode
  unfold runningStep
  split
  · next t e hb => exact (NextWithin.after h.toSteps (boundaryEvent_keepsInMode hb) (next_deliverFrom h _ t e)).keeps
  · exact .after steps_keeps (h.trans (keepsInMode_noteBreaks s) (h.cur _ _)).1 (next_runItems_keeps _ _)

theorem next_shutdownStep_keeps (s : State) : NextWithin Keeps s (shutdownStep s) := by
  have h := machineRel_keepsInMode
  have hs : NextWithin Keeps s (.next s) := .next (steps_keeps.refl s)
  unfold shutdownStep
  dsimp only
  split
  · exact hs
  · split
    · exact hs
    · have hd := within_deliver h (externalEvent s 2) { s.takeNmi with run := .running }
      split
      · next t hr =>
        rw [hr] at hd
        have ht : KeepsInMode s { s.takeNmi with run := .running } := keepsInMode_of_watched rfl
        exact .next (h.trans (h.trans ht hd) (rel_settle h t)).1
      · exact hs

theorem next_step_keeps (s : State) : NextWithin Keeps s (step s) := by
  unfold step
  split
  · exact next_shutdownStep_keeps s
  · split
    · exact .after steps_keeps (machineRel_keepsInMode.run s _).1 (next_runningStep_keeps _)
    · exact .next (steps_keeps.refl s)
  · exact next_runningStep_keeps s

/-! ### The latch between two steps -/

/-- Every next state of the outcome satisfies `p`. -/
def NextSatisfies (p : State → Prop) (o : Host.Outcome State Fault Refusal) : Prop := ∀ t, o = .next t → p t

/-- The state is one between two steps: the latch is idle. -/
def Settled (t : State) : Prop := t.cur = Latch.idle

theorem settled_onExc {again : State → Byte → Option Word16 → Host.Outcome State Fault Refusal}
    (ha : ∀ s v err, NextSatisfies Settled (again s v err)) (s : State) (x : Exc) :
    NextSatisfies Settled (s.onExc again x) := by
  cases x with
  | vector v err => exact ha s v err
  | pageFault lin code => exact ha _ _ _
  | shutdown => rintro _ ⟨⟩; rfl
  | stop f => rintro _ ⟨⟩
  | refuse r => rintro _ ⟨⟩

theorem settled_deliverFrom (fuel : Nat) (s : State) (e : Event) : NextSatisfies Settled (deliverFrom fuel s e) := by
  induction fuel generalizing s e with
  | zero => rintro _ ⟨⟩
  | succ fuel ih =>
    rw [deliverFrom]
    split
    · rintro _ ⟨⟩; rfl
    · refine settled_onExc (fun b v err => ?_) _ _
      split
      · rintro _ ⟨⟩; rfl
      · exact ih _ _

theorem settled_takeExc (s s1 : State) (x : Exc) : NextSatisfies Settled (takeExc s s1 x) :=
  settled_onExc (fun _ _ _ => settled_deliverFrom _ _ _) _ _

theorem settled_runInstr (m : M Unit) (s : State) : NextSatisfies Settled (runInstr m s) := by
  unfold runInstr
  split
  · rintro _ ⟨⟩; rfl
  · exact settled_takeExc _ _ _

/-- After an item that only notes itself more of the instruction follows, unless an event ended it. -/
theorem runPrefix_settled_or_inPrefix (m : M Unit) (s : State) :
    NextSatisfies (fun t => Settled t ∨ t.cur.inPrefix = true) (runPrefix m s) := by
  unfold runPrefix
  split
  · rintro _ ⟨⟩; exact .inr rfl
  · exact fun t ht => .inl (settled_takeExc _ _ _ t ht)

/-- Every item is run to its completion, or only notes itself for what follows. -/
theorem exec_eq_run (i : Instr) (s : State) :
    ∃ m, exec i s = if isPrefix i then runPrefix m s else runInstr m s := by
  cases i <;> exact ⟨_, rfl⟩

theorem exec_settled_or_inPrefix (i : Instr) (s : State) :
    NextSatisfies (fun t => Settled t ∨ t.cur.inPrefix = true) (exec i s) := by
  obtain ⟨m, hm⟩ := exec_eq_run i s
  rw [hm]
  split
  · exact runPrefix_settled_or_inPrefix m s
  · exact fun t ht => .inl (settled_runInstr m s t ht)

theorem settled_runItems (fuel : Nat) (s : State) : NextSatisfies Settled (runItems fuel s) := by
  induction fuel generalizing s with
  | zero => exact settled_takeExc _ _ _
  | succ fuel ih =>
    rw [runItems]
    split
    · exact settled_takeExc _ _ _
    · next i s1 _ =>
      split
      · next t ht =>
        split
        · exact ih t
        · next hp => rintro _ ⟨⟩; exact (exec_settled_or_inPrefix i s1 t ht).resolve_right hp
      · rintro _ ⟨⟩
      · rintro _ ⟨⟩

theorem settled_runningStep (s : State) : NextSatisfies Settled (runningStep s) := by
  unfold runningStep
  split
  · exact settled_deliverFrom _ _ _
  · exact settled_runItems _ _

theorem settled_shutdownStep {s : State} (hs : Settled s) : NextSatisfies Settled (shutdownStep s) := by
  have stays : NextSatisfies Settled (.next s) := by rintro _ ⟨⟩; exact hs
  unfold shutdownStep
  dsimp only
  split
  · exact stays
  · split
    · exact stays
    · split
      · rintro _ ⟨⟩; rfl
      · exact stays

theorem settled_step {s : State} (hs : Settled s) : NextSatisfies Settled (step s) := by
  unfold step
  split
  · exact settled_shutdownStep hs
  · split
    · exact settled_runningStep _
    · rintro _ ⟨⟩; exact hs
  · exact settled_runningStep s

/-- Settles O59: each change that a step is made of keeps the invariants, and a step leaves the latch idle. -/
theorem stepKeepsTheInvariants : Obligations.StepKeepsTheInvariants := by
  intro s t h
  have hk : Keeps s t := next_step_keeps s t h
  refine ⟨fun hs => ?_, hk.legal, hk.reserved⟩
  obtain ⟨hmem, hcr3, hidle⟩ := s.inv_iff.1 hs
  exact t.inv_iff.2 ⟨hk.mem hmem, hk.cr3 hcr3, settled_step hidle t h⟩

/-! ### Reset -/

/-- The data segment registers after reset address the first 64 Kbytes. -/
theorem reset_seg_of_ne_cs {r : SegReg} (h : r ≠ .cs) : State.reset.seg r = SegCache.real 0 0 := by
  cases r with
  | cs => exact absurd rfl h
  | es | ss | ds | fs | gs => rfl

/-- RESET in any state gives the values of the reset table, whatever the free values are, and keeps memory. -/
theorem afterReset_spec (t : State) (cop : Coprocessor) (selfTest : Bool) :
    let s := State.reset
    let r := t.afterReset cop selfTest
    r.cr0 = { s.cr0 with et := decide (cop = .i80387) } ∧ (selfTest = true → r.gpr.eax = 0 ∧ r.gpr.edx = 0)
      ∧ r.pc = s.pc ∧ r.segs = s.segs ∧ r.idtr = s.idtr ∧ r.cpl = 0 ∧ r.run = .running ∧ r.nmiPending = false
      ∧ r.nmiInService = false ∧ r.flags = { s.flags with nt := r.flags.nt } ∧ r.dr7 &&& 0xFF = 0
      ∧ r.mem = t.mem ∧ r.memMap = t.memMap := by
  have het : (cop == .i80387) = decide (cop = .i80387) := by cases cop <;> rfl
  have hdr7 : (t.afterReset cop selfTest).dr7 &&& 0xFF = 0 := by
    simp [State.afterReset, BitVec.and_assoc]
  refine ⟨?_, ?_, rfl, rfl, rfl, rfl, rfl, rfl, rfl, rfl, hdr7, rfl, rfl⟩
  · rw [← het]; rfl
  · rintro rfl; exact ⟨rfl, rfl⟩

theorem reset_invariants :
    State.reset.inv = true ∧ State.reset.legalMode = true ∧ State.reset.reservedClear = true := by
  refine ⟨?_, ?_, ?_⟩
  · exact (State.inv_iff _).2 ⟨rfl, rfl, rfl⟩
  · exact (State.legalMode_iff _).2 fun _ => ⟨rfl, rfl, rfl⟩
  · exact (State.reservedClear_iff _).2 ⟨rfl, rfl, rfl, rfl⟩

/-- Settles O58: the fixed values by evaluation, the segment registers and RESET in any state by their lemmas. -/
theorem resetState : Obligations.ResetState := by
  have hseg {r : SegReg} (h : r ≠ .cs) :
      (State.reset.seg r).sel = 0 ∧ (State.reset.seg r).base = 0 ∧ (State.reset.seg r).limit = 0xFFFF
        ∧ (State.reset.seg r).valid = true ∧ (State.reset.seg r).writable = true := by
    rw [reset_seg_of_ne_cs h]
    exact ⟨rfl, rfl, rfl, rfl, rfl⟩
  obtain ⟨hinv, hmode, hres⟩ := reset_invariants
  exact ⟨rfl, rfl, rfl, rfl, fun _ => hseg, rfl, rfl, rfl, rfl, rfl, rfl, rfl, rfl, rfl, rfl, rfl, rfl, rfl, hinv, hmode,
    hres, afterReset_spec⟩

end Sys2Proof.Machine

/-! Bytes in memory and items on the stack: what a write keeps and what is read after it (20_memory.md R101, R104), and what
a push and a pop do (20_memory.md R125, R127). -/

namespace Sys2Proof.Machine

/-! ### What a write at physical addresses keeps -/

/-- `t` is `s` but for the bytes of memory at the addresses `ps`, what the prefetch queue may hold and the record of the
devices. -/
structure WroteOnly (ps : List Nat) (s t : State) : Prop where
  get : ∀ a, a ∉ ps → Memory.get t.mem a = Memory.get s.mem a
  rest : t = { s with mem := t.mem, stale := t.stale, ioTrace := t.ioTrace }

theorem steps_wroteOnly (ps : List Nat) : Steps (WroteOnly ps) where
  refl _ := ⟨fun _ _ => rfl, rfl⟩
  trans h k := ⟨fun x hx => (k.get x hx).trans (h.get x hx), k.rest.trans (by rw [h.rest])⟩

/-- The addresses of a run that are not among its first ones keep their bytes. -/
theorem Memory.get_setRun_other (m : Memory) {a x : Nat} {vs : List Byte} (h : x ∉ (List.range vs.length).map (a + ·)) :
    Memory.get (Memory.setRun m a vs) x = Memory.get m x := by
  rw [← Memory.setAll_range m a vs.length (Nat.le_refl _), Memory.get_setAll_other _ _ h]

/-- One bus event writes only the addresses of its bytes, whatever answers there. -/
theorem writeEvent_wroteOnly {ps : List Nat} {a : Nat} {bs : List Byte}
    (h : (List.range bs.length).map (a + ·) ⊆ ps) : Within (WroteOnly ps) (writeEvent a bs) := by
  intro s
  unfold writeEvent
  split
  case h_1 => exact ⟨fun x hx => Memory.get_setRun_other _ fun hm => hx (h hm), rfl⟩
  case h_3 => exact ⟨fun _ _ => rfl, rfl⟩
  case h_2 | h_4 => exact (steps_wroteOnly ps).refl s

/-- The bytes of the next bus event of an access lie at the addresses of the access. -/
theorem eventSize_subset (s : State) (a : Nat) (as : List Nat) (bs : List Byte) :
    (List.range (bs.take (s.eventSize (a :: as))).length).map (a + ·) ⊆ a :: as := by
  obtain ⟨j, hj, hr⟩ := eventSize_cons s a as
  have hlen : (bs.take (s.eventSize (a :: as))).length ≤ j + 1 := by rw [hj]; exact List.length_take_le _ _
  have hrange := List.map_subset (a + ·) (List.range_subset.2 hlen)
  rw [← hr] at hrange
  exact List.Subset.trans hrange (List.take_subset _ _)

theorem writeBytesFrom_wroteOnly {ps as : List Nat} (h : as ⊆ ps) (bs : List Byte) (done : Nat) :
    Within (WroteOnly ps) (writeBytesFrom as bs done) := by
  have hs := steps_wroteOnly ps
  induction as generalizing bs done with
  | nil => exact within_pure hs _
  | cons a as ih =>
    have ih := ih (List.subset_of_cons_subset h)
    match bs, done with
    | [], _ => exact within_pure hs _
    | _ :: bs, done + 1 => exact ih bs done
    | b :: bs, 0 =>
      exact within_get_bind fun s => within_bind hs
        (writeEvent_wroteOnly (List.Subset.trans (eventSize_subset s a as (b :: bs)) h)) (fun _ => ih bs _) s

/-- A write at physical addresses changes no byte at another one, and nothing else of the machine but what `WroteOnly`
names. -/
theorem State.afterWriting_wroteOnly (s : State) (ps : List Nat) (bs : List Byte) : WroteOnly ps s (s.afterWriting ps bs) := by
  have h := writeBytesFrom_wroteOnly (List.Subset.refl ps) bs 0 s
  rwa [← writeBytes, writeBytes_ok] at h

/-! ### What is read after a write -/

@[simp] theorem State.kindAt_afterWriting (s : State) (ps : List Nat) (bs : List Byte) (a : Nat) :
    (s.afterWriting ps bs).kindAt a = s.kindAt a := by
  rw [(s.afterWriting_wroteOnly ps bs).rest]; rfl

theorem State.mem_afterWriting_of_ram {s : State} {ps : List Nat} (h : ∀ a ∈ ps, s.kindAt a = .ram) (bs : List Byte) :
    (s.afterWriting ps bs).mem = Memory.setAll s.mem ps bs := by
  obtain ⟨q, hq⟩ := writeBytes_of_ram h bs
  simp only [State.afterWriting, hq]

/-- After a write in RAM each address listed once reads as the byte that was written there. -/
theorem State.bytesAt_afterWriting {s : State} {ps : List Nat} {bs : List Byte} (hm : Memory.wf s.mem = true)
    (hd : ps.Nodup) (hl : ps.length = bs.length) (hr : ∀ a ∈ ps, s.kindAt a = .ram) :
    (s.afterWriting ps bs).bytesAt ps = bs := by
  have hk : ∀ a ∈ ps, (s.afterWriting ps bs).kindAt a = .ram := by simpa only [State.kindAt_afterWriting] using hr
  rw [bytesAt_of_memory fun a ha => .inl (hk a ha), State.mem_afterWriting_of_ram hr]
  exact Memory.map_get_setAll hm hd hl

/-- Settles O48: a read after a write, the frame of a write, the bytes of a number, and memories that read alike. -/
theorem memoryReadsBackWhatWasWritten : Obligations.MemoryReadsBackWhatWasWritten :=
  ⟨fun _ _ _ => State.bytesAt_afterWriting,
    fun ps bs s => have h := s.afterWriting_wroteOnly ps bs; ⟨h.get, h.rest⟩,
    ofBytes_toBytes,
    fun _ _ => Memory.ext_of_get⟩

/-! ### The stack pointer -/

/-- A value cut to a size is within that size. -/
@[simp] theorem sized_sized (is32 : Bool) (v : Word32) : sized is32 (sized is32 v) = sized is32 v := by
  cases is32 with
  | true => rfl
  | false => simp [sized, BitVec.and_assoc]

@[simp] theorem State.stackOffset_stackOffset (s : State) (v : Word32) :
    s.stackOffset (s.stackOffset v) = s.stackOffset v := sized_sized _ _

/-- The low half of a double word with its low 16 bits replaced. -/
theorem insertLow_and_low (old v : Word32) : insertLow old (v.setWidth 16) &&& 0xFFFF = v &&& 0xFFFF := by
  have hmask : ∀ i, (h : i < 32) → (0xFFFF#32)[i] = decide (i < 16) := by decide
  ext i hi
  by_cases hlow : i < 16
  · simp [insertLow, hmask i hi, hlow, BitVec.getLsbD_eq_getElem hi]
  · simp [hmask i hi, hlow]

/-- The stack pointer reads as what was written to it, modulo the stack's size. -/
theorem State.sp_withSp (s : State) (v : Word32) : (s.withSp v).sp = s.stackOffset v := by
  have hsize : (s.withSp v).stack32 = s.stack32 := by
    simp only [State.stack32, State.protected, State.withSp_cr0, State.withSp_flags, State.withSp_segs]
  unfold State.sp State.stackOffset
  rw [hsize]
  unfold State.withSp
  cases s.stack32 with
  | true => simp [sized, State.reg_setReg]
  | false =>
    simp only [sized, State.setRegN, State.reg_setReg, insertLow_and_low, Bool.false_eq_true, if_true, if_false]

/-- `t` has the stack size and the stack pointer of `s`. -/
structure SameStack (s t : State) : Prop where
  stack32 : t.stack32 = s.stack32
  sp : t.sp = s.sp

theorem SameStack.stackOffset {s t : State} (h : SameStack s t) (v : Word32) : t.stackOffset v = s.stackOffset v := by
  rw [State.stackOffset, State.stackOffset, h.stack32]

/-- No access to memory changes the stack size or the stack pointer. -/
theorem accessRel_sameStack : AccessRel SameStack where
  refl _ := ⟨rfl, rfl⟩
  trans h k := ⟨k.stack32.trans h.stack32, k.sp.trans h.sp⟩
  draws _ := ⟨rfl, rfl⟩
  device _ _ := ⟨rfl, rfl⟩
  store _ _ _ := ⟨rfl, rfl⟩
  walk _ _ := ⟨rfl, rfl⟩
  tlb _ _ := ⟨rfl, rfl⟩
  data _ _ _ _ := ⟨rfl, rfl⟩

theorem segWrite_sameStack {r : SegReg} {off : Word32} {n v : Nat} {s t : State} (h : segWrite r off n v s = .ok () t) :
    SameStack s t := by
  have hw := within_segWrite accessRel_sameStack r off n v s
  rwa [h] at hw

theorem segRead_sameStack {r : SegReg} {off : Word32} {n v : Nat} {s t : State} (h : segRead r off n s = .ok v t) :
    SameStack s t := by
  have hw := within_segRead accessRel_sameStack r off n s
  rwa [h] at hw

/-- The stack pointer moved to an offset in the stack reads as that offset. -/
theorem SameStack.sp_withSp {s t : State} (h : SameStack s t) (v : Word32) :
    (t.withSp (s.stackOffset v)).sp = s.stackOffset v := by
  rw [State.sp_withSp, h.stackOffset, State.stackOffset_stackOffset]

/-! ### Push and pop -/

/-- A write in a segment, by the physical addresses that its checks give. -/
theorem segWrite_of_dataAddresses {r : SegReg} {off : Word32} {n : Nat} {s t : State} {ps : List Nat} (v : Nat)
    (h : dataAddresses r off n true s = .ok ps t) : segWrite r off n v s = .ok () (t.afterWriting ps (toBytes n v)) := by
  rw [segWrite, bind_of_ok h, writeBytes_ok]

theorem pushShutsDown_iff (n : Nat) (s : State) :
    s.pushShutsDown n = true ↔ s.cr0.pe = false ∧ 0 < s.sp.toNat ∧ s.sp.toNat < n := by
  simp [State.pushShutsDown, and_assoc]

theorem push_of_pushShutsDown {n : Nat} {s : State} (h : s.pushShutsDown n = true) (v : Nat) :
    push n v s = .error .shutdown s := by
  have hr : raiseIf (s.pushShutsDown n) .shutdown s = .error .shutdown s := by rw [raiseIf_apply, if_pos h]
  rw [push, bind_of_ok (get_apply s), bind_of_error hr]

/-- A push that finds room stores the item below the stack pointer and moves the pointer there. -/
theorem push_of_dataAddresses {n : Nat} {s s1 : State} {ps : List Nat} (v : Nat) (hroom : s.pushShutsDown n = false)
    (h : dataAddresses .ss (s.stackOffset (s.sp - BitVec.ofNat 32 n)) n true s = .ok ps s1) :
    push n v s =
      .ok () ((s1.afterWriting ps (toBytes n v)).withSp (s.stackOffset (s.sp - BitVec.ofNat 32 n))) := by
  have hr : raiseIf (s.pushShutsDown n) .shutdown s = .ok () s := raiseIf_eq_ok.2 ⟨hroom, rfl⟩
  rw [push, bind_of_ok (get_apply s), bind_of_ok hr, bind_of_ok (segWrite_of_dataAddresses v h), update_apply]

/-- A pop reads the item at the stack pointer and moves the pointer above it. -/
theorem pop_of_segRead {n v : Nat} {s s1 : State} (h : segRead .ss s.sp n s = .ok v s1) :
    pop n s = .ok v (s1.withSp (s.stackOffset (s.sp + BitVec.ofNat 32 n))) := by
  have hs := segRead_sameStack h
  rw [pop, bind_of_ok (get_apply s), bind_of_ok h, bind_of_ok (update_apply _ _), pure_apply, hs.stackOffset, hs.sp]

/-- Settles O21: a push with room, the stack pointer after it, a pop, and a push that shuts down. -/
theorem pushAndPopMoveTheStackPointer : Obligations.PushAndPopMoveTheStackPointer :=
  ⟨fun _ v _ _ _ hroom h =>
      ⟨push_of_dataAddresses v hroom h, (segWrite_sameStack (segWrite_of_dataAddresses v h)).sp_withSp _⟩,
    fun _ _ _ _ => pop_of_segRead,
    fun n v s => ⟨pushShutsDown_iff n s, fun h => push_of_pushShutsDown h v⟩⟩

end Sys2Proof.Machine

/-! Instructions that test IOPL (21_segmentation_protection.md R194, 62_virtual_8086.md R710): the test comes first, so where
it fails nothing of the instruction is done. -/

namespace Sys2Proof.Machine

theorem State.ioAllowed_eq_false_iff (s : State) : s.ioAllowed = false ↔ s.cr0.pe = true ∧ s.flags.iopl < s.level := by
  simp [State.ioAllowed]

/-- An item that would only note itself, and ends in an event. -/
theorem runPrefix_of_error {m : M Unit} {s t : State} {x : Exc} (h : m s = .error x t) : runPrefix m s = takeExc s t x := by
  simp [runPrefix, h]

/-- A string instruction that has an element to do, which ends in an event. -/
theorem repeated_of_error {compares : Bool} {m : M Unit} {s t : State} {x : Exc}
    (hrep : s.cur.rep = none ∨ s.indexReg .ecx ≠ 0) (h : m s = .error x t) : repeated compares m s = .error x t := by
  rw [repeated, bind_of_ok (get_apply s), ite_apply, ite_apply]
  split
  · exact h
  · next hr =>
    have hcount : s.indexReg .ecx ≠ 0 := hrep.resolve_left fun hn => hr (by rw [hn]; rfl)
    rw [if_neg hcount, bind_of_error h]

section IoForbidden

variable {s : State} (h : s.ioAllowed = false)
include h

theorem ioSensitive_of_forbidden : ioSensitive s = .error (.gp 0) s := by
  have hc : (s.cr0.pe && decide (s.flags.iopl < s.level)) = true := by simpa [State.ioAllowed] using h
  rw [ioSensitive, bind_of_ok (get_apply s), raiseIf_apply, if_pos hc]

theorem inputByte_of_forbidden (port : Word16) : inputByte port s = .error (.gp 0) s :=
  bind_of_error (ioSensitive_of_forbidden h)

theorem inputWord_of_forbidden (port : Word16) : inputWord port s = .error (.gp 0) s := by
  rw [inputWord, bySize_apply, bind_of_error (ioSensitive_of_forbidden h)]

theorem outputByte_of_forbidden (port : Word16) : outputByte port s = .error (.gp 0) s :=
  bind_of_error (ioSensitive_of_forbidden h)

theorem outputWord_of_forbidden (port : Word16) : outputWord port s = .error (.gp 0) s := by
  rw [outputWord, bySize_apply, bind_of_error (ioSensitive_of_forbidden h)]

theorem insElement_of_forbidden (n : Nat) : insElement n s = .error (.gp 0) s :=
  bind_of_error (ioSensitive_of_forbidden h)

theorem outsElement_of_forbidden (n : Nat) : outsElement n s = .error (.gp 0) s :=
  bind_of_error (ioSensitive_of_forbidden h)

theorem exec_interruptFlag_of_forbidden :
    exec .cli s = takeExc s s (.gp 0) ∧ exec .sti s = takeExc s s (.gp 0) :=
  have ht := ioSensitive_of_forbidden h
  ⟨runInstr_of_error (bind_of_error ht), runInstr_of_error (bind_of_error ht)⟩

theorem exec_lock_of_forbidden : exec .lock s = takeExc s s (.gp 0) :=
  runPrefix_of_error (bind_of_error (ioSensitive_of_forbidden h))

theorem exec_in_of_forbidden (port : Byte) :
    exec (.inAlIb port) s = takeExc s s (.gp 0) ∧ exec (.inEaxIb port) s = takeExc s s (.gp 0)
      ∧ exec .inAlDx s = takeExc s s (.gp 0) ∧ exec .inEaxDx s = takeExc s s (.gp 0) :=
  ⟨runInstr_of_error (inputByte_of_forbidden h _), runInstr_of_error (inputWord_of_forbidden h _),
    runInstr_of_error ((bind_of_ok (get_apply s)).trans (inputByte_of_forbidden h _)),
    runInstr_of_error ((bind_of_ok (get_apply s)).trans (inputWord_of_forbidden h _))⟩

theorem exec_out_of_forbidden (port : Byte) :
    exec (.outIbAl port) s = takeExc s s (.gp 0) ∧ exec (.outIbEax port) s = takeExc s s (.gp 0)
      ∧ exec .outDxAl s = takeExc s s (.gp 0) ∧ exec .outDxEax s = takeExc s s (.gp 0) :=
  ⟨runInstr_of_error (outputByte_of_forbidden h _), runInstr_of_error (outputWord_of_forbidden h _),
    runInstr_of_error ((bind_of_ok (get_apply s)).trans (outputByte_of_forbidden h _)),
    runInstr_of_error ((bind_of_ok (get_apply s)).trans (outputWord_of_forbidden h _))⟩

theorem exec_portString_of_forbidden (hrep : s.cur.rep = none ∨ s.indexReg .ecx ≠ 0) :
    exec .insb s = takeExc s s (.gp 0) ∧ exec .insw s = takeExc s s (.gp 0)
      ∧ exec .outsb s = takeExc s s (.gp 0) ∧ exec .outsw s = takeExc s s (.gp 0) :=
  have hins n := repeated_of_error (compares := false) hrep (insElement_of_forbidden h n)
  have houts n := repeated_of_error (compares := false) hrep (outsElement_of_forbidden h n)
  ⟨runInstr_of_error (hins 8), runInstr_of_error ((bySize_apply _ s).trans (hins _)),
    runInstr_of_error (houts 8), runInstr_of_error ((bySize_apply _ s).trans (houts _))⟩

end IoForbidden

section V86Sensitive

variable {s : State} (hv : s.v86 = true) (hi : s.flags.iopl ≠ 3)
include hv hi

theorem v86Sensitive_of_iopl_ne : v86Sensitive s = .error (.gp 0) s := by
  have hc : (s.v86 && s.flags.iopl != 3) = true := by simpa [hv] using hi
  rw [v86Sensitive, bind_of_ok (get_apply s), raiseIf_apply, if_pos hc]

/-- INT n and IRET begin with the test that PUSHF and POPF make. -/
theorem exec_v86Sensitive_of_iopl_ne (v : Byte) :
    exec .pushf s = takeExc s s (.gp 0) ∧ exec .popf s = takeExc s s (.gp 0)
      ∧ exec (.intIb v) s = takeExc s s (.gp 0) ∧ exec .iret s = takeExc s s (.gp 0) :=
  have ht := v86Sensitive_of_iopl_ne hv hi
  ⟨runInstr_of_error (bind_of_error ht), runInstr_of_error (bind_of_error ht),
    runInstr_of_error ((bind_of_ok (get_apply s)).trans (bind_of_error ht)),
    runInstr_of_error ((bind_of_ok (get_apply s)).trans (bind_of_error ht))⟩

end V86Sensitive

/-- In V86 mode the level is 3, so with the IOPL below it the four instructions that are sensitive there trap too. -/
theorem v86_of_vm {s : State} (hpe : s.cr0.pe = true) (hvm : s.flags.vm = true) (hiopl : s.flags.iopl < s.level) :
    s.v86 = true ∧ s.flags.iopl ≠ 3 := by
  have hlevel : s.level = 3 := by simp [State.level, hpe, hvm]
  refine ⟨by simp [State.v86, hpe, hvm], fun h3 => ?_⟩
  rw [hlevel, h3] at hiopl
  exact absurd hiopl (by decide)

/-- Settles O40: the IOPL test of each instruction comes before all else that it does. -/
theorem ioSensitiveInstructionsTrap : Obligations.IoSensitiveInstructionsTrap := by
  intro s imm hpe hiopl
  have h : s.ioAllowed = false := s.ioAllowed_eq_false_iff.2 ⟨hpe, hiopl⟩
  obtain ⟨hcli, hsti⟩ := exec_interruptFlag_of_forbidden h
  obtain ⟨hin8, hin, hin8dx, hindx⟩ := exec_in_of_forbidden h imm
  obtain ⟨hout8, hout, hout8dx, houtdx⟩ := exec_out_of_forbidden h imm
  refine ⟨hcli, hsti, exec_lock_of_forbidden h, hin8, hin, hin8dx, hindx, hout8, hout, hout8dx, houtdx,
    exec_portString_of_forbidden h, fun hvm => ?_⟩
  obtain ⟨hv, hi⟩ := v86_of_vm hpe hvm hiopl
  exact exec_v86Sensitive_of_iopl_ne hv hi imm

end Sys2Proof.Machine

/-! Accesses through a segment register (21_segmentation_protection.md R171, R187): which offsets a segment holds, the fault
of an access by its cause, and where the bytes of an access without one lie. -/

namespace Sys2Proof.Machine

/-! ### The offsets of a segment -/

/-- A run of offsets lies inside bounds when its first and its last one do. -/
theorem SegCache.holds_iff (c : SegCache) (off : Word32) {n : Nat} (hn : 0 < n) :
    c.holds off n = true ↔ ∀ k, k < n →
      if c.expandDown then
        c.limit.toNat < off.toNat + k ∧ off.toNat + k ≤ (if c.big then 0xFFFFFFFF else 0xFFFF)
      else off.toNat + k ≤ c.limit.toNat := by
  cases hd : c.expandDown with
  | false =>
    simp only [SegCache.holds, hd, Bool.not_false, Bool.false_eq_true, if_true, if_false, decide_eq_true_eq]
    refine ⟨fun h k hk => by omega, fun h => ?_⟩
    have hlast := h (n - 1) (by omega)
    omega
  | true =>
    simp only [SegCache.holds, hd, Bool.not_true, Bool.false_eq_true, if_true, if_false, Bool.and_eq_true,
      decide_eq_true_eq]
    refine ⟨fun ⟨hlow, hhigh⟩ k hk => ⟨by omega, by omega⟩, fun h => ?_⟩
    have hfirst := h 0 hn
    have hlast := h (n - 1) (by omega)
    exact ⟨by omega, by omega⟩

/-- What the cache of a code or data segment takes from its descriptor. -/
theorem Desc.cache_of_isSegment {d : Desc} (sel : Word16) (h : d.isSegment = true) :
    let c := d.cache sel
    let code := d.getLsbD 43
    c.valid = true ∧ c.executable = code ∧ c.readable = (!code || d.getLsbD 41) ∧ c.writable = (!code && d.getLsbD 41)
      ∧ c.expandDown = (!code && d.getLsbD 42) ∧ c.big = d.getLsbD 54 ∧ c.base = d.base ∧ c.limit = d.limit := by
  simp only [Desc.cache, Desc.isReadable, Desc.isWritable, Desc.isCode, Desc.isData, h, bitAt, Bool.true_and, true_and,
    and_true]
  cases d.getLsbD 43 <;> simp

/-! ### The fault of an access -/

/-- The cache lets an access of this kind be made. -/
def SegCache.allows (c : SegCache) : Access → Bool
  | .read => c.readable
  | .write => c.writable
  | .execute => c.executable

theorem State.inSegment_iff (s : State) (r : SegReg) (off : Word32) (n : Nat) :
    s.inSegment r off n = true ↔
      (s.seg r).holds off n = true ∧ (s.protected = true ∨ off.toNat + n ≤ 0x10000) := by
  have hlast : off.toNat + n - 1 ≤ 0xFFFF ↔ off.toNat + n ≤ 0x10000 := by omega
  simp only [State.inSegment, Bool.and_eq_true, Bool.or_eq_true, decide_eq_true_eq, hlast]

theorem State.aboveMegabyte_iff (s : State) (r : SegReg) (off : Word32) (n : Nat) :
    s.aboveMegabyte r off n = true ↔
      s.protected = false ∧ 0x100000 < (s.seg r).base.toNat + off.toNat + n
        ∧ (s.seg r).base.toNat + off.toNat ≤ 0x10FFEF := by
  have hlast : 0x100000 ≤ (s.seg r).base.toNat + off.toNat + n - 1 ↔
      0x100000 < (s.seg r).base.toNat + off.toNat + n := by omega
  simp only [State.aboveMegabyte, Bool.and_eq_true, Bool.not_eq_true', decide_eq_true_eq, hlast, and_assoc]

/-- The checks of an access in their order. -/
theorem State.segFault_eq (s : State) (r : SegReg) (off : Word32) (n : Nat) (k : Access) :
    s.segFault r off n k =
      if (s.seg r).valid = false ∨ (s.seg r).allows k = false then some (.gp 0)
      else if s.inSegment r off n = false then some (s.limitFault r)
      else if s.aboveMegabyte r off n = true ∧ Config.high1MFaults = true then some (highFault r)
      else none := by
  cases hv : (s.seg r).valid <;> cases k <;> simp [State.segFault, SegCache.allows, hv]

section SegFault

variable {s : State} {r : SegReg} {off : Word32} {n : Nat} {k : Access}

theorem State.segFault_of_unusable (h : (s.seg r).valid = false ∨ (s.seg r).allows k = false) :
    s.segFault r off n k = some (.vector 13 (some 0)) := by
  rw [State.segFault_eq, if_pos h]; rfl

variable (hv : (s.seg r).valid = true) (ha : (s.seg r).allows k = true)
include hv ha

/-- Where the cache allows the access, only the places of its bytes can make it fail. -/
theorem State.segFault_of_usable :
    s.segFault r off n k =
      if s.inSegment r off n = false then some (s.limitFault r)
      else if s.aboveMegabyte r off n = true ∧ Config.high1MFaults = true then some (highFault r)
      else none := by
  rw [State.segFault_eq, if_neg (by simp [hv, ha])]

theorem State.segFault_of_outside (h : ¬ s.inSegment r off n = true) :
    s.segFault r off n k = some (.vector (if r = .ss ∧ s.protected = true then 12 else 13) (some 0)) := by
  rw [State.segFault_of_usable hv ha, if_pos (by simpa using h), State.limitFault]
  split <;> rfl

variable (hin : s.inSegment r off n = true)
include hin

theorem State.segFault_of_high (hh : s.aboveMegabyte r off n = true) (hc : Config.high1MFaults = true) :
    s.segFault r off n k = some (.vector (if r = .ss then 12 else 13) (some 0)) := by
  rw [State.segFault_of_usable hv ha, if_neg (by simp [hin]), if_pos ⟨hh, hc⟩, highFault]
  split <;> rfl

theorem State.segFault_of_inside (h : ¬ (s.aboveMegabyte r off n = true ∧ Config.high1MFaults = true)) :
    s.segFault r off n k = none := by
  rw [State.segFault_of_usable hv ha, if_neg (by simp [hin]), if_neg h]

end SegFault

/-! ### What an access does -/

section SegmentAccess

variable {r : SegReg} {off : Word32} {n : Nat} {s : State} {x : Exc}

theorem linear_of_segFault {k : Access} (h : s.segFault r off n k = some x) : linear r off n k s = .error x s := by
  simp only [linear, h]

theorem linear_of_no_segFault {k : Access} (h : s.segFault r off n k = none) :
    linear r off n k s = .ok ((s.seg r).base + off) s :=
  linear_eq_ok.2 ⟨h, rfl, rfl⟩

theorem segRead_of_segFault (h : s.segFault r off n .read = some x) : segRead r off n s = .error x s :=
  bind_of_error (bind_of_error (linear_of_segFault h))

theorem segWrite_of_segFault (v : Nat) (h : s.segFault r off n .write = some x) : segWrite r off n v s = .error x s :=
  bind_of_error (bind_of_error (linear_of_segFault h))

theorem State.flat_iff (s : State) : s.flat = true ↔ s.cr0.pg = false ∧ s.memMap = [] := by
  simp [State.flat]

theorem State.kindAt_of_flat (h : s.flat = true) (a : Nat) : s.kindAt a = .ram := by
  simp [State.kindAt, (s.flat_iff.1 h).2]

/-- Bytes that end before the linear addresses wrap lie at consecutive addresses. -/
theorem byteAddresses_eq_map {lin : Word32} (h : lin.toNat + n ≤ 2 ^ 32) :
    byteAddresses lin n = (List.range n).map (lin.toNat + ·) := by
  refine List.map_congr_left fun k hk => ?_
  have hk := List.mem_range.1 hk
  rw [BitVec.toNat_add, BitVec.toNat_ofNat]
  omega

theorem byteAddresses_add (lin : Word32) (a b : Nat) :
    byteAddresses lin (a + b) = byteAddresses lin a ++ byteAddresses (lin + BitVec.ofNat 32 a) b := by
  simp only [byteAddresses, List.range_add, List.map_append, List.map_map, Function.comp_def, BitVec.ofNat_add,
    BitVec.add_assoc]

/-- With paging off an access of up to a page takes the addresses from the linear one on, modulo 2^32: a page's end is the
only place where they can wrap. -/
theorem physicalBytes_eq_byteAddresses (h : s.cr0.pg = false) (hn : n ≤ 4096) (lin : Word32) (w u : Bool) :
    physicalBytes lin n w u s = .ok (byteAddresses lin n) s := by
  rw [physicalBytes_of_not_pg h]
  generalize hf : 4096 - lin.toNat % 4096 = first
  have hlt := lin.isLt
  split
  · rw [byteAddresses_eq_map (by omega)]
  · next hlong =>
    have hnext : (lin + BitVec.ofNat 32 first).toNat % 4096 = 0 := by
      rw [BitVec.toNat_add, BitVec.toNat_ofNat]; omega
    have hnextLt := (lin + BitVec.ofNat 32 first).isLt
    obtain ⟨rest, rfl⟩ := Nat.exists_eq_add_of_le (Nat.le_of_not_le hlong)
    rw [byteAddresses_add, byteAddresses_eq_map (by omega), byteAddresses_eq_map (by omega), Nat.add_sub_cancel_left]

theorem dataAddresses_of_flat {w : Bool} (hn : n ≤ 4096) (hs : s.flat = true)
    (h : s.segFault r off n (if w then .write else .read) = none) :
    dataAddresses r off n w s =
      .ok (byteAddresses ((s.seg r).base + off) n) (s.noteData ((s.seg r).base + off) n w) := by
  have hpg := (s.flat_iff.1 hs).1
  rw [dataAddresses, bind_of_ok (linear_of_no_segFault h), bind_of_ok (reads_apply _ s),
    bind_of_ok (physicalBytes_eq_byteAddresses hpg hn _ _ _), bind_of_ok (update_apply _ s), pure_apply]

theorem segRead_of_flat (hn : n ≤ 4096) (hs : s.flat = true) (h : s.segFault r off n .read = none) :
    segRead r off n s =
      .ok (ofBytes ((byteAddresses ((s.seg r).base + off) n).map (Memory.get s.mem)))
        (s.noteData ((s.seg r).base + off) n false) := by
  have hram (a : Nat) : (s.noteData ((s.seg r).base + off) n false).kindAt a = .ram := State.kindAt_of_flat hs a
  rw [segRead, bind_of_ok (dataAddresses_of_flat (w := false) hn hs h),
    bind_of_ok (readBytes_of_memory fun a _ => .inl (hram a)), pure_apply]
  rfl

end SegmentAccess

/-- Settles O49: the offsets of a segment, its cache, the fault of an access in each case, and the bytes of one without. -/
theorem segmentAccesses : Obligations.SegmentAccesses := by
  refine ⟨fun c off n hn => c.holds_iff off hn, fun d sel h => Desc.cache_of_isSegment sel h, ?_, ?_, ?_, ?_⟩
  · intro r off n k s hn c first allowed inside high
    have hallowed : allowed = (s.seg r).allows k := by cases k <;> rfl
    have hin : s.inSegment r off n = true ↔ inside := s.inSegment_iff r off n
    have hhigh : s.aboveMegabyte r off n = true ∧ Config.high1MFaults = true ↔ high := by
      rw [s.aboveMegabyte_iff r off n, and_assoc, and_assoc]
    rw [hallowed, ← hin, ← hhigh]
    exact ⟨State.segFault_of_unusable, State.segFault_of_outside,
      fun hv ha hi hh => State.segFault_of_high hv ha hi hh.1 hh.2, State.segFault_of_inside⟩
  · exact fun r off n v s x =>
      ⟨segRead_of_segFault, segWrite_of_segFault v, fun _ => linear_of_segFault, fun _ => linear_of_no_segFault⟩
  · exact fun r off n s => segRead_of_flat
  · exact fun r off n s => dataAddresses_of_flat (w := true)

end Sys2Proof.Machine

/-! Paging (22_paging.md R236 to R246, R251): what an access that stores nothing for the program can change, and what the page
walk and the TLB make of a linear address. -/

namespace Sys2Proof.Machine

/-! ### Accesses that leave memory as it is -/

/-- `t` is `s` but for what the TLB, a device, the debug registers and the free values record. -/
def NotedOnly (s t : State) : Prop :=
  t = { s with tlb := t.tlb, ioTrace := t.ioTrace, dr6 := t.dr6, draws := t.draws, dbgPending := t.dbgPending }

theorem steps_notedOnly : Steps NotedOnly where
  refl _ := rfl
  trans h k := k.trans (by rw [h])

theorem NotedOnly.kindAt {s t : State} (h : NotedOnly s t) (a : Nat) : t.kindAt a = s.kindAt a := by rw [h]; rfl

theorem draw_notedOnly : Within NotedOnly draw := fun _ => rfl

theorem readEvent_notedOnly (a n : Nat) : Within NotedOnly (readEvent a n) := by
  intro s
  unfold readEvent
  split <;> rfl

theorem readBytesFrom_notedOnly (as : List Nat) (held : List Byte) : Within NotedOnly (readBytesFrom as held) := by
  have hs := steps_notedOnly
  induction as generalizing held with
  | nil => exact within_pure hs _
  | cons a as ih =>
    match held with
    | b :: held => exact within_bind hs (ih held) fun _ => within_pure hs _
    | [] =>
      exact within_bind hs (within_get hs) fun _ => within_bind hs (readEvent_notedOnly _ _) fun _ =>
        within_bind hs (ih _) fun _ => within_pure hs _

theorem readByte_notedOnly (a : Nat) : Within NotedOnly (readByte a) :=
  within_bind steps_notedOnly (readEvent_notedOnly a 1) fun _ => within_pure steps_notedOnly _

theorem physRead32_notedOnly (a : Nat) : Within NotedOnly (physRead32 a) :=
  within_bind steps_notedOnly (readBytesFrom_notedOnly _ []) fun _ => within_pure steps_notedOnly _

theorem anyOf_notedOnly (mask : Byte) : Within NotedOnly (anyOf mask) :=
  within_ite (within_pure steps_notedOnly _)
    (within_bind steps_notedOnly draw_notedOnly fun _ => within_pure steps_notedOnly _)

theorem raisePageFault_notedOnly {α : Type} (lin : Word32) (present write user : Bool) :
    Within NotedOnly (raisePageFault lin present write user : M α) :=
  within_bind steps_notedOnly draw_notedOnly fun _ => within_raise steps_notedOnly _

theorem checkRights_notedOnly (rights : BitVec 2) (lin : Word32) (write user : Bool) :
    Within NotedOnly (checkRights rights lin write user) :=
  within_ite (raisePageFault_notedOnly _ _ _ _) (within_pure steps_notedOnly _)

theorem fillTlb_notedOnly (e : TlbEntry) : Within NotedOnly (fillTlb e) := by
  have hs := steps_notedOnly
  exact within_bind hs (within_get hs) fun _ => within_ite (within_update fun _ => rfl)
    (within_bind hs draw_notedOnly fun _ => within_update fun _ => rfl)

/-! ### The bits A and D -/

/-- Memory after the page walker set `bits` in the byte at an address, which leaves alone a byte that has them; of the bits
`loose` a free value says which become set too. -/
def State.walkMem (s : State) (a : Nat) (bits loose : Byte) : Memory :=
  if Memory.get s.mem a &&& bits = bits then s.mem
  else Memory.set s.mem a
    (Memory.get s.mem a ||| bits ||| (s.fresh.setWidth 8 &&& (loose &&& ~~~Memory.get s.mem a)))

/-- `t` is `s` but for memory, which is `m`, and the records that a write of the page walker leaves. -/
def WalkedTo (m : Memory) (s t : State) : Prop :=
  t = { s with mem := m, stale := t.stale, draws := t.draws, cur := { s.cur with walk := t.cur.walk } }

theorem readByte_of_ram {s : State} {a : Nat} (h : s.kindAt a = .ram) : readByte a s = .ok (Memory.get s.mem a) s := by
  rw [readByte, bind_of_ok (readEvent_of_memory (.inl h) 1)]
  rfl

/-- Without a bit to choose there is no draw, and what would be drawn does not count. -/
theorem anyOf_apply (mask : Byte) (s : State) :
    anyOf mask s = .ok (s.fresh.setWidth 8 &&& mask) (if mask = 0 then s else s.drawn) := by
  unfold anyOf
  split
  · next h => simp [h]
  · rfl

theorem WalkedTo.of_drawn {m : Memory} {s t : State} (h : WalkedTo m s.drawn t) : WalkedTo m s t := h

/-- A byte that the page walker writes in RAM is kept through a fault by its record. -/
theorem writeByte_noteWalk_of_ram {s : State} {a : Nat} (h : s.kindAt a = .ram) (v bits : Byte) :
    ∃ t, (writeByte a v >>= fun _ => update fun u => u.noteWalk a bits) s = .ok () t
      ∧ WalkedTo (Memory.set s.mem a v) s t := by
  have hkind : ({ s.noteStore a [v] with mem := Memory.setRun s.mem a [v] } : State).kindAt a = .ram := h
  rw [writeByte, bind_of_ok (writeEvent_of_ram h _), update_apply, State.noteWalk, if_pos hkind]
  exact ⟨_, rfl, rfl⟩

/-- What the page walker does to an entry in RAM. -/
theorem setWalkBits_of_ram {s : State} {a : Nat} (h : s.kindAt a = .ram) (bits loose : Byte) :
    ∃ t, setWalkBits a bits loose s = .ok () t ∧ WalkedTo (s.walkMem a bits loose) s t := by
  rw [setWalkBits, State.walkMem, bind_of_ok (readByte_of_ram h), ite_apply]
  by_cases hset : Memory.get s.mem a &&& bits = bits
  · rw [if_pos hset, if_pos hset]
    exact ⟨s, rfl, rfl⟩
  · rw [if_neg hset, if_neg hset, bind_of_ok (anyOf_apply _ s)]
    split
    · exact writeByte_noteWalk_of_ram h _ _
    · obtain ⟨t, ht, hwalked⟩ := writeByte_noteWalk_of_ram (s := s.drawn) h _ _
      exact ⟨t, ht, hwalked.of_drawn⟩

/-- `NotedOnly` where the address is not one of RAM. -/
def NotedOutsideRam (a : Nat) (s t : State) : Prop := s.kindAt a ≠ .ram → NotedOnly s t

theorem steps_notedOutsideRam (a : Nat) : Steps (NotedOutsideRam a) where
  refl s _ := steps_notedOnly.refl s
  trans h k ha := steps_notedOnly.trans (h ha) (k (by rwa [(h ha).kindAt]))

theorem Within.notedOutsideRam {α : Type} {m : M α} (hm : Within NotedOnly m) (a : Nat) : Within (NotedOutsideRam a) m :=
  fun s _ => hm s

theorem writeByte_notedOutsideRam (a : Nat) (v : Byte) : Within (NotedOutsideRam a) (writeByte a v) := by
  intro s ha
  unfold writeByte writeEvent
  split
  case h_1 hram => exact absurd hram ha
  all_goals rfl

/-- Where no RAM answers, nothing that the page walker does to an entry reaches memory. -/
theorem setWalkBits_notedOutsideRam (a : Nat) (bits loose : Byte) :
    Within (NotedOutsideRam a) (setWalkBits a bits loose) := by
  have hs := steps_notedOutsideRam a
  have hnote (u : Byte) : Within (NotedOutsideRam a) (update fun s => s.noteWalk a u) :=
    within_update fun s ha => by rw [State.noteWalk, if_neg ha]; exact steps_notedOnly.refl s
  exact within_bind hs ((readByte_notedOnly a).notedOutsideRam a) fun _ => within_ite (within_pure hs _)
    (within_bind hs ((anyOf_notedOnly _).notedOutsideRam a) fun _ =>
      within_bind hs (writeByte_notedOutsideRam a _) fun _ => hnote _)

/-! ### What looking at memory changes -/

/-- `Looked`, with the canonical form of memory that it keeps. -/
def Looks (s t : State) : Prop := Memory.wf s.mem = true → Memory.wf t.mem = true ∧ Looked s t

theorem Looked.cr0 {s t : State} (h : Looked s t) : t.cr0 = s.cr0 := by rw [h.1]

theorem steps_looks : Steps Looks where
  refl _ hwf := ⟨hwf, rfl, fun _ => rfl, fun _ => rfl⟩
  trans h k hwf := by
    obtain ⟨hwf1, h1⟩ := h hwf
    obtain ⟨hwf2, h2⟩ := k hwf1
    have hcr0 := h1.cr0
    obtain ⟨hrest1, hbits1, hflat1⟩ := h1
    obtain ⟨hrest2, hbits2, hflat2⟩ := h2
    exact ⟨hwf2, hrest2.trans (by rw [hrest1]), fun a => (hbits2 a).trans (hbits1 a),
      fun hpg => (hflat2 (by rw [hcr0, hpg])).trans (hflat1 hpg)⟩

theorem NotedOnly.looks {s t : State} (h : NotedOnly s t) : Looks s t := by
  intro hwf
  rw [h]
  exact ⟨hwf, rfl, fun _ => rfl, fun _ => rfl⟩

/-- `Looks` where paging is on. -/
def LooksPaged (s t : State) : Prop := s.cr0.pg = true → Looks s t

theorem steps_looksPaged : Steps LooksPaged where
  refl s _ := steps_looks.refl s
  trans h k hpg hwf :=
    have hcr0 := (h hpg hwf).2.cr0
    steps_looks.trans (h hpg) (k (by rw [hcr0, hpg])) hwf

theorem Within.looksPaged {α : Type} {m : M α} (hm : Within NotedOnly m) : Within LooksPaged m :=
  fun s _ => (hm s).looks

theorem Memory.wf_walkMem {s : State} (h : Memory.wf s.mem = true) (a : Nat) (bits loose : Byte) :
    Memory.wf (s.walkMem a bits loose) = true := by
  unfold State.walkMem
  split
  · exact h
  · exact Memory.wf_set h _ _

/-- The page walker changes no bit that it is not told to set. -/
theorem State.get_walkMem_and {s : State} {a : Nat} {bits loose keep : Byte} (hwf : Memory.wf s.mem = true)
    (hbits : bits &&& keep = 0) (hloose : loose &&& keep = 0) (x : Nat) :
    Memory.get (s.walkMem a bits loose) x &&& keep = Memory.get s.mem x &&& keep := by
  unfold State.walkMem
  split
  · rfl
  · by_cases hx : x = a
    · subst hx
      rw [Memory.get_set_same hwf]
      generalize Memory.get s.mem x = b
      have hfree : s.fresh.setWidth 8 &&& (loose &&& ~~~b) &&& keep = 0 := by
        rw [BitVec.and_comm loose, ← BitVec.and_assoc, BitVec.and_assoc _ loose, hloose]
        exact BitVec.and_zero
      rw [BitVec.and_or_distrib_right, BitVec.and_or_distrib_right, hbits, hfree]
      simp
    · rw [Memory.get_set_other _ _ hx]

theorem setWalkBits_looksPaged (a : Nat) {bits loose : Byte} (hbits : bits &&& settled = 0) (hloose : loose &&& settled = 0) :
    Within LooksPaged (setWalkBits a bits loose) := by
  intro s hpg
  by_cases hram : s.kindAt a = .ram
  · obtain ⟨t, ht, hwalked⟩ := setWalkBits_of_ram hram bits loose
    rw [ht]
    intro hwf
    rw [endState_ok, hwalked]
    exact ⟨Memory.wf_walkMem hwf a bits loose, rfl, State.get_walkMem_and hwf hbits hloose,
      fun hoff => absurd hpg (by rw [hoff]; decide)⟩
  · exact (setWalkBits_notedOutsideRam a bits loose s hram).looks

theorem walkTables_looksPaged (lin : Word32) (write user : Bool) : Within LooksPaged (walkTables lin write user) := by
  have hs := steps_looksPaged
  have hfault (present : Bool) := (raisePageFault_notedOnly (α := TlbEntry) lin present write user).looksPaged
  have hpage : (if write then 0x60 else 0x20 : Byte) &&& settled = 0 := by cases write <;> decide
  exact within_bind hs (within_reads hs _) fun pdeA => within_bind hs (physRead32_notedOnly pdeA).looksPaged fun _ =>
    within_ite (hfault false) (within_bind hs (setWalkBits_looksPaged pdeA (by decide) (by decide)) fun _ =>
      within_bind hs (physRead32_notedOnly _).looksPaged fun _ => within_ite (hfault false)
        (within_bind hs (checkRights_notedOnly _ _ _ _).looksPaged fun _ =>
          within_bind hs (setWalkBits_looksPaged _ hpage (by decide)) fun _ =>
            within_bind hs (fillTlb_notedOnly _).looksPaged fun _ => within_pure hs _))


/-! ### The choice between the TLB and the tables -/

/-- The physical address that a walk of the tables gives. -/
def walkedAddress (lin : Word32) (write user : Bool) : M Nat := do
  let e ← walkTables lin write user
  pure (frameAddress e.frame lin)

/-- The physical address that a held entry of the TLB gives, its rights being tested. -/
def heldAddress (e : TlbEntry) (lin : Word32) (write user : Bool) : M Nat := do
  checkRights e.rights lin write user
  pure (frameAddress e.frame lin)

section Translate

variable {s : State} {lin : Word32} {write user : Bool} (hpg : s.cr0.pg = true)
include hpg

theorem translate_of_not_held (h : s.tlbFind lin = none) : translate lin write user s = walkedAddress lin write user s := by
  rw [translate, bind_of_ok (get_apply s)]
  simp only [hpg, h, Bool.not_true, Bool.false_eq_true, if_false]
  rfl

/-- A write through an entry that is not dirty walks the tables. -/
theorem translate_of_clean {e : TlbEntry} (h : s.tlbFind lin = some e) (hclean : (write && !e.dirty) = true) :
    translate lin write user s = walkedAddress lin write user s := by
  rw [translate, bind_of_ok (get_apply s)]
  simp only [hpg, h, hclean, Bool.not_true, Bool.false_eq_true, Bool.true_or, if_false, if_true]
  rfl

/-- Where a held entry can serve, it does so if it agrees with the tables, and else a free value chooses. -/
theorem translate_of_held {e : TlbEntry} (h : s.tlbFind lin = some e) (hclean : (write && !e.dirty) = false) :
    translate lin write user s =
      if s.tlbAgrees e lin write then heldAddress e lin write user s
      else if bitAt s.fresh 0 then walkedAddress lin write user s.drawn
      else heldAddress e lin write user s.drawn := by
  rw [translate, bind_of_ok (get_apply s)]
  simp only [hpg, h, hclean, Bool.not_true, Bool.false_eq_true, Bool.false_or, if_false]
  cases s.tlbAgrees e lin write with
  | true => rfl
  | false =>
    rw [if_neg (by decide), if_neg (by decide), bind_of_ok (draw_apply s), ite_apply]
    rfl

end Translate

theorem translate_looks (lin : Word32) (write user : Bool) : Within Looks (translate lin write user) := by
  intro s
  cases hpg : s.cr0.pg with
  | false => rw [translate_of_not_pg hpg]; exact steps_looks.refl s
  | true =>
    have hs := steps_looksPaged
    have hwalked : Within LooksPaged (walkedAddress lin write user) :=
      within_bind hs (walkTables_looksPaged lin write user) fun _ => within_pure hs _
    have hheld (e : TlbEntry) : Within LooksPaged (heldAddress e lin write user) :=
      within_bind hs (checkRights_notedOnly _ _ _ _).looksPaged fun _ => within_pure hs _
    have hdrawn : Looks s s.drawn := NotedOnly.looks rfl
    cases hfind : s.tlbFind lin with
    | none => rw [translate_of_not_held hpg hfind]; exact hwalked s hpg
    | some e =>
      cases hclean : write && !e.dirty with
      | true => rw [translate_of_clean hpg hfind hclean]; exact hwalked s hpg
      | false =>
        rw [translate_of_held hpg hfind hclean]
        split
        · exact hheld e s hpg
        · split
          · exact steps_looks.trans hdrawn (hwalked s.drawn hpg)
          · exact steps_looks.trans hdrawn (hheld e s.drawn hpg)

/-! ### Accesses through a segment register -/

theorem physicalBytes_looks (lin : Word32) (n : Nat) (write user : Bool) :
    Within Looks (physicalBytes lin n write user) := by
  have hs := steps_looks
  exact within_bind hs (translate_looks _ _ _) fun _ => within_ite (within_pure hs _)
    (within_bind hs (translate_looks _ _ _) fun _ => within_pure hs _)

theorem dataAddresses_looks (r : SegReg) (off : Word32) (n : Nat) (write : Bool) :
    Within Looks (dataAddresses r off n write) := by
  have hs := steps_looks
  have hnote (lin : Word32) : Within Looks (update fun s => s.noteData lin n write) :=
    within_update fun s => NotedOnly.looks (s := s) rfl
  exact within_bind hs (within_linear hs _ _ _ _) fun lin => within_bind hs (within_reads hs _) fun _ =>
    within_bind hs (physicalBytes_looks _ _ _ _) fun _ => within_bind hs (hnote lin) fun _ => within_pure hs _

theorem segRead_looks (r : SegReg) (off : Word32) (n : Nat) : Within Looks (segRead r off n) := by
  have hs := steps_looks
  have hread (ps : List Nat) : Within Looks (readBytes ps) := fun s => (readBytesFrom_notedOnly ps [] s).looks
  exact within_bind hs (dataAddresses_looks _ _ _ _) fun _ => within_bind hs (hread _) fun _ => within_pure hs _

theorem openRm_looks {α : Type} (k : Nat) (e : Rm α) : Within Looks (openRm k e) := by
  have hs := steps_looks
  cases e with
  | reg r => exact within_pure hs _
  | mem m =>
    exact within_bind hs (within_get hs) fun _ => within_bind hs (dataAddresses_looks _ _ _ _) fun _ => within_pure hs _

/-- From a memory in canonical form, a part of an instruction that only looks at memory ends as `Looked` says. -/
theorem Within.looked {α : Type} {m : M α} (hm : Within Looks m) {s t : State} {a : α} (hwf : Memory.wf s.mem = true)
    (h : m s = .ok a t) : Looked s t := by
  have hl := hm s hwf
  rw [h] at hl
  exact hl.2

/-- Settles O50: the addresses, the value and the opening of an operand come from parts that only look at memory. -/
theorem accessesChangeOnlyPageBits : Obligations.AccessesChangeOnlyPageBits := by
  intro r off n s t hwf
  exact ⟨fun w ps h => (dataAddresses_looks r off n w).looked hwf h, fun v h => (segRead_looks r off n).looked hwf h,
    fun k e p h => (openRm_looks k e).looked hwf h⟩

/-! ### Page faults -/

/-- What a part of an instruction gives is a page fault at an address, whose code tells the case. -/
def PageFaults {α : Type} (r : EStateM.Result Exc State α) (lin : Word32) (present write user : Bool) : Prop :=
  ∃ (code : Word16) (t : State), r = .error (.pageFault lin code) t
    ∧ code.getLsbD 0 = present ∧ code.getLsbD 1 = write ∧ code.getLsbD 2 = user

/-- The smaller of the two levels' rights forbids an access. -/
def Forbids (rights : BitVec 2) (write user : Bool) : Prop :=
  user = true ∧ (rights.getLsbD 1 = false ∨ (write = true ∧ rights.getLsbD 0 = false))

theorem pageFaultCode_bits (present write user : Bool) (undef : Word16) :
    (pageFaultCode present write user undef).getLsbD 0 = present
      ∧ (pageFaultCode present write user undef).getLsbD 1 = write
      ∧ (pageFaultCode present write user undef).getLsbD 2 = user := by
  refine ⟨?_, ?_, ?_⟩ <;> simp only [pageFaultCode, BitVec.getLsbD_append, BitVec.getLsbD_ofBool] <;> rfl

section Faults

variable {α : Type} {s : State} {lin : Word32} {present write user : Bool}

theorem raisePageFault_faults : PageFaults ((raisePageFault lin present write user : M α) s) lin present write user :=
  ⟨_, _, rfl, pageFaultCode_bits present write user _⟩

theorem PageFaults.bind {β : Type} {x : M α} (h : PageFaults (x s) lin present write user) (f : α → M β) :
    PageFaults ((x >>= f) s) lin present write user := by
  obtain ⟨code, t, hx, hcode⟩ := h
  exact ⟨code, t, bind_of_error hx, hcode⟩

theorem forbids_iff (rights : BitVec 2) (write user : Bool) :
    Forbids rights write user ↔ (user && (!bitAt rights 1 || (write && !bitAt rights 0))) = true := by
  simp [Forbids, bitAt]

theorem checkRights_of_forbids {rights : BitVec 2} (h : Forbids rights write user) :
    PageFaults (checkRights rights lin write user s) lin true write user := by
  rw [checkRights, if_pos ((forbids_iff rights write user).1 h)]
  exact raisePageFault_faults

theorem checkRights_of_not_forbids {rights : BitVec 2} (h : ¬ Forbids rights write user) :
    checkRights rights lin write user s = .ok () s := by
  rw [checkRights, if_neg (mt (forbids_iff rights write user).2 h), pure_apply]

theorem heldAddress_of_forbids {e : TlbEntry} (h : Forbids e.rights write user) :
    PageFaults (heldAddress e lin write user s) lin true write user :=
  (checkRights_of_forbids h).bind _

theorem heldAddress_of_not_forbids {e : TlbEntry} (h : ¬ Forbids e.rights write user) :
    heldAddress e lin write user s = .ok (frameAddress e.frame lin) s := by
  rw [heldAddress, bind_of_ok (checkRights_of_not_forbids h), pure_apply]

end Faults

/-! ### The bits of an entry -/

/-- The low bits of an entry are those of its first byte. -/
theorem bitAt_get32 (m : Memory) (a : Nat) {i : Nat} (hi : i < 8) :
    bitAt (Memory.get32 m a) i = (Memory.get m a).getLsbD i := by
  simp only [bitAt, Memory.get32, ofBytes_cons, BitVec.getLsbD_ofNat, Nat.add_comm (Memory.get m a).toNat]
  rw [show 256 = 2 ^ 8 from rfl, Nat.testBit_two_pow_mul_add _ (Memory.get m a).isLt, if_pos hi]
  simp [BitVec.getLsbD, show i < 32 by omega]

theorem and_accessed_iff (b : Byte) : b &&& 0x20 = 0x20 ↔ b.getLsbD 5 = true := by
  revert b; decide

theorem and_walkBits_iff (b : Byte) (write : Bool) :
    b &&& (if write then 0x60 else 0x20) = (if write then 0x60 else 0x20) ↔
      (b.getLsbD 5 && (!write || b.getLsbD 6)) = true := by
  revert b write; decide

theorem clear_dirty_eq (b : Byte) : 0x40 &&& ~~~b = if b.getLsbD 6 then 0 else 0x40 := by
  revert b; decide

/-- What the walk does to a directory entry (22_paging.md R239, R240): it sets A, and where D is clear a free value says whether
D is set too. -/
theorem State.walkMem_table (s : State) (a : Nat) :
    s.walkMem a 0x20 0x40 =
      if bitAt (Memory.get32 s.mem a) 5 then s.mem
      else Memory.set s.mem a (Memory.get s.mem a ||| 0x20
        ||| if bitAt (Memory.get32 s.mem a) 6 then 0 else s.fresh.setWidth 8 &&& 0x40) := by
  simp only [State.walkMem, bitAt_get32 _ _ (show 5 < 8 by decide), bitAt_get32 _ _ (show 6 < 8 by decide),
    and_accessed_iff, clear_dirty_eq]
  congr 3
  split <;> simp

/-- What the walk does to an entry of a page table: it sets A and, on a write, D. -/
theorem State.walkMem_page (s : State) (a : Nat) (write : Bool) :
    s.walkMem a (if write then 0x60 else 0x20) 0 =
      if bitAt (Memory.get32 s.mem a) 5 && (!write || bitAt (Memory.get32 s.mem a) 6) then s.mem
      else Memory.set s.mem a (Memory.get s.mem a ||| if write then 0x60 else 0x20) := by
  simp only [State.walkMem, bitAt_get32 _ _ (show 5 < 8 by decide), bitAt_get32 _ _ (show 6 < 8 by decide),
    and_walkBits_iff]
  congr 2
  simp

/-- The address in the frame of an entry: the low 12 bits of the entry give way to those of the linear address. -/
theorem frameAddress_pageOf (pte lin : Word32) :
    frameAddress (pageOf pte) lin = pte.toNat / 4096 * 4096 + lin.toNat % 4096 := by
  have hlt := pte.isLt
  simp only [frameAddress, pageOf, BitVec.extractLsb'_toNat, Nat.shiftRight_eq_div_pow]
  rw [Nat.mod_eq_of_lt (by omega)]

/-! ### The walk of the tables -/

/-- The entry of the TLB that a walk gives. -/
def walkedEntry (lin pde pte : Word32) (write : Bool) : TlbEntry :=
  { page := pageOf lin, frame := pageOf pte, rights := pageRights pde pte, dirty := write || bitAt pte 6 }

/-- The second half of a walk, from the page table on that a directory entry names. -/
def walkPage (lin pde : Word32) (write user : Bool) : M TlbEntry := do
  let pte ← physRead32 (pteAddress pde lin)
  if !bitAt pte 0 then raisePageFault lin false write user else do
  checkRights (pageRights pde pte) lin write user
  setWalkBits (pteAddress pde lin) (if write then 0x60 else 0x20) 0
  fillTlb (walkedEntry lin pde pte write)
  pure (walkedEntry lin pde pte write)

/-- Filling the TLB puts the entry at its front. -/
theorem fillTlb_apply (e : TlbEntry) (s : State) :
    ∃ (rest : List TlbEntry) (n : Nat), fillTlb e s = .ok () { s with tlb := e :: rest, draws := n } := by
  rw [fillTlb, bind_of_ok (get_apply s), ite_apply]
  split
  · exact ⟨_, _, rfl⟩
  · exact ⟨_, _, rfl⟩

section Walk

variable {s : State} {lin pde pte : Word32} {write user : Bool} (hmap : s.memMap = [])
include hmap

theorem kindAt_of_memMap_nil (a : Nat) : s.kindAt a = .ram := by simp [State.kindAt, hmap]

theorem physRead32_of_memMap_nil (a : Nat) : physRead32 a s = .ok (Memory.get32 s.mem a) s := by
  rw [physRead32, bind_of_ok (readBytes_of_memory fun b _ => .inl (kindAt_of_memMap_nil hmap b)), pure_apply]
  rfl

section Table

variable (hpde : Memory.get32 s.mem (s.pdeAddress lin) = pde)
include hpde

theorem walkTables_of_absent (h : bitAt pde 0 = false) : PageFaults (walkTables lin write user s) lin false write user := by
  rw [walkTables, bind_of_ok (reads_apply _ s), bind_of_ok (physRead32_of_memMap_nil hmap _), hpde, h]
  exact raisePageFault_faults

/-- Through a directory entry that is present the walk goes on in its page table, the entry's bits being set. -/
theorem walkTables_of_present (h : bitAt pde 0 = true) :
    ∃ t : State, t.memMap = [] ∧ t.mem = s.walkMem (s.pdeAddress lin) 0x20 0x40 ∧ t.tlb = s.tlb
      ∧ walkTables lin write user s = walkPage lin pde write user t := by
  obtain ⟨t, ht, hwalked⟩ := setWalkBits_of_ram (kindAt_of_memMap_nil hmap (s.pdeAddress lin)) 0x20 0x40
  refine ⟨t, by rw [hwalked]; exact hmap, by rw [hwalked], by rw [hwalked], ?_⟩
  rw [walkTables, bind_of_ok (reads_apply _ s), bind_of_ok (physRead32_of_memMap_nil hmap _), hpde, h]
  exact bind_of_ok ht

end Table

section Page

variable (hpte : Memory.get32 s.mem (pteAddress pde lin) = pte)
include hpte

theorem walkPage_of_absent (h : bitAt pte 0 = false) : PageFaults (walkPage lin pde write user s) lin false write user := by
  rw [walkPage, bind_of_ok (physRead32_of_memMap_nil hmap _), hpte, h]
  exact raisePageFault_faults

variable (h : bitAt pte 0 = true)
include h

theorem walkPage_of_forbids (hf : Forbids (pageRights pde pte) write user) :
    PageFaults (walkPage lin pde write user s) lin true write user := by
  rw [walkPage, bind_of_ok (physRead32_of_memMap_nil hmap _), hpte, h]
  exact (checkRights_of_forbids hf).bind _

/-- A walk that nothing stops sets the bits of the page's entry and fills the TLB. -/
theorem walkPage_of_not_forbids (hf : ¬ Forbids (pageRights pde pte) write user) :
    ∃ t, walkPage lin pde write user s = .ok (walkedEntry lin pde pte write) t
      ∧ t.mem = s.walkMem (pteAddress pde lin) (if write then 0x60 else 0x20) 0
      ∧ t.tlbFind lin = some (walkedEntry lin pde pte write)
      ∧ (tlbFits s.tlb = true → tlbFits t.tlb = true) := by
  obtain ⟨u, hu, hwalked⟩ :=
    setWalkBits_of_ram (kindAt_of_memMap_nil hmap (pteAddress pde lin)) (if write then 0x60 else 0x20) 0
  obtain ⟨rest, n, hfill⟩ := fillTlb_apply (walkedEntry lin pde pte write) u
  refine ⟨_, ?_, ?_, ?_, fun hfits => fillTlb_fits hfill ?_⟩
  · rw [walkPage, bind_of_ok (physRead32_of_memMap_nil hmap _), hpte, h]
    exact (bind_of_ok (checkRights_of_not_forbids hf)).trans ((bind_of_ok hu).trans (bind_of_ok hfill))
  · rw [hwalked]
  · simp [State.tlbFind, walkedEntry]
  · rw [hwalked]; exact hfits

end Page

/-! ### The address that a walk gives -/

section WalkedAddress

variable (hpde : Memory.get32 s.mem (s.pdeAddress lin) = pde)
include hpde

theorem walkedAddress_of_absent_table (h : bitAt pde 0 = false) :
    PageFaults (walkedAddress lin write user s) lin false write user :=
  (walkTables_of_absent hmap hpde h).bind _

variable {m : Memory} (hm : s.walkMem (s.pdeAddress lin) 0x20 0x40 = m)
  (hpte : Memory.get32 m (pteAddress pde lin) = pte) (htable : bitAt pde 0 = true)
include hm hpte htable

theorem walkedAddress_of_absent_page (h : bitAt pte 0 = false) :
    PageFaults (walkedAddress lin write user s) lin false write user := by
  obtain ⟨t, hmapT, hmemT, -, ht⟩ := walkTables_of_present (write := write) (user := user) hmap hpde htable
  rw [← hm, ← hmemT] at hpte
  have hfault := walkPage_of_absent (write := write) (user := user) hmapT hpte h
  rw [← ht] at hfault
  exact hfault.bind _

variable (hpage : bitAt pte 0 = true)
include hpage

theorem walkedAddress_of_forbids (h : Forbids (pageRights pde pte) write user) :
    PageFaults (walkedAddress lin write user s) lin true write user := by
  obtain ⟨t, hmapT, hmemT, -, ht⟩ := walkTables_of_present (write := write) (user := user) hmap hpde htable
  rw [← hm, ← hmemT] at hpte
  have hfault := walkPage_of_forbids hmapT hpte hpage h
  rw [← ht] at hfault
  exact hfault.bind _

/-- The walk that nothing stops: the frame of the page's entry, the bits set, and the page in the TLB. -/
theorem walkedAddress_of_not_forbids (h : ¬ Forbids (pageRights pde pte) write user) :
    ∃ t, walkedAddress lin write user s = .ok (frameAddress (pageOf pte) lin) t
      ∧ t.mem = (if bitAt pte 5 && (!write || bitAt pte 6) then m
          else Memory.set m (pteAddress pde lin) (Memory.get m (pteAddress pde lin) ||| if write then 0x60 else 0x20))
      ∧ t.tlbFind lin = some (walkedEntry lin pde pte write)
      ∧ (tlbFits s.tlb = true → tlbFits t.tlb = true) := by
  obtain ⟨u, hmapU, hmemU, htlbU, hu⟩ := walkTables_of_present (write := write) (user := user) hmap hpde htable
  rw [hm] at hmemU
  rw [← hmemU] at hpte
  obtain ⟨t, ht, hmemT, hfind, hfits⟩ := walkPage_of_not_forbids hmapU hpte hpage h
  rw [State.walkMem_page, hpte, hmemU] at hmemT
  rw [htlbU] at hfits
  refine ⟨t, ?_, hmemT, hfind, hfits⟩
  rw [walkedAddress, bind_of_ok (hu.trans ht)]
  rfl

end WalkedAddress

end Walk

/-! ### Translation -/

/-- A held entry serves an access: a write finds it dirty, and it agrees with the tables or a free value lets it be used. -/
def State.Serves (s : State) (e : TlbEntry) (lin : Word32) (write : Bool) : Prop :=
  (write = true → e.dirty = true) ∧ (s.tlbAgrees e lin write = true ∨ bitAt s.fresh 0 = false)

/-- The state in which the tables are walked: a held entry that disagrees with them cost a free value. -/
def State.walkStart (s : State) (lin : Word32) (write : Bool) : State :=
  match s.tlbFind lin with
  | some e => if write && !e.dirty then s else s.drawn
  | none => s

theorem State.walkStart_eq (s : State) (lin : Word32) (write : Bool) :
    s.walkStart lin write = { s with draws := (s.walkStart lin write).draws } := by
  unfold State.walkStart
  split
  · split <;> rfl
  · rfl

theorem dirty_of_write_iff (write dirty : Bool) : (write = true → dirty = true) ↔ (write && !dirty) = false := by
  cases write <;> simp

/-- A held entry is the one that the two levels of entries give, whose bits A and D an access would leave as they are. -/
def TlbEntry.agreesWith (e : TlbEntry) (pde pte : Word32) (write : Bool) : Bool :=
  bitAt pde 0 && bitAt pte 0 && bitAt pde 5 && bitAt pte 5 && (!write || bitAt pte 6)
    && pageOf pte == e.frame && pageRights pde pte == e.rights && bitAt pte 6 == e.dirty

/-- The entry of the page may be read from a memory `m` in which a walk has set A in the directory entry: where A was clear
there, the entry of the TLB disagrees all the same. -/
theorem State.tlbAgrees_eq {s : State} {e : TlbEntry} {lin pde : Word32} {write : Bool} {m : Memory}
    (hpde : Memory.get32 s.mem (s.pdeAddress lin) = pde) (hm : bitAt pde 5 = true → m = s.mem) :
    s.tlbAgrees e lin write = e.agreesWith pde (Memory.get32 m (pteAddress pde lin)) write := by
  simp only [State.tlbAgrees, State.peekEntries, hpde, TlbEntry.agreesWith]
  cases haccessed : bitAt pde 5 with
  | false => cases bitAt pde 0 <;> cases bitAt (Memory.get32 s.mem (pteAddress pde lin)) 0 <;> simp [haccessed]
  | true =>
    rw [hm haccessed]
    cases bitAt pde 0 <;> cases bitAt (Memory.get32 s.mem (pteAddress pde lin)) 0 <;> simp [haccessed]

section Translation

variable {s : State} {lin : Word32} {write user : Bool} (hpg : s.cr0.pg = true)
include hpg

theorem translate_of_serves {e : TlbEntry} (hfind : s.tlbFind lin = some e) (h : s.Serves e lin write) :
    translate lin write user s = heldAddress e lin write user (if s.tlbAgrees e lin write then s else s.drawn) := by
  obtain ⟨hdirty, huse⟩ := h
  rw [translate_of_held hpg hfind ((dirty_of_write_iff write e.dirty).1 hdirty)]
  cases hagrees : s.tlbAgrees e lin write with
  | true => rfl
  | false =>
    have hfresh : bitAt s.fresh 0 = false := huse.resolve_left (by simp [hagrees])
    simp [hfresh]

/-- Where no entry serves, the tables are walked. -/
theorem translate_of_not_serves (h : ∀ e, s.tlbFind lin = some e → ¬ s.Serves e lin write) :
    translate lin write user s = walkedAddress lin write user (s.walkStart lin write) := by
  unfold State.walkStart
  cases hfind : s.tlbFind lin with
  | none => exact translate_of_not_held hpg hfind
  | some e =>
    cases hclean : write && !e.dirty with
    | true => simpa [hclean] using translate_of_clean hpg hfind hclean
    | false =>
      have huse : ¬ (s.tlbAgrees e lin write = true ∨ bitAt s.fresh 0 = false) := fun huse =>
        h e hfind ⟨(dirty_of_write_iff write e.dirty).2 hclean, huse⟩
      simp only [not_or, Bool.not_eq_false] at huse
      obtain ⟨hagrees, hfresh⟩ := huse
      rw [translate_of_held hpg hfind hclean, if_neg hagrees, if_pos hfresh]
      simp [hclean]

end Translation

/-- Settles O51: an entry that serves, with its rights; and else the walk, with each way in which it ends. -/
theorem pageTranslation : Obligations.PageTranslation := by
  refine ⟨fun _ _ _ _ => rfl, ?_⟩
  intro lin write user s hpg hmap _ pdeA pde start d m1 pteA pte rights forbidden faults agrees used
  have hstart : start = { s with draws := start.draws } := s.walkStart_eq lin write
  have hstartMap : start.memMap = [] := by rw [hstart]; exact hmap
  have hpde : Memory.get32 start.mem (start.pdeAddress lin) = pde := by rw [hstart]; rfl
  have hm1 : start.walkMem (start.pdeAddress lin) 0x20 0x40 = m1 := by
    rw [State.walkMem_table, hpde, hstart]; rfl
  have hagrees (e : TlbEntry) : agrees e = s.tlbAgrees e lin write :=
    (State.tlbAgrees_eq (pde := pde) (m := m1) rfl fun haccessed => if_pos haccessed).symm
  have hserves (e : TlbEntry) : used e ↔ s.Serves e lin write := by
    simp only [used, State.Serves, hagrees]
  refine ⟨fun e hfind hused => ?_, fun hunused => ?_⟩
  · have ht := translate_of_serves (user := user) hpg hfind ((hserves e).1 hused)
    rw [← hagrees] at ht
    refine ⟨fun hf => ?_, fun hf => ht.trans (heldAddress_of_not_forbids hf)⟩
    have hfault : PageFaults (translate lin write user s) lin true write user := by
      rw [ht]; exact heldAddress_of_forbids hf
    exact hfault
  · have ht : translate lin write user s = walkedAddress lin write user start :=
      translate_of_not_serves hpg fun e hfind => mt (hserves e).2 (hunused e hfind)
    have hfaults {present : Bool} (h : PageFaults (walkedAddress lin write user start) lin present write user) :
        faults present := by
      rw [← ht] at h; exact h
    refine ⟨fun h => hfaults (walkedAddress_of_absent_table hstartMap hpde h),
      fun htable h => hfaults (walkedAddress_of_absent_page hstartMap hpde hm1 rfl htable h),
      fun htable hpage hf => hfaults (walkedAddress_of_forbids hstartMap hpde hm1 rfl htable hpage hf),
      fun htable hpage hf => ?_⟩
    obtain ⟨t, hwalk, hmem, hfind, hfits⟩ := walkedAddress_of_not_forbids hstartMap hpde hm1 rfl htable hpage hf
    rw [frameAddress_pageOf] at hwalk
    rw [hstart] at hfits
    exact ⟨t, ht.trans hwalk, hmem, hfind, hfits⟩

end Sys2Proof.Machine

/-! What an access to memory leaves as it is, instructions that run at the operand size (30_encoding.md R270), and the ports
(40_data_transfer.md R340, 20_memory.md R118). -/

namespace Sys2Proof.Machine

/-! ### What an access leaves as it is -/

/-- `t` is `s` but for what an access to memory can change: the registers, the flags, the modes and the prefixes of the
instruction are those of `s`. -/
def Accessed (s t : State) : Prop :=
  t = { s with mem := t.mem, tlb := t.tlb, stale := t.stale, ioTrace := t.ioTrace, dr6 := t.dr6, draws := t.draws,
               dbgPending := t.dbgPending, cur := { s.cur with walk := t.cur.walk } }

theorem accessRel_accessed : AccessRel Accessed where
  refl _ := rfl
  trans h k := k.trans (by rw [h])
  draws _ := rfl
  device _ _ := rfl
  store _ _ _ := rfl
  walk _ _ := rfl
  tlb _ _ := rfl
  data _ _ _ _ := rfl

section Accessed

variable {s t : State} (h : Accessed s t)
include h

theorem Accessed.protected : t.protected = s.protected := by rw [h]; rfl
theorem Accessed.v86 : t.v86 = s.v86 := by rw [h]; rfl
theorem Accessed.level : t.level = s.level := by rw [h]; rfl
theorem Accessed.sameStack : SameStack s t := by constructor <;> (rw [h]; rfl)

end Accessed

section AccessedOf

variable {s t : State}

/-- A part that completes ends in a state that is related to the one it began in. -/
theorem Within.of_ok {R : State → State → Prop} {α : Type} {m : M α} {a : α} (hm : Within R m) (h : m s = .ok a t) :
    R s t := by
  have hs := hm s
  rwa [h] at hs

theorem segRead_accessed {r : SegReg} {off : Word32} {n v : Nat} (h : segRead r off n s = .ok v t) : Accessed s t :=
  (within_segRead accessRel_accessed r off n).of_ok h

theorem stackRead_accessed {distance n v : Nat} (h : stackRead distance n s = .ok v t) : Accessed s t :=
  (within_stackRead accessRel_accessed distance n).of_ok h

theorem dataAddresses_accessed {r : SegReg} {off : Word32} {n : Nat} {w : Bool} {ps : List Nat}
    (h : dataAddresses r off n w s = .ok ps t) : Accessed s t :=
  (within_dataAddresses accessRel_accessed r off n w).of_ok h

theorem readRm_accessed {n : Nat} {e : Rm Reg} {v : BitVec n} (h : readRm n e s = .ok v t) : Accessed s t := by
  cases e with
  | reg r => cases h; rfl
  | mem m =>
    obtain ⟨_, _, ⟨⟩, h⟩ := bind_eq_ok.1 h
    obtain ⟨_, _, hread, ⟨⟩⟩ := bind_eq_ok.1 h
    exact segRead_accessed hread

end AccessedOf

/-! ### At the operand size -/

/-- An instruction whose meaning at the operand size completes. -/
theorem runInstr_bySize_of_ok {f : Nat → M Unit} {s t : State} (h : f s.osBits s = .ok () t) :
    runInstr (bySize f) s = .next (t.complete s.flags.tf) :=
  runInstr_of_ok ((bySize_apply f s).trans h)

/-- The bytes of an item of the operand size, as the instructions that choose between two sizes write it. -/
theorem State.osBits_div (s : State) : s.osBits / 8 = if s.os32 then 4 else 2 := by
  unfold State.osBits; split <;> rfl

/-! ### Input and output -/

section Ports

variable {s : State} (h : s.ioAllowed = true)
include h

theorem ioSensitive_of_allowed : ioSensitive s = .ok () s := by
  have hc : (s.cr0.pe && decide (s.flags.iopl < s.level)) = false := by
    simpa only [State.ioAllowed, Bool.not_eq_true'] using h
  rw [ioSensitive, bind_of_ok (get_apply s), raiseIf_eq_ok]
  exact ⟨hc, rfl⟩

theorem inputByte_of_allowed (port : Word16) :
    inputByte port s = .ok () ((({ s with ioTrace := .portRead port 1 :: s.ioTrace } : State)).setReg8 .al
      (BitVec.ofNat 8 ((Config.portInput s.ioTrace port 1).toNat % 256 ^ 1))) := by
  rw [inputByte, bind_of_ok (ioSensitive_of_allowed h)]; rfl

theorem inputWord_of_allowed (port : Word16) :
    inputWord port s = .ok () ((({ s with ioTrace := .portRead port (s.osBits / 8) :: s.ioTrace } : State)).setRegN .eax
      (BitVec.ofNat s.osBits ((Config.portInput s.ioTrace port (s.osBits / 8)).toNat % 256 ^ (s.osBits / 8)))) := by
  rw [inputWord, bySize_apply, bind_of_ok (ioSensitive_of_allowed h)]; rfl

theorem outputByte_of_allowed (port : Word16) :
    outputByte port s =
      .ok () { s with ioTrace := .portWrite port 1 ((s.reg8 .al).setWidth 32) :: s.ioTrace } := by
  rw [outputByte, bind_of_ok (ioSensitive_of_allowed h)]; rfl

theorem outputWord_of_allowed (port : Word16) :
    outputWord port s =
      .ok () { s with ioTrace := .portWrite port (s.osBits / 8) ((s.regN s.osBits .eax).setWidth 32) :: s.ioTrace } := by
  rw [outputWord, bySize_apply, bind_of_ok (ioSensitive_of_allowed h)]; rfl

end Ports

/-- Settles O25: where the IOPL test passes, each form of IN and OUT is the access at its port. -/
theorem portFormsComplete : Obligations.PortFormsComplete := by
  intro s imm h
  exact ⟨runInstr_of_ok (inputByte_of_allowed h _), runInstr_of_ok (inputByte_of_allowed h _),
    runInstr_of_ok (inputWord_of_allowed h _), runInstr_of_ok (inputWord_of_allowed h _),
    runInstr_of_ok (outputByte_of_allowed h _), runInstr_of_ok (outputByte_of_allowed h _),
    runInstr_of_ok (outputWord_of_allowed h _), runInstr_of_ok (outputWord_of_allowed h _)⟩

end Sys2Proof.Machine

/-! Moves and exchanges (40_data_transfer.md R323 to R325, R328 to R330): each form by the place or the value that its operand
gives. -/

namespace Sys2Proof.Machine

/-! ### Writing a register after a read -/

section ReadThenSet

variable {α : Type} {x : M α} {s t : State} {a : α}

theorem setRegister_after {n : Nat} (h : x s = .ok a t) (r : Reg) (f : α → BitVec n) :
    (x >>= fun v => setRegister r (f v)) s = .ok () (t.setRegN r (f a)) :=
  bind_of_ok h

theorem setRegister8_after (h : x s = .ok a t) (r : Reg8) (f : α → Byte) :
    (x >>= fun v => setRegister8 r (f v)) s = .ok () (t.setReg8 r (f a)) :=
  bind_of_ok h

/-- The operand size of the destination is taken after the source was read. -/
theorem setRegister_bySize_after (h : x s = .ok a t) (r : Reg) (f : (n : Nat) → α → BitVec n) :
    (x >>= fun v => bySize fun n => setRegister r (f n v)) s = .ok () (t.setRegN r (f t.osBits a)) :=
  (bind_of_ok h).trans (bySize_apply _ t)

end ReadThenSet

/-! ### Direct offsets -/

theorem readDirect_of_segRead {off : Word32} {n v : Nat} {s t : State} (h : segRead s.dataSegment off (n / 8) s = .ok v t) :
    readDirect n off s = .ok (BitVec.ofNat n v) t :=
  bind_of_ok h

theorem writeDirect_of_dataAddresses {n : Nat} {off : Word32} {s t : State} {ps : List Nat} (v : BitVec n)
    (h : dataAddresses s.dataSegment off (n / 8) true s = .ok ps t) :
    writeDirect off v s = .ok () (t.afterWriting ps (toBytes (n / 8) v.toNat)) :=
  segWrite_of_dataAddresses _ h

theorem toBytes_byte (v : Byte) : toBytes 1 v.toNat = [v] := by simp [toBytes]

/-! ### MOV, MOVZX, MOVSX -/

theorem exec_mov_of_openRm8 {e : Rm Reg8} {s t : State} {p : Place Reg8} (h : openRm 8 e s = .ok p t) (g : Reg8)
    (imm : Byte) :
    exec (.movEbGb e g) s = .next ((p.putByte (s.reg8 g) t).complete s.flags.tf)
      ∧ exec (.movEbIb e imm) s = .next ((p.putByte imm t).complete s.flags.tf) :=
  ⟨runInstr_of_ok ((bind_of_ok (get_apply s)).trans (writeRm8_of_open _ h)), runInstr_of_ok (writeRm8_of_open _ h)⟩

theorem exec_mov_of_openRm {e : Rm Reg} {s t : State} {p : Place Reg} (h : openRm s.osBits e s = .ok p t) (g : Reg)
    (imm : Word32) :
    exec (.movEvGv e g) s = .next ((p.put (s.regN s.osBits g) t).complete s.flags.tf)
      ∧ exec (.movEvIv e imm) s = .next ((p.put (imm.setWidth s.osBits) t).complete s.flags.tf) :=
  ⟨runInstr_bySize_of_ok ((bind_of_ok (get_apply s)).trans (writeRm_of_open _ h)),
    runInstr_bySize_of_ok (writeRm_of_open _ h)⟩

theorem exec_mov_of_readRm8 {e : Rm Reg8} {s t : State} {v : Byte} (h : readRm8 e s = .ok v t) (g8 : Reg8) (g : Reg) :
    exec (.movGbEb g8 e) s = .next ((t.setReg8 g8 v).complete s.flags.tf)
      ∧ exec (.movzxGvEb g e) s = .next ((t.setRegN g (v.setWidth t.osBits)).complete s.flags.tf)
      ∧ exec (.movsxGvEb g e) s = .next ((t.setRegN g (v.signExtend t.osBits)).complete s.flags.tf) :=
  ⟨runInstr_of_ok (setRegister8_after h g8 id),
    runInstr_of_ok (setRegister_bySize_after h g fun n w => w.setWidth n),
    runInstr_of_ok (setRegister_bySize_after h g fun n w => w.signExtend n)⟩

theorem exec_extend_of_readRm16 {e : Rm Reg} {s t : State} {v : Word16} (h : readRm 16 e s = .ok v t) (g : Reg) :
    exec (.movzxGvEw g e) s = .next ((t.setRegN g (v.setWidth t.osBits)).complete s.flags.tf)
      ∧ exec (.movsxGvEw g e) s = .next ((t.setRegN g (v.signExtend t.osBits)).complete s.flags.tf) :=
  ⟨runInstr_of_ok (setRegister_bySize_after h g fun n w => w.setWidth n),
    runInstr_of_ok (setRegister_bySize_after h g fun n w => w.signExtend n)⟩

/-- Settles O14: the forms by what they write and where their source comes from: a place, an operand read, an immediate, a
direct offset. -/
theorem moveFormsComplete : Obligations.MoveFormsComplete := by
  refine ⟨fun e g imm s s1 p h => exec_mov_of_openRm8 h g imm, fun e g imm s s1 p h => exec_mov_of_openRm h g imm,
    fun g8 g e s s1 v h => exec_mov_of_readRm8 h g8 g, fun g e s s1 v h => ?_,
    fun g e s s1 v h => exec_extend_of_readRm16 h g, fun r8 r imm8 imm s => ?_, fun off s s1 v => ⟨fun h => ?_, fun h => ?_⟩,
    fun off s s1 ps => ⟨fun h => ?_, fun h => ?_⟩⟩
  · exact runInstr_bySize_of_ok (setRegister_after h g id)
  · exact ⟨runInstr_of_ok rfl, runInstr_bySize_of_ok rfl⟩
  · exact runInstr_of_ok (setRegister8_after (readDirect_of_segRead (n := 8) h) .al id)
  · exact runInstr_bySize_of_ok (setRegister_after (readDirect_of_segRead h) .eax id)
  · rw [← toBytes_byte (s.reg8 .al)]
    exact runInstr_of_ok ((bind_of_ok (get_apply s)).trans (writeDirect_of_dataAddresses (n := 8) _ h))
  · exact runInstr_bySize_of_ok ((bind_of_ok (get_apply s)).trans (writeDirect_of_dataAddresses _ h))

/-! ### XCHG -/

theorem exchange_apply {n : Nat} (g : Reg) (v : BitVec n) (s : State) :
    exchange g v s = .ok (s.regN n g) (s.setRegN g v) := rfl

theorem exchange8_apply (g : Reg8) (v : Byte) (s : State) : exchange8 g v s = .ok (s.reg8 g) (s.setReg8 g v) := rfl

/-- Settles O15: the register takes the operand's value once that was seen, and the operand the register's. -/
theorem exchangeFormsComplete : Obligations.ExchangeFormsComplete :=
  ⟨fun _ g _ _ _ h => runInstr_bySize_of_ok (modifyRm_of_open h (exchange_apply g _ _)),
    fun _ g _ _ _ h => runInstr_of_ok (modifyRm8_of_open h (exchange8_apply g _ _)),
    fun r _ => runInstr_bySize_of_ok (modifyRm_of_open (p := .reg .eax) rfl (exchange_apply r _ _))⟩

end Sys2Proof.Machine

/-! The accumulator and address instructions (40_data_transfer.md R339, R342 to R346), and what the effective address of a
memory operand and its segment are (30_encoding.md R275, R278 to R280). -/

namespace Sys2Proof.Machine

/-! ### The parts of an effective address -/

/-- The low half of a general register as a number. -/
theorem State.toNat_regN_16 (s : State) (r : Reg) : (s.regN 16 r).toNat = (s.reg r).toNat % 65536 :=
  BitVec.toNat_setWidth ..

/-- The sum of the registers of a 16-bit form, before it is taken modulo 2^16 (30_encoding.md R279). -/
def State.base16Sum (s : State) (b : Base16) : Nat :=
  let word (r : Reg) : Nat := (s.reg r).toNat % 65536
  match b with
  | .bxSi => word .ebx + word .esi
  | .bxDi => word .ebx + word .edi
  | .bpSi => word .ebp + word .esi
  | .bpDi => word .ebp + word .edi
  | .si => word .esi
  | .di => word .edi
  | .bp => word .ebp
  | .bx => word .ebx

theorem State.toNat_base16 (s : State) (b : Base16) : (s.base16 b).toNat = s.base16Sum b % 2 ^ 16 := by
  cases b <;> simp [State.base16, State.base16Sum, State.toNat_regN_16]

theorem State.toNat_ea_based16 (s : State) (b : Base16) (d : Disp16) :
    (s.ea (.based16 b d)).toNat = (s.base16Sum b + (disp16Value d).toNat) % 2 ^ 16 := by
  rw [State.ea, BitVec.toNat_setWidth_of_le (by decide), BitVec.toNat_add, State.toNat_base16, Nat.mod_add_mod]

/-- The scaled index before it is taken modulo 2^32: none where the register is ESP (30_encoding.md R280). -/
def State.indexProduct (s : State) (k : BitVec 2) (x : Reg) : Nat :=
  if x = .esp then 0 else (s.reg x).toNat * 2 ^ k.toNat

theorem State.toNat_scaledIndex (s : State) (k : BitVec 2) (x : Reg) :
    (s.scaledIndex k x).toNat = s.indexProduct k x % 2 ^ 32 := by
  unfold State.scaledIndex State.indexProduct
  split
  · rfl
  · rw [BitVec.toNat_shiftLeft, Nat.shiftLeft_eq]

theorem State.toNat_ea_sib (s : State) (k : BitVec 2) (x r : Reg) (d : Disp32) :
    (s.ea (.sib k x r d)).toNat = ((s.reg r).toNat + s.indexProduct k x + (disp32Value d).toNat) % 2 ^ 32 := by
  rw [State.ea, BitVec.toNat_add, BitVec.toNat_add, State.toNat_scaledIndex, Nat.add_mod_mod, Nat.mod_add_mod]

theorem State.toNat_ea_sibNoBase (s : State) (k : BitVec 2) (x : Reg) (d : Word32) :
    (s.ea (.sibNoBase k x d)).toNat = (s.indexProduct k x + d.toNat) % 2 ^ 32 := by
  rw [State.ea, BitVec.toNat_add, State.toNat_scaledIndex, Nat.mod_add_mod]

/-! ### The segment of a memory operand -/

/-- The base of a memory operand is BP, EBP or ESP. -/
def basedOnStack : Mem → Bool
  | .based16 b _ => decide (b ∈ [.bpSi, .bpDi, .bp])
  | .based32 r _ => decide (r ∈ [.esp, .ebp])
  | .sib _ _ r _ => decide (r ∈ [.esp, .ebp])
  | .direct16 _ => false
  | .direct32 _ => false
  | .sibNoBase _ _ _ => false

theorem defaultSegment_eq (m : Mem) : defaultSegment m = if basedOnStack m then .ss else .ds := by
  cases m with
  | direct16 _ | direct32 _ | sibNoBase _ _ _ => rfl
  | based16 b _ => cases b <;> rfl
  | based32 r _ | sib _ _ r _ => simp [defaultSegment, basedOnStack]

theorem State.segments_of_override {s : State} {r : SegReg} (h : s.cur.seg = some r) (m : Mem) :
    s.dataSegment = r ∧ s.memSegment m = r := by
  simp [State.dataSegment, State.memSegment, h]

theorem State.segments_of_no_override {s : State} (h : s.cur.seg = none) (m : Mem) :
    s.dataSegment = .ds ∧ s.memSegment m = if basedOnStack m then .ss else .ds := by
  simp [State.dataSegment, State.memSegment, h, defaultSegment_eq]

/-! ### The accumulator -/

/-- Eight bits appended to a bit vector are its low byte. -/
theorem setWidth_append_bits {n : Nat} (high : BitVec n) (b7 b6 b5 b4 b3 b2 b1 b0 : BitVec 1) :
    (high ++ b7 ++ b6 ++ b5 ++ b4 ++ b3 ++ b2 ++ b1 ++ b0).setWidth (1 + 1 + 1 + 1 + 1 + 1 + 1 + 1) =
      b7 ++ b6 ++ b5 ++ b4 ++ b3 ++ b2 ++ b1 ++ b0 := by
  have hb7 : (high ++ b7).setWidth 1 = b7 := by simp [BitVec.setWidth_append]
  simp only [BitVec.setWidth_append_of_eq, BitVec.setWidth_eq, hb7]

/-- The low byte of the image of the flags. -/
theorem Flags.image_low_byte (f : Flags) (reserved : BitVec 14) :
    (f.image reserved).setWidth 8 =
      BitVec.ofBool f.sf ++ BitVec.ofBool f.zf ++ 0#1 ++ BitVec.ofBool f.af ++ 0#1 ++ BitVec.ofBool f.pf ++ 1#1
        ++ BitVec.ofBool f.cf :=
  setWidth_append_bits ..

/-- A double word written at full size replaces the register. -/
theorem State.setRegN_32 (s : State) (r : Reg) (v : Word32) : s.setRegN r v = s.setReg r v := by
  simp [State.setRegN, insertLow]

theorem State.regN_8_eax (s : State) : s.regN 8 .eax = s.reg8 .al := by
  simp [State.regN, State.reg8, wholeOf, shiftOf, BitVec.setWidth_eq_extractLsb']

theorem extendAccumulator_apply (s : State) :
    extendAccumulator s = .ok () (if s.os32 then s.setReg .eax (((s.reg .eax).setWidth 16).signExtend 32)
      else s.setRegN .eax ((s.reg8 .al).signExtend 16)) := by
  rw [extendAccumulator, bind_of_ok (get_apply s), ite_apply]
  split
  · rw [← State.setRegN_32]; rfl
  · rw [State.regN_8_eax]; rfl

theorem translateByte_of_segRead {s t : State} {v : Nat}
    (h : segRead s.dataSegment (sized s.as32 (s.reg .ebx + (s.reg8 .al).setWidth 32)) 1 s = .ok v t) :
    translateByte s = .ok () (t.setReg8 .al (BitVec.ofNat 8 v)) :=
  bind_of_ok h

/-- Settles O16: each instruction's result, the effective address form by form, and its segment. -/
theorem accumulatorFormsComplete : Obligations.AccumulatorFormsComplete := by
  intro s g m n f ah
  refine ⟨runInstr_bySize_of_ok rfl, fun s1 v h => runInstr_of_ok (translateByte_of_segRead h), ?_, runInstr_of_ok rfl,
    runInstr_of_ok (extendAccumulator_apply s), runInstr_bySize_of_ok rfl, ?_, ?_⟩
  · rw [← Flags.image_low_byte f 0]
    exact runInstr_of_ok rfl
  · intro word sum disp16 disp32 index
    have h16 (d : Disp16) : disp16 d = (disp16Value d).toNat := by cases d <;> rfl
    have h32 (d : Disp32) : disp32 d = (disp32Value d).toNat := by cases d <;> rfl
    refine ⟨fun d => BitVec.toNat_setWidth_of_le (by decide), fun b d => ?_, fun d => rfl, fun r d => ?_, fun k x r d => ?_,
      s.toNat_ea_sibNoBase⟩
    · have hsum : sum b = s.base16Sum b := by cases b <;> rfl
      rw [h16, hsum, State.toNat_ea_based16]
    · rw [h32]; exact BitVec.toNat_add ..
    · rw [h32]; exact s.toNat_ea_sib k x r d
  · intro inStack
    have hstack : inStack = basedOnStack m := by cases m <;> rfl
    rw [hstack]
    exact ⟨fun h => State.segments_of_no_override h m, fun r h => State.segments_of_override h m⟩

end Sys2Proof.Machine

/-! Segment registers (40_data_transfer.md R322, R326, R327, R334, R341): what a load does in each mode
(21_segmentation_protection.md R156, R200, R201), the instructions that make one, and where a descriptor lies (R152, R153). -/

namespace Sys2Proof.Machine

/-! ### Where a descriptor lies -/

/-- The distance of a selector's descriptor from the base of its table. -/
def descOffset (sel : Word16) : Nat := (sel.extractLsb' 3 13 : BitVec 13).toNat * 8

/-- The base of the table that a selector names. -/
def State.tableBase (s : State) (sel : Word16) : Word32 := if sel.getLsbD 2 then s.ldtr.base else s.gdtr.base

/-- The 8 bytes of a selector's descriptor are inside its table. -/
def State.tableHolds (s : State) (sel : Word16) : Prop :=
  if sel.getLsbD 2 then s.ldtr.valid = true ∧ descOffset sel + 7 ≤ s.ldtr.limit.toNat
  else descOffset sel + 7 ≤ s.gdtr.limit.toNat

/-- A selector without its RPL and table indicator is 8 times its index. -/
theorem toNat_selector_index (sel : Word16) : ((sel &&& 0xFFF8).setWidth 32 : Word32).toNat = descOffset sel := by
  have hmask : ∀ i, (h : i < 16) → (0xFFF8#16)[i] = decide (3 ≤ i) := by decide
  have hshift : (sel &&& 0xFFF8 : Word16) = sel >>> 3 <<< 3 := by
    ext i hi
    by_cases hlow : 3 ≤ i
    · simp [hmask i hi, hlow, BitVec.getLsbD_eq_getElem hi]
    · simp [hmask i hi, hlow]
  have hsel := sel.isLt
  rw [hshift, BitVec.toNat_setWidth_of_le (by decide), descOffset, BitVec.extractLsb'_toNat]
  simp only [BitVec.toNat_shiftLeft, BitVec.toNat_ushiftRight, Nat.shiftLeft_eq, Nat.shiftRight_eq_div_pow]
  omega

theorem State.descAddress_of_holds {s : State} {sel : Word16} (h : s.tableHolds sel) :
    s.descAddress sel = some (s.tableBase sel + BitVec.ofNat 32 (descOffset sel)) := by
  have hoffset : BitVec.ofNat 32 (descOffset sel) = (sel &&& 0xFFF8).setWidth 32 := by
    rw [← toNat_selector_index, BitVec.ofNat_toNat, BitVec.setWidth_eq]
  unfold State.tableHolds at h
  unfold State.descAddress State.tableBase
  simp only [toNat_selector_index, hoffset, bitAt]
  cases hti : sel.getLsbD 2 <;> simp_all

theorem State.descAddress_of_not_holds {s : State} {sel : Word16} (h : ¬ s.tableHolds sel) : s.descAddress sel = none := by
  unfold State.tableHolds at h
  unfold State.descAddress
  simp only [toNat_selector_index, bitAt]
  cases hti : sel.getLsbD 2 <;> simp_all

theorem readDesc_of_not_holds {s : State} {sel : Word16} (h : ¬ s.tableHolds sel) (bad : Word16 → Exc) :
    readDesc sel bad s = .error (bad (selectorCode sel)) s := by
  rw [readDesc, bind_of_ok (get_apply s), State.descAddress_of_not_holds h]; rfl

/-- A descriptor inside its table is read there, with supervisor rights. -/
theorem readDesc_of_holds {s : State} {sel : Word16} (h : s.tableHolds sel) (bad : Word16 → Exc) :
    readDesc sel bad s =
      (do let v ← sysRead (s.tableBase sel + BitVec.ofNat 32 (descOffset sel)) 8; pure (BitVec.ofNat 64 v) : M Desc) s := by
  rw [readDesc, bind_of_ok (get_apply s), State.descAddress_of_holds h]

theorem readDesc_accessed {sel : Word16} {bad : Word16 → Exc} {s t : State} {d : Desc} (h : readDesc sel bad s = .ok d t) :
    Accessed s t := by
  obtain ⟨_, _, ⟨⟩, h⟩ := bind_eq_ok.1 h
  cases ha : s.descAddress sel with
  | none => rw [ha] at h; cases h
  | some a =>
    rw [ha] at h
    obtain ⟨v, t, hread, ⟨⟩⟩ := bind_eq_ok.1 h
    exact (within_sysRead accessRel_accessed a 8).of_ok hread

/-! ### What follows a test -/

section Tests

variable {α : Type} {c : Bool} {e : Exc} {f : Unit → M α} {s : State}

theorem raiseIf_bind_of_true (h : c = true) : (raiseIf c e >>= f) s = .error e s :=
  bind_of_error (by rw [raiseIf_apply, if_pos h])

theorem raiseIf_bind_of_false (h : c = false) : (raiseIf c e >>= f) s = f () s :=
  bind_of_ok (raiseIf_eq_ok.2 ⟨h, rfl⟩)

/-- What would end in the event of the test itself does so whether the test passes or not. -/
theorem raiseIf_bind_of_same_error (h : f () s = .error e s) : (raiseIf c e >>= f) s = .error e s := by
  cases c with
  | true => exact raiseIf_bind_of_true rfl
  | false => exact (raiseIf_bind_of_false rfl).trans h

end Tests

/-! ### The descriptor of a stack segment -/

section CheckStackDesc

variable {sel : Word16} {level : BitVec 2} {d : Desc}

theorem checkStackDesc_of_unfit (h : ¬ (d.isWritable = true ∧ rpl sel = level ∧ d.dpl = level)) (bad : Word16 → Exc)
    (s : State) : checkStackDesc sel level bad d s = .error (bad (selectorCode sel)) s := by
  have htest : (d.isWritable && rpl sel == level && d.dpl == level) = false :=
    Bool.eq_false_iff.2 fun hc => h (by simpa [and_assoc] using hc)
  exact raiseIf_bind_of_true (by rw [htest]; rfl)

variable (hfits : d.isWritable = true ∧ rpl sel = level ∧ d.dpl = level)
include hfits

theorem checkStackDesc_of_fits (bad : Word16 → Exc) (s : State) :
    checkStackDesc sel level bad d s =
      (raiseIf (!d.present) (.ss (selectorCode sel)) >>= fun _ => pure d : M Desc) s := by
  obtain ⟨hw, hrpl, hdpl⟩ := hfits
  exact raiseIf_bind_of_false (by simp [hw, hrpl, hdpl])

theorem checkStackDesc_of_absent (h : d.present = false) (bad : Word16 → Exc) (s : State) :
    checkStackDesc sel level bad d s = .error (.ss (selectorCode sel)) s := by
  rw [checkStackDesc_of_fits hfits, raiseIf_bind_of_true (by rw [h]; rfl)]

theorem checkStackDesc_of_present (h : d.present = true) (bad : Word16 → Exc) (s : State) :
    checkStackDesc sel level bad d s = .ok d s := by
  rw [checkStackDesc_of_fits hfits, raiseIf_bind_of_false (by rw [h]; rfl), pure_apply]

end CheckStackDesc

/-! ### A load outside protected mode -/

theorem loadSegment_of_not_protected {s : State} (h : s.protected = false) (r : SegReg) (sel : Word16) :
    loadSegment r sel s = .ok () (s.setSeg r (SegCache.real sel (if s.v86 then 3 else 0))) := by
  rw [loadSegment, bind_of_ok (get_apply s), ite_apply, if_pos (by rw [h]; rfl)]; rfl

/-- Outside protected mode a stack segment says nothing of the stack's size. -/
theorem sameStack_setSeg_of_not_protected {s : State} (h : s.protected = false) (r : SegReg) (c : SegCache) :
    SameStack s (s.setSeg r c) := by
  have hmode : (s.setSeg r c).protected = false := h
  have hnew : (s.setSeg r c).stack32 = false := by rw [State.stack32, hmode, Bool.false_and]
  have hold : s.stack32 = false := by rw [State.stack32, h, Bool.false_and]
  have hsize : (s.setSeg r c).stack32 = s.stack32 := hnew.trans hold.symm
  exact ⟨hsize, by rw [State.sp, State.sp, hsize]; rfl⟩

/-! ### A load in protected mode -/

section Protected

variable {s : State} {r : SegReg} {sel : Word16} (hp : s.protected = true)
include hp

theorem loadSegment_of_protected :
    loadSegment r sel s =
      (if r = .ss then (do
          raiseIf (isNull sel) (.gp 0)
          let d ← checkStackSegment sel s.level .gp
          markAccessed sel d
          setSegment .ss (d.cache sel))
        else if isNull sel then setSegment r ((s.seg r).null sel) else loadDataSegment r sel .gp) s := by
  rw [loadSegment, bind_of_ok (get_apply s), ite_apply, if_neg (by simp [hp])]

theorem loadSegment_null (hr : r ≠ .ss) (hn : isNull sel = true) :
    loadSegment r sel s = .ok () (s.setSeg r ((s.seg r).null sel)) := by
  rw [loadSegment_of_protected hp, if_neg hr, if_pos hn]; rfl

theorem loadSegment_ss_null (hn : isNull sel = true) : loadSegment .ss sel s = .error (.gp 0) s := by
  rw [loadSegment_of_protected hp, if_pos rfl, raiseIf_bind_of_true hn]

variable (hn : isNull sel = false) {d : Desc} {t : State} (hd : readDesc sel .gp s = .ok d t)
include hn hd

section Data

variable (hr : r ≠ .ss)
include hr

theorem loadSegment_of_readDesc :
    loadSegment r sel s = (do
      raiseIf (!d.isReadable) (.gp (selectorCode sel))
      raiseIf (!d.isConforming && d.dpl < weaker s.level (rpl sel)) (.gp (selectorCode sel))
      raiseIf (!d.present) (.np (selectorCode sel))
      markAccessed sel d
      setSegment r (d.cache sel)) t := by
  rw [loadSegment_of_protected hp, if_neg hr, if_neg (by simp [hn]), loadDataSegment, bind_of_ok hd,
    bind_of_ok (reads_apply _ t), (readDesc_accessed hd).level]

theorem loadSegment_of_unreadable (h : d.isReadable = false) :
    loadSegment r sel s = .error (.gp (selectorCode sel)) t := by
  rw [loadSegment_of_readDesc hp hn hd hr, raiseIf_bind_of_true (by rw [h]; rfl)]

variable (hread : d.isReadable = true)
include hread

theorem loadSegment_of_invisible (h : ¬ (d.isConforming = true ∨ weaker s.level (rpl sel) ≤ d.dpl)) :
    loadSegment r sel s = .error (.gp (selectorCode sel)) t := by
  have htest : (!d.isConforming && decide (d.dpl < weaker s.level (rpl sel))) = true := by simpa using h
  rw [loadSegment_of_readDesc hp hn hd hr, raiseIf_bind_of_false (by rw [hread]; rfl), raiseIf_bind_of_true htest]

variable (hvisible : d.isConforming = true ∨ weaker s.level (rpl sel) ≤ d.dpl)
include hvisible

theorem loadSegment_of_visible :
    loadSegment r sel s = (do
      raiseIf (!d.present) (.np (selectorCode sel))
      markAccessed sel d
      setSegment r (d.cache sel)) t := by
  have htest : (!d.isConforming && decide (d.dpl < weaker s.level (rpl sel))) = false := by
    rcases hvisible with hc | hlevel
    · simp [hc]
    · simp [BitVec.not_lt.2 hlevel]
  rw [loadSegment_of_readDesc hp hn hd hr, raiseIf_bind_of_false (by rw [hread]; rfl), raiseIf_bind_of_false htest]

theorem loadSegment_of_absent (h : d.present = false) : loadSegment r sel s = .error (.np (selectorCode sel)) t := by
  rw [loadSegment_of_visible hp hn hd hr hread hvisible, raiseIf_bind_of_true (by rw [h]; rfl)]

theorem loadSegment_of_present (h : d.present = true) {u : State} (hmark : markAccessed sel d t = .ok () u) :
    loadSegment r sel s = .ok () (u.setSeg r (d.cache sel)) := by
  rw [loadSegment_of_visible hp hn hd hr hread hvisible, raiseIf_bind_of_false (by rw [h]; rfl), bind_of_ok hmark]; rfl

end Data

theorem loadSegment_ss_of_readDesc :
    loadSegment .ss sel s = (do
      let d ← checkStackDesc sel s.level .gp d
      markAccessed sel d
      setSegment .ss (d.cache sel)) t := by
  have hcheck : checkStackSegment sel s.level .gp s = checkStackDesc sel s.level .gp d t := bind_of_ok hd
  rw [loadSegment_of_protected hp, if_pos rfl, raiseIf_bind_of_false hn, bind_apply, bind_apply, hcheck]

theorem loadSegment_ss_of_unfit (h : ¬ (d.isWritable = true ∧ rpl sel = s.level ∧ d.dpl = s.level)) :
    loadSegment .ss sel s = .error (.gp (selectorCode sel)) t := by
  rw [loadSegment_ss_of_readDesc hp hn hd, bind_of_error (checkStackDesc_of_unfit h .gp t)]

variable (hfits : d.isWritable = true ∧ rpl sel = s.level ∧ d.dpl = s.level)
include hfits

theorem loadSegment_ss_of_absent (h : d.present = false) :
    loadSegment .ss sel s = .error (.ss (selectorCode sel)) t := by
  rw [loadSegment_ss_of_readDesc hp hn hd, bind_of_error (checkStackDesc_of_absent hfits h .gp t)]

theorem loadSegment_ss_of_present (h : d.present = true) {u : State} (hmark : markAccessed sel d t = .ok () u) :
    loadSegment .ss sel s = .ok () (u.setSeg .ss (d.cache sel)) := by
  rw [loadSegment_ss_of_readDesc hp hn hd, bind_of_ok (checkStackDesc_of_present hfits h .gp t), bind_of_ok hmark]; rfl

end Protected

/-! ### The instructions that load a segment register -/

/-- `i`, begun in `s`, loads the segment register `r` with `sel` in the state `s1` that its accesses led to, and makes the
change `fin` after the load. -/
structure LoadsSegment (i : Instr) (r : SegReg) (sel : Word16) (s s1 : State) (fin : State → State) : Prop where
  accessed : Accessed s s1
  ok : ∀ {t : State}, loadSegment r sel s1 = .ok () t → exec i s = .next ((fin t).complete s.flags.tf)
  error : ∀ {x : Exc} {t : State}, loadSegment r sel s1 = .error x t → exec i s = takeExc s t x

/-- Loading a segment register and then changing the state, after what led from `s` to `s1`. -/
theorem LoadsSegment.of_meaning {i : Instr} {r : SegReg} {sel : Word16} {s s1 : State} {fin : State → State} {m : M Unit}
    (ha : Accessed s s1) (hi : exec i s = runInstr m s)
    (hm : m s = (loadSegment r sel >>= fun _ => update fin) s1) : LoadsSegment i r sel s s1 fin where
  accessed := ha
  ok h := hi.trans (runInstr_of_ok (hm.trans (bind_of_ok h)))
  error h := hi.trans (runInstr_of_error (hm.trans (bind_of_error h)))

theorem loadsSegment_mov {e : Rm Reg} {s s1 : State} {sel : Word16} (h : readRm 16 e s = .ok sel s1) (r : SegReg) :
    LoadsSegment (.movSregEw r e) r sel s s1 id where
  accessed := readRm_accessed h
  ok hl := runInstr_of_ok ((bind_of_ok h).trans hl)
  error hl := runInstr_of_error ((bind_of_ok h).trans hl)

theorem loadsSegment_pop {i : Instr} {r : SegReg} {s s1 : State} {v : Nat} (hi : exec i s = runInstr (popSegment r) s)
    (h : stackRead 0 (s.osBits / 8) s = .ok v s1) :
    LoadsSegment i r (BitVec.ofNat 16 v) s s1
      fun t => t.withSp (t.stackOffset (t.sp + BitVec.ofNat 32 (s.osBits / 8))) :=
  .of_meaning (stackRead_accessed h) hi ((bySize_apply _ s).trans (bind_of_ok h))

theorem loadsSegment_pointer {i : Instr} {r : SegReg} {g : Reg} {m : Mem} {s s1 s2 : State} {off sel : Nat}
    (hi : exec i s = runInstr (loadPointer r g m) s)
    (hoff : segRead (s.memSegment m) (s.ea m) (s.osBits / 8) s = .ok off s1)
    (hsel : segRead (s.memSegment m) (sized s.as32 (s.ea m + BitVec.ofNat 32 (s.osBits / 8))) 2 s1 = .ok sel s2) :
    LoadsSegment i r (BitVec.ofNat 16 sel) s s2 fun t => t.setRegN g (BitVec.ofNat s.osBits off) :=
  .of_meaning (accessRel_accessed.trans (segRead_accessed hoff) (segRead_accessed hsel)) hi
    ((bySize_apply _ s).trans ((bind_of_ok (get_apply s)).trans ((bind_of_ok hoff).trans (bind_of_ok hsel))))

/-- Outside protected mode the load takes any selector. -/
theorem LoadsSegment.exec_of_not_protected {i : Instr} {r : SegReg} {sel : Word16} {s s1 : State} {fin : State → State}
    (h : LoadsSegment i r sel s s1 fin) (hp : s.protected = false) :
    exec i s = .next ((fin (s1.setSeg r (SegCache.real sel (if s.v86 then 3 else 0)))).complete s.flags.tf) := by
  rw [← h.accessed.v86]
  exact h.ok (loadSegment_of_not_protected (h.accessed.protected.trans hp) r sel)

/-! ### Storing a segment register -/

theorem selectorItem_of_os32 {s : State} (h : s.os32 = true) (sel : Word16) :
    selectorItem sel s = .ok (insertLow s.fresh sel) s.drawn := by
  rw [selectorItem, bind_of_ok (get_apply s), ite_apply, if_pos h]; rfl

theorem selectorItem_of_not_os32 {s : State} (h : s.os32 = false) (sel : Word16) :
    selectorItem sel s = .ok (sel.setWidth 32) s := by
  rw [selectorItem, bind_of_ok (get_apply s), ite_apply, if_neg (by simp [h])]; rfl

theorem storeSegment_reg (r : Reg) (sr : SegReg) (s : State) :
    storeSegment (.reg r) sr s = .ok () (if s.os32 then s.drawn.setReg r (insertLow s.fresh (s.seg sr).sel)
      else s.setRegN r (s.seg sr).sel) := by
  rw [storeSegment, bind_of_ok (get_apply s)]
  cases h : s.os32 with
  | true => exact bind_of_ok (selectorItem_of_os32 h _)
  | false => exact bind_of_ok (selectorItem_of_not_os32 h _)

/-- Settles O19: the three kinds of load outside protected mode, and the stores to a register and to memory. -/
theorem segmentMovesInRealMode : Obligations.SegmentMovesInRealMode := by
  refine ⟨fun sr e s s1 v _ hp h => (loadsSegment_mov h sr).exec_of_not_protected hp, ?_, ?_,
    fun sr r s => runInstr_of_ok (storeSegment_reg r sr s), fun sr m s s1 p h => ?_⟩
  · intro s s1 v hp h done
    have hdone {i : Instr} {r : SegReg} (hi : exec i s = runInstr (popSegment r) s) : exec i s = done r := by
      have hl := loadsSegment_pop hi h
      have hs := sameStack_setSeg_of_not_protected (hl.accessed.protected.trans hp) r
        (SegCache.real (BitVec.ofNat 16 v) (if s.v86 then 3 else 0))
      rw [hl.exec_of_not_protected hp, hs.stackOffset, hs.sp]
    exact ⟨hdone rfl, hdone rfl, hdone rfl, hdone rfl, hdone rfl⟩
  · intro g m s s1 s2 off sel hp hoff hsel done
    have hdone {i : Instr} {r : SegReg} (hi : exec i s = runInstr (loadPointer r g m) s) : exec i s = done r :=
      (loadsSegment_pointer hi hoff hsel).exec_of_not_protected hp
    exact ⟨hdone rfl, hdone rfl, hdone rfl, hdone rfl, hdone rfl⟩
  · exact runInstr_of_ok ((bind_of_ok (get_apply s)).trans (writeRm_of_open (e := .mem m) _ h))

/-- Settles O20: every instruction that loads a segment register does it as `loadSegment` does, and a descriptor is read at
its place in its table. -/
theorem segmentLoadsInProtectedMode : Obligations.SegmentLoadsInProtectedMode := by
  refine ⟨?_, ?_⟩
  · intro s hp done data stack loads
    have hloads {i : Instr} {r : SegReg} {sel : Word16} {s1 : State} {fin : State → State}
        (h : LoadsSegment i r sel s s1 fin) : loads i r sel s1 fin := by
      have hp1 : s1.protected = true := h.accessed.protected.trans hp
      have hlevel := h.accessed.level
      by_cases hr : r = .ss
      · subst hr
        rw [show loads i .ss sel s1 fin = stack i sel s1 fin from if_pos rfl]
        refine ⟨fun hn => h.error (loadSegment_ss_null hp1 hn), fun hn d s2 hd => ?_⟩
        rw [← hlevel]
        exact ⟨fun hf => h.error (loadSegment_ss_of_unfit hp1 hn hd hf),
          fun hf hpres => h.error (loadSegment_ss_of_absent hp1 hn hd hf hpres),
          fun hf hpres s3 hmark => h.ok (loadSegment_ss_of_present hp1 hn hd hf hpres hmark)⟩
      · rw [show loads i r sel s1 fin = data i r sel s1 fin from if_neg hr]
        refine ⟨fun hn => h.ok (loadSegment_null hp1 hr hn), fun hn d s2 hd => ?_⟩
        rw [← hlevel]
        exact ⟨fun hread => h.error (loadSegment_of_unreadable hp1 hn hd hr hread),
          fun hread hv => h.error (loadSegment_of_invisible hp1 hn hd hr hread hv),
          fun hread hv hpres => h.error (loadSegment_of_absent hp1 hn hd hr hread hv hpres),
          fun hread hv hpres s3 hmark => h.ok (loadSegment_of_present hp1 hn hd hr hread hv hpres hmark)⟩
    refine ⟨fun r e s1 sel _ h => hloads (loadsSegment_mov h r), fun r i s1 v hi h => hloads (loadsSegment_pop ?_ h),
      fun r i g m s1 s2 off sel hi hoff hsel => hloads (loadsSegment_pointer ?_ hoff hsel)⟩
    · simp only [List.mem_cons, Prod.mk.injEq, List.not_mem_nil, or_false] at hi
      rcases hi with ⟨rfl, rfl⟩ | ⟨rfl, rfl⟩ | ⟨rfl, rfl⟩ | ⟨rfl, rfl⟩ | ⟨rfl, rfl⟩ <;> rfl
    · simp only [List.mem_cons, Prod.mk.injEq, List.not_mem_nil, or_false] at hi
      rcases hi with ⟨rfl, rfl⟩ | ⟨rfl, rfl⟩ | ⟨rfl, rfl⟩ | ⟨rfl, rfl⟩ | ⟨rfl, rfl⟩ <;> rfl
  · intro sel bad s k base inside
    refine ⟨fun h => readDesc_of_not_holds h bad, fun h => ⟨fun v t hread => ?_, fun x t hread => ?_⟩⟩
    · rw [readDesc_of_holds h]; exact bind_of_ok hread
    · rw [readDesc_of_holds h]; exact bind_of_error hread

end Sys2Proof.Machine

/-! PUSH, POP, PUSHF and POPF (40_data_transfer.md R331 to R333, R337, R338), given what the stack takes and gives. -/

namespace Sys2Proof.Machine

/-! ### PUSH and POP -/

/-- PUSH of a segment register stores its selector as an item of the operand size. -/
theorem pushSegment_apply (r : SegReg) (s : State) :
    pushSegment r s =
      if s.os32 then push 4 (insertLow s.fresh (s.seg r).sel).toNat s.drawn else push 2 (s.seg r).sel.toNat s := by
  rw [pushSegment, bind_of_ok (get_apply s)]
  cases h : s.os32 with
  | true => exact bind_of_ok (selectorItem_of_os32 h _)
  | false =>
    rw [bind_of_ok (selectorItem_of_not_os32 h _), BitVec.toNat_setWidth_of_le (by decide)]; rfl

/-- Settles O22: each form by the item that it pushes or pops. -/
theorem pushAndPopFormsComplete : Obligations.PushAndPopFormsComplete := by
  refine ⟨fun r s t h => runInstr_bySize_of_ok ((bind_of_ok (get_apply s)).trans h),
    fun imm s t h => runInstr_bySize_of_ok h, fun imm s t h => runInstr_bySize_of_ok h,
    fun e s s1 t v hread h => runInstr_bySize_of_ok ((bind_of_ok hread).trans h),
    fun r s t v h => runInstr_bySize_of_ok (setRegister_after h r (BitVec.ofNat s.osBits)),
    fun e s s1 s2 p v hpop hopen => runInstr_bySize_of_ok ((bind_of_ok hpop).trans (writeRm_of_open _ hopen)),
    fun sr s i hi => ?_⟩
  have hexec : exec i s = runInstr (pushSegment sr) s := by
    simp only [List.mem_cons, Prod.mk.injEq, List.not_mem_nil, or_false] at hi
    rcases hi with ⟨rfl, rfl⟩ | ⟨rfl, rfl⟩ | ⟨rfl, rfl⟩ | ⟨rfl, rfl⟩ | ⟨rfl, rfl⟩ | ⟨rfl, rfl⟩ <;> rfl
  refine ⟨fun hsize t h => ?_, fun hsize t h => ?_⟩
  · exact hexec.trans (runInstr_of_ok (by rw [pushSegment_apply, hsize]; exact h))
  · exact hexec.trans (runInstr_of_ok (by rw [pushSegment_apply, hsize]; exact h))

/-! ### PUSHF and POPF -/

/-- No push, pop or other access changes the flags. -/
theorem stackRel_sameFlags : StackRel fun s t => t.flags = s.flags where
  refl _ := rfl
  trans h k := k.trans h
  draws _ := rfl
  device _ _ := rfl
  store _ _ _ := rfl
  walk _ _ := rfl
  tlb _ _ := rfl
  data _ _ _ _ := rfl
  sp s v := s.withSp_flags v

theorem pop_flags {n v : Nat} {s t : State} (h : pop n s = .ok v t) : t.flags = s.flags :=
  (within_pop stackRel_sameFlags n).of_ok h

section V86Allowed

variable {s : State} (h : s.v86 = true → s.flags.iopl = 3)
include h

theorem v86Sensitive_of_allowed : v86Sensitive s = .ok () s := by
  have hc : (s.v86 && s.flags.iopl != 3) = false := by simpa using h
  rw [v86Sensitive, bind_of_ok (get_apply s), raiseIf_eq_ok]
  exact ⟨hc, rfl⟩

/-- PUSHF past its IOPL test stores the image of the flags without VM and RF. -/
theorem pushFlags_of_allowed :
    pushFlags s =
      let f := { s.flags with vm := false, rf := false }
      if s.os32 then push 4 (f.image (s.fresh.extractLsb' 18 14)).toNat s.drawn
      else push 2 ((f.image 0).setWidth 16).toNat s := by
  rw [pushFlags, bind_of_ok (v86Sensitive_of_allowed h), bind_of_ok (get_apply s), ite_apply]
  rfl

/-- POPF past its IOPL test loads the image that is popped. -/
theorem popFlags_of_allowed {v : Nat} {t : State} (hpop : pop (s.osBits / 8) s = .ok v t) :
    popFlags s =
      .ok () { t with flags := t.flags.load s.level s.os32 (BitVec.ofNat 32 v), cur := { t.cur with keepRf := true } } := by
  rw [State.osBits_div] at hpop
  rw [popFlags, bind_of_ok (v86Sensitive_of_allowed h), bind_of_ok (get_apply s), bind_of_ok hpop]
  rfl

end V86Allowed

/-- Settles O24: the image that PUSHF stores at each size, and the flags that POPF loads. -/
theorem flagPushAndPopComplete : Obligations.FlagPushAndPopComplete := by
  intro s hv
  refine ⟨fun hsize t h => ?_, fun hsize t h => ?_, ?_⟩
  · exact runInstr_of_ok (by rw [pushFlags_of_allowed hv, hsize]; exact h)
  · exact runInstr_of_ok (by rw [pushFlags_of_allowed hv, hsize]; exact h)
  · intro v t h img f
    have hload : t.flags.load s.level s.os32 img = f := by
      simp only [f, ← pop_flags h]
      rfl
    rw [← hload]
    exact runInstr_of_ok (popFlags_of_allowed hv h)

end Sys2Proof.Machine

/-! PUSHA and POPA (40_data_transfer.md R335, R336): the eight checks, the items, and the stack pointers with which a real-mode
PUSHA shuts the processor down or raises vector 13 (60_exceptions.md R641, R672). -/

namespace Sys2Proof.Machine

/-! ### The places of the items -/

/-- The checks of items of `n` bytes at the listed distances from the stack pointer of `s`, one after the other from `u` to
`v`, give the listed physical addresses. -/
inductive StackChecks (s : State) (n : Nat) (write : Bool) : List Word32 → List (List Nat) → State → State → Prop
  | nil (u : State) : StackChecks s n write [] [] u u
  | cons {k : Word32} {ks : List Word32} {ps : List Nat} {pss : List (List Nat)} {u t v : State}
      (check : dataAddresses .ss (s.stackOffset (s.sp + k)) n write u = .ok ps t)
      (rest : StackChecks s n write ks pss t v) : StackChecks s n write (k :: ks) (ps :: pss) u v

theorem steps_sameStack : Steps SameStack := accessRel_sameStack.toSteps

theorem StackChecks.sameStack {s u v : State} {n : Nat} {write : Bool} {ks : List Word32} {pss : List (List Nat)}
    (h : StackChecks s n write ks pss u v) : SameStack u v := by
  induction h with
  | nil u => exact steps_sameStack.refl u
  | cons check _ ih => exact steps_sameStack.trans (dataAddresses_accessed check).sameStack ih

theorem stackPlaces_of_checks {s u v : State} {n : Nat} {write : Bool} {ks : List Word32} {pss : List (List Nat)}
    (h : StackChecks s n write ks pss u v) (hs : SameStack s u) : stackPlaces n write ks u = .ok pss v := by
  induction h with
  | nil u => rfl
  | @cons k ks ps pss u t v check _ ih =>
    have ht := steps_sameStack.trans hs (dataAddresses_accessed check).sameStack
    rw [← hs.stackOffset, ← hs.sp] at check
    rw [stackPlaces, bind_of_ok (get_apply u), bind_of_ok check, bind_of_ok (ih ht), pure_apply]

/-! ### The items -/

theorem writeItems_cons (n : Nat) (ps : List Nat) (pss : List (List Nat)) (v : Nat) (vs : List Nat) (s : State) :
    writeItems n (ps :: pss) (v :: vs) s = writeItems n pss vs (s.afterWriting ps (toBytes n v)) := by
  rw [writeItems, bind_of_ok (writeBytes_ok _ _ s)]

theorem writeItems_nil (n : Nat) (vs : List Nat) (s : State) : writeItems n [] vs s = .ok () s := by cases vs <;> rfl

theorem within_sameStack_writeItems (n : Nat) (pss : List (List Nat)) (vs : List Nat) :
    Within SameStack (writeItems n pss vs) := by
  induction pss generalizing vs with
  | nil => cases vs <;> exact within_pure steps_sameStack _
  | cons ps pss ih =>
    cases vs with
    | nil => exact within_pure steps_sameStack _
    | cons v vs => exact within_bind steps_sameStack (within_writeBytes accessRel_sameStack _ _) fun _ => ih vs

theorem loadItems_some (n : Nat) (ps : List Nat) (pss : List (List Nat)) (r : Reg) (rs : List (Option Reg)) (s : State) :
    loadItems n (ps :: pss) (some r :: rs) s =
      loadItems n pss rs ((s.afterReading ps).setRegN r (BitVec.ofNat n (ofBytes (s.bytesAt ps)))) := by
  rw [loadItems, bind_of_ok (readBytes_ok ps s)]; rfl

/-- An item without a register is read and discarded. -/
theorem loadItems_none (n : Nat) (ps : List Nat) (pss : List (List Nat)) (rs : List (Option Reg)) (s : State) :
    loadItems n (ps :: pss) (none :: rs) s = loadItems n pss rs (s.afterReading ps) := by
  rw [loadItems, bind_of_ok (readBytes_ok ps s)]; rfl

theorem loadItems_nil (n : Nat) (rs : List (Option Reg)) (s : State) : loadItems n [] rs s = .ok () s := by
  cases rs <;> rfl

/-- Writing another register leaves the stack pointer. -/
theorem sameStack_setRegN {n : Nat} (s : State) {r : Reg} (hr : r ≠ .esp) (v : BitVec n) : SameStack s (s.setRegN r v) := by
  refine ⟨rfl, ?_⟩
  have hesp : (s.setRegN r v).reg .esp = s.reg .esp := by rw [State.setRegN, State.reg_setReg, if_neg hr.symm]
  rw [State.sp, State.sp, hesp]; rfl

theorem within_sameStack_loadItems (n : Nat) (pss : List (List Nat)) {rs : List (Option Reg)} (h : some .esp ∉ rs) :
    Within SameStack (loadItems n pss rs) := by
  induction pss generalizing rs with
  | nil => cases rs <;> exact within_pure steps_sameStack _
  | cons ps pss ih =>
    cases rs with
    | nil => exact within_pure steps_sameStack _
    | cons r rs =>
      obtain ⟨hr, hrs⟩ := not_or.1 (mt List.mem_cons.2 h)
      refine within_bind steps_sameStack (within_readBytes accessRel_sameStack _) fun bs =>
        within_bind steps_sameStack ?_ fun _ => ih hrs
      cases r with
      | none => exact within_pure steps_sameStack _
      | some r => exact within_update fun s => sameStack_setRegN s (fun he => hr (by rw [he])) _

/-! ### POPA -/

/-- The registers that POPA loads, in their order; the image of the stack pointer has none. -/
def poppedRegisters : List (Option Reg) :=
  [some .edi, some .esi, some .ebp, none, some .ebx, some .edx, some .ecx, some .eax]

/-- POPA past its checks loads the items and moves the pointer above them. -/
theorem popAllRegisters_of_checks {s t u : State} {pss : List (List Nat)}
    (hchecks : StackChecks s (s.osBits / 8) false
      ([0, 1, 2, 3, 4, 5, 6, 7].map fun k => BitVec.ofNat 32 (k * (s.osBits / 8))) pss s t)
    (hload : loadItems s.osBits pss poppedRegisters t = .ok () u) :
    popAllRegisters s = .ok () (u.withSp (s.stackOffset (s.sp + BitVec.ofNat 32 (8 * (s.osBits / 8))))) := by
  have hu : SameStack t u := (within_sameStack_loadItems s.osBits pss (by decide)).of_ok hload
  have hs := steps_sameStack.trans hchecks.sameStack hu
  rw [popAllRegisters, bySize_apply, bind_of_ok (stackPlaces_of_checks hchecks (steps_sameStack.refl s))]
  exact (bind_of_ok hload).trans (by rw [update_apply, hs.stackOffset, hs.sp])

/-! ### PUSHA -/

theorem State.osBits_eq_32_iff (s : State) : s.osBits = 32 ↔ s.os32 = true := by
  unfold State.osBits; split <;> simp [*]

theorem pushaShutsDown_iff (s : State) (sp : Nat) :
    pushaShutsDown s.osBits sp = true ↔ sp ∈ [7, 9, 11, 13, 15] ∨ (s.os32 = true ∧ sp < 32 ∧ sp % 4 ≠ 0) := by
  rw [← s.osBits_eq_32_iff]
  simp only [pushaShutsDown, Bool.or_eq_true, Bool.and_eq_true, List.contains_iff_mem, beq_iff_eq, bne_iff_ne,
    decide_eq_true_eq, and_assoc]

theorem State.osBits_cases (s : State) : s.osBits = 16 ∨ s.osBits = 32 := by unfold State.osBits; split <;> simp

/-- With room for the eight items PUSHA does not shut down. -/
theorem pushaShutsDown_of_room {s : State} {sp : Nat} (h : s.osBits ≤ sp) : pushaShutsDown s.osBits sp = false := by
  rw [← Bool.not_eq_true, pushaShutsDown_iff, ← s.osBits_eq_32_iff]
  have hbits := s.osBits_cases
  simp only [List.mem_cons, List.not_mem_nil, or_false]
  omega

/-- The items that PUSHA stores, in their order. -/
def State.pushedItems (s : State) : List Nat :=
  let v (r : Reg) : Nat := (s.regN s.osBits r).toNat
  [v .eax, v .ecx, v .edx, v .ebx, s.sp.toNat, v .ebp, v .esi, v .edi]

section Pusha

variable {s : State}

theorem pushAllRegisters_of_shuts (hpe : s.cr0.pe = false) (h : pushaShutsDown s.osBits s.sp.toNat = true) :
    pushAllRegisters s = .error .shutdown s := by
  rw [pushAllRegisters, bySize_apply, bind_of_ok (get_apply s), raiseIf_bind_of_true (by rw [hpe, h]; rfl)]

theorem pushAllRegisters_of_wraps (hpe : s.cr0.pe = false) (h : pushaShutsDown s.osBits s.sp.toNat = false)
    (hwrap : s.sp.toNat < s.osBits) : pushAllRegisters s = .error (.gp 0) s := by
  rw [pushAllRegisters, bySize_apply, bind_of_ok (get_apply s), raiseIf_bind_of_false (by rw [h, Bool.and_false]),
    raiseIf_bind_of_true (by rw [hpe, decide_eq_true hwrap]; rfl)]

/-- PUSHA past its checks stores the items, the stack pointer as it was among them, and moves the pointer below them. -/
theorem pushAllRegisters_of_checks (hroom : s.cr0.pe = true ∨ s.osBits ≤ s.sp.toNat) {t u : State} {pss : List (List Nat)}
    (hchecks : StackChecks s (s.osBits / 8) true
      ([1, 2, 3, 4, 5, 6, 7, 8].map fun k => -BitVec.ofNat 32 (k * (s.osBits / 8))) pss s t)
    (hstore : writeItems (s.osBits / 8) pss s.pushedItems t = .ok () u) :
    pushAllRegisters s = .ok () (u.withSp (s.stackOffset (s.sp - BitVec.ofNat 32 (8 * (s.osBits / 8))))) := by
  have hu : SameStack t u := (within_sameStack_writeItems (s.osBits / 8) pss s.pushedItems).of_ok hstore
  have hs := steps_sameStack.trans hchecks.sameStack hu
  have hshuts : (!s.cr0.pe && pushaShutsDown s.osBits s.sp.toNat) = false := by
    rcases hroom with hpe | hle
    · rw [hpe]; rfl
    · rw [pushaShutsDown_of_room hle, Bool.and_false]
  have hwraps : (!s.cr0.pe && decide (s.sp.toNat < s.osBits)) = false := by
    rcases hroom with hpe | hle
    · rw [hpe]; rfl
    · rw [decide_eq_false (Nat.not_lt.2 hle), Bool.and_false]
  rw [pushAllRegisters, bySize_apply, bind_of_ok (get_apply s), raiseIf_bind_of_false hshuts, raiseIf_bind_of_false hwraps,
    bind_of_ok (stackPlaces_of_checks hchecks (steps_sameStack.refl s))]
  exact (bind_of_ok hstore).trans (by rw [update_apply, hs.stackOffset, hs.sp])

end Pusha

/-! ### A delivery without room on the stack -/

/-- In real mode no event can be delivered where a push of a word shuts down: it is outside the table, or its frame has no
room. -/
theorem deliver_of_pushShutsDown {s : State} (h : s.pushShutsDown 2 = true) (e : Event) :
    deliver e s = .error .shutdown s := by
  obtain ⟨hpe, -⟩ := (pushShutsDown_iff 2 s).1 h
  rw [deliver, bind_of_ok (get_apply s), ite_apply, if_neg (by simp [hpe]), deliverReal, bind_of_ok (get_apply s)]
  exact raiseIf_bind_of_same_error (bind_of_error (bind_of_error (push_of_pushShutsDown h _)))

/-- Where nothing was done, unwinding only makes the latch idle. -/
theorem unwind_self_of_idle {s : State} (h : s.cur = Latch.idle) : unwind s s = s := by
  rw [unwind, h]
  exact congrArg (fun c => { s with cur := c }) h.symm

theorem unwind_self_pushShutsDown (s : State) (n : Nat) : (unwind s s).pushShutsDown n = s.pushShutsDown n := by
  unfold unwind; split <;> rfl

theorem unwind_cur (s t : State) : (unwind s t).cur = Latch.idle := by unfold unwind; split <;> rfl

/-- The delivery of an event that shuts down at once. -/
theorem deliverFrom_of_shutdown {s : State} {e : Event} (hidle : s.cur = Latch.idle) (h : deliver e s = .error .shutdown s)
    (fuel : Nat) : deliverFrom (fuel + 1) s e = .next s.shutDown := by
  rw [deliverFrom, h]
  exact congrArg (fun t : State => Host.Outcome.next t.shutDown) (unwind_self_of_idle hidle)

theorem takeExc_vector_of_pushShutsDown {s : State} (h : s.pushShutsDown 2 = true) (v : Byte) (err : Option Word16) :
    takeExc s s (.vector v err) = .next (unwind s s).shutDown :=
  deliverFrom_of_shutdown (unwind_cur s s) (deliver_of_pushShutsDown (by rw [unwind_self_pushShutsDown, h]) _) 63

/-- Settles O23: PUSHA with room, the pointers that shut it down, those from which it wraps, and the delivery from 1; and
POPA. -/
theorem pushAllAndPopAllComplete : Obligations.PushAllAndPopAllComplete := by
  refine ⟨?_, ?_⟩
  · intro s v shuts b below check
    have hcheck (k : Nat) : check k = dataAddresses .ss (s.stackOffset (s.sp + -BitVec.ofNat 32 (k * b))) b true := by
      simp only [check, below, BitVec.sub_eq_add_neg]
    refine ⟨?_, fun hpe h => ?_, fun hpe h hwrap => ?_, fun hpe _ hsp => ?_⟩
    · intro hroom s1 s2 s3 s4 s5 s6 s7 s8 p1 p2 p3 p4 p5 p6 p7 p8 h1 h2 h3 h4 h5 h6 h7 h8 stored
      rw [hcheck] at h1 h2 h3 h4 h5 h6 h7 h8
      have hchecks := StackChecks.cons h1 <| .cons h2 <| .cons h3 <| .cons h4 <| .cons h5 <| .cons h6 <| .cons h7 <|
        .cons h8 <| .nil s8
      refine runInstr_of_ok (pushAllRegisters_of_checks hroom hchecks ?_)
      simp only [State.pushedItems, writeItems_cons, writeItems_nil]
      rfl
    · exact runInstr_of_error (pushAllRegisters_of_shuts hpe ((pushaShutsDown_iff s _).2 h))
    · have hnot : pushaShutsDown s.osBits s.sp.toNat = false := Bool.eq_false_iff.2 (mt (pushaShutsDown_iff s _).1 h)
      exact runInstr_of_error (pushAllRegisters_of_wraps hpe hnot hwrap)
    · refine takeExc_vector_of_pushShutsDown ((pushShutsDown_iff 2 s).2 ⟨hpe, ?_⟩) _ _
      omega
  · intro s s1 s2 s3 s4 s5 s6 s7 s8 p1 p2 p3 p4 p5 p6 p7 p8 n b above check load h1 h2 h3 h4 h5 h6 h7 h8 u w
    have hchecks := StackChecks.cons (s := s) h1 <| .cons h2 <| .cons h3 <| .cons h4 <| .cons h5 <| .cons h6 <| .cons h7 <|
      .cons h8 <| .nil s8
    refine runInstr_of_ok (popAllRegisters_of_checks hchecks ?_)
    simp only [poppedRegisters, loadItems_some, loadItems_none, loadItems_nil]
    rfl

end Sys2Proof.Machine

/-! The flags of sums, differences and logical results (41_arithmetic.md R370, 10_state.md R42): the model's tests on the most
significant bits say when the exact result leaves the range of the width. -/

namespace Sys2Proof.Machine

/-! ### Results and flags as exact arithmetic -/

section Sums

variable {n : Nat}

theorem toNat_addResult (a b : BitVec n) (c : Bool) :
    (addResult a b c).toNat = (a.toNat + b.toNat + c.toNat) % 2 ^ n := by
  simp [addResult, Nat.add_mod]

theorem natCast_two_pow_ne_zero (n : Nat) : ((2 ^ n : Nat) : Int) ≠ 0 := by
  have hpos := Nat.two_pow_pos n
  omega

theorem toNat_subResult (a b : BitVec n) (c : Bool) :
    ((subResult a b c).toNat : Int) = ((a.toNat : Int) - b.toNat - c.toNat) % 2 ^ n := by
  have hofInt : subResult a b c = BitVec.ofInt n ((a.toNat : Int) - b.toNat - c.toNat) := by
    simp [subResult, BitVec.sub_eq_add_neg, Int.sub_eq_add_neg, BitVec.ofInt_add, BitVec.ofInt_neg]
  rw [hofInt, BitVec.toNat_ofInt, Int.toNat_of_nonneg (Int.emod_nonneg _ (natCast_two_pow_ne_zero n))]
  push_cast
  rfl

/-- A sum, with what the carry out of the width takes from it. -/
theorem toNat_addResult_eq_ite (a b : BitVec n) (c : Bool) :
    ((addResult a b c).toNat : Int) =
      a.toNat + b.toNat + c.toNat - if 2 ^ n ≤ a.toNat + b.toNat + c.toNat then ((2 ^ n : Nat) : Int) else 0 := by
  have hc := c.toNat_lt
  rw [toNat_addResult]
  split
  · next h =>
    rw [Nat.mod_eq_sub_mod h, Nat.mod_eq_of_lt (by omega)]
    omega
  · next h =>
    rw [Nat.mod_eq_of_lt (by omega)]
    omega

/-- A difference, with what the borrow gives to it. -/
theorem toNat_subResult_eq_ite (hn : 0 < n) (a b : BitVec n) (c : Bool) :
    ((subResult a b c).toNat : Int) =
      a.toNat - b.toNat - c.toNat + if a.toNat < b.toNat + c.toNat then ((2 ^ n : Nat) : Int) else 0 := by
  have hc := c.toNat_lt
  have htwo := Nat.one_lt_two_pow (Nat.ne_of_gt hn)
  have hcast : (2 ^ n : Int) = ((2 ^ n : Nat) : Int) := by push_cast; rfl
  rw [toNat_subResult, hcast]
  split
  · next h =>
    rw [← Int.add_emod_right, Int.emod_eq_of_lt (by omega) (by omega)]
  · next h =>
    rw [Int.emod_eq_of_lt (by omega) (by omega)]
    omega

/-- A width of which bit `n - 1` is the sign: the unsigned and the signed value by that bit. -/
theorem toInt_eq_msb_half (hn : 0 < n) (a : BitVec n) :
    2 ^ n = 2 * 2 ^ (n - 1) ∧ a.toNat < 2 * 2 ^ (n - 1) ∧ (a.msb = true ↔ 2 ^ (n - 1) ≤ a.toNat)
      ∧ a.toInt = a.toNat - if 2 ^ (n - 1) ≤ a.toNat then 2 * ((2 ^ (n - 1) : Nat) : Int) else 0 := by
  have hpow : 2 ^ n = 2 * 2 ^ (n - 1) := by rw [← Nat.pow_succ', Nat.succ_eq_add_one, Nat.sub_add_cancel hn]
  have hmsb : a.msb = true ↔ 2 ^ (n - 1) ≤ a.toNat := by rw [BitVec.msb_eq_decide, decide_eq_true_iff]
  refine ⟨hpow, hpow ▸ a.isLt, hmsb, ?_⟩
  simp only [BitVec.toInt_eq_msb_cond, hmsb, hpow]
  split <;> simp

/-- A sum overflows exactly where both operands have one sign and the result has the other. -/
theorem Flags.add_ovf_iff (hn : 0 < n) (f : Flags) (a b : BitVec n) (c : Bool) :
    (f.add a b c).ovf = true ↔ (addResult a b c).toInt ≠ a.toInt + b.toInt + c.toNat := by
  have hovf : (f.add a b c).ovf = true ↔
      (a.msb = true ↔ b.msb = true) ∧ ¬ ((addResult a b c).msb = true ↔ a.msb = true) := by
    rw [← Bool.eq_iff_iff, ← Bool.eq_iff_iff]
    simp [Flags.add]
  have hsum := toNat_addResult_eq_ite a b c
  obtain ⟨hpow, ha, hma, hia⟩ := toInt_eq_msb_half hn a
  obtain ⟨-, hb, hmb, hib⟩ := toInt_eq_msb_half hn b
  obtain ⟨-, hr, hmr, hir⟩ := toInt_eq_msb_half hn (addResult a b c)
  have hc := c.toNat_lt
  rw [hovf, hma, hmb, hmr, hia, hib, hir]
  rw [hpow] at hsum
  omega

/-- A difference overflows exactly where the operands' signs differ and the result has not the sign of the first. -/
theorem Flags.sub_ovf_iff (hn : 0 < n) (f : Flags) (a b : BitVec n) (c : Bool) :
    (f.sub a b c).ovf = true ↔ (subResult a b c).toInt ≠ a.toInt - b.toInt - c.toNat := by
  have hovf : (f.sub a b c).ovf = true ↔
      ¬ (a.msb = true ↔ b.msb = true) ∧ ¬ ((subResult a b c).msb = true ↔ a.msb = true) := by
    rw [← Bool.eq_iff_iff, ← Bool.eq_iff_iff]
    simp [Flags.sub]
  have hdif := toNat_subResult_eq_ite hn a b c
  obtain ⟨hpow, ha, hma, hia⟩ := toInt_eq_msb_half hn a
  obtain ⟨-, hb, hmb, hib⟩ := toInt_eq_msb_half hn b
  obtain ⟨-, hr, hmr, hir⟩ := toInt_eq_msb_half hn (subResult a b c)
  have hc := c.toNat_lt
  rw [hovf, hma, hmb, hmr, hia, hib, hir]
  rw [hpow] at hdif
  omega

end Sums

/-! ### Parity -/

/-- The number of elements of a list that pass a test is even exactly where the exclusive or of the tests is false. -/
theorem countP_even_iff {α : Type} (p : α → Bool) (l : List α) :
    l.countP p % 2 = 0 ↔ (l.foldr (fun k odd => p k ^^ odd) false) = false := by
  induction l with
  | nil => simp
  | cons k l ih =>
    rw [List.countP_cons, List.foldr_cons]
    cases hk : p k <;> cases hl : l.foldr (fun k odd => p k ^^ odd) false <;> simp [hl] at ih ⊢ <;> omega

theorem evenParity_iff (b : Byte) : evenParity b = true ↔ ((List.range 8).countP fun k => bitAt b k) % 2 = 0 := by
  have hrange : List.range 8 = [0, 1, 2, 3, 4, 5, 6, 7] := rfl
  simp only [countP_even_iff, evenParity, hrange, List.foldr_cons, List.foldr_nil, Bool.xor_false, Bool.xor_assoc,
    Bool.not_eq_true']

/-- Settles O1: the results, the carries and the overflows; the other flags are the model's own equations. -/
theorem arithmeticFlags : Obligations.ArithmeticFlags := by
  refine ⟨?_, evenParity_iff⟩
  intro n f a b c u hn sum dif log
  have hpos : 0 < n := by omega
  exact ⟨toNat_addResult a b c, decide_eq_true_iff, Flags.add_ovf_iff hpos f a b c, decide_eq_true_iff, beq_iff_eq, rfl, rfl,
    toNat_subResult a b c, decide_eq_true_iff, Flags.sub_ovf_iff hpos f a b c, decide_eq_true_iff, beq_iff_eq, rfl, rfl,
    rfl, rfl, beq_iff_eq, rfl, rfl, rfl, rfl, rfl, rfl⟩

end Sys2Proof.Machine

/-! The instructions with two operands and with one (41_arithmetic.md R371 to R379, R384 to R388): the meaning that each form
shares with the others of its family, and what that meaning does once its operands are read or opened. -/

namespace Sys2Proof.Machine

/-! ### Two operands -/

theorem exec_aluWord (op : Alu) (f : WordForm) (s : State) :
    exec (op.word f) s = runInstr (aluEv op f.dest fun n => f.source n) s := by
  cases op <;> cases f <;> rfl

theorem exec_aluByte (op : Alu) (f : ByteForm) (s : State) :
    exec (op.byte f) s = runInstr (aluEb op f.dest f.source) s := by
  cases op <;> cases f <;> rfl

section TwoOperands

variable {op : Alu} {s s0 s1 : State}

theorem aluEv_of_open {e : Rm Reg} {src : (n : Nat) → M (BitVec n)} {b : BitVec s.osBits} {p : Place Reg} (hop : op ≠ .cmp)
    (hb : src s.osBits s = .ok b s0) (hp : openRm s.osBits e s0 = .ok p s1) :
    aluEv op e src s =
      let s2 := p.seen s1
      let r := aluCompute op s2.flags (p.value s.osBits s1) b (if isLogical op then s2.fresh else 0)
      .ok () (p.put r.1 ((if isLogical op then s2.drawn else s2).withFlags r.2)) := by
  rw [aluEv, bySize_apply, bind_of_ok hb, if_neg hop]
  exact modifyRm_of_open hp (alu_apply op _ b _)

theorem aluEb_of_open {e : Rm Reg8} {src : M Byte} {b : Byte} {p : Place Reg8} (hop : op ≠ .cmp)
    (hb : src s = .ok b s0) (hp : openRm 8 e s0 = .ok p s1) :
    aluEb op e src s =
      let s2 := p.seen s1
      let r := aluCompute op s2.flags (p.byte s1) b (if isLogical op then s2.fresh else 0)
      .ok () (p.putByte r.1 ((if isLogical op then s2.drawn else s2).withFlags r.2)) := by
  rw [aluEb, bind_of_ok hb, if_neg hop]
  exact modifyRm8_of_open hp (alu_apply op _ b _)

end TwoOperands

/-- Settles O2: the forms share one meaning, which reads the source, opens the destination and computes. -/
theorem twoOperandFormsComplete : Obligations.TwoOperandFormsComplete := by
  refine ⟨?_, ?_⟩
  · intro op f s s0 s1 b p hop hb hp
    exact (exec_aluWord op f s).trans (runInstr_of_ok (aluEv_of_open hop hb hp))
  · intro op f s s0 s1 b p hop hb hp
    exact (exec_aluByte op f s).trans (runInstr_of_ok (aluEb_of_open hop hb hp))

/-! ### Comparing -/

section Compare

variable {s s0 s1 : State}

theorem aluEv_cmp_of_read {e : Rm Reg} {src : (n : Nat) → M (BitVec n)} {a b : BitVec s.osBits}
    (hb : src s.osBits s = .ok b s0) (ha : readRm s.osBits e s0 = .ok a s1) :
    aluEv .cmp e src s = .ok () (s1.withFlags (s1.flags.sub a b false)) := by
  rw [aluEv, bySize_apply, bind_of_ok hb, if_pos rfl, bind_of_ok ha, bind_of_ok (alu_apply .cmp a b s1)]
  rfl

theorem aluEb_cmp_of_read {e : Rm Reg8} {src : M Byte} {a b : Byte} (hb : src s = .ok b s0) (ha : readRm8 e s0 = .ok a s1) :
    aluEb .cmp e src s = .ok () (s1.withFlags (s1.flags.sub a b false)) := by
  rw [aluEb, bind_of_ok hb, if_pos rfl, bind_of_ok ha, bind_of_ok (alu_apply .cmp a b s1)]
  rfl

variable {s2 : State}

theorem testEv_of_read {e : Rm Reg} {src : (n : Nat) → M (BitVec n)} {a b : BitVec s.osBits}
    (ha : readRm s.osBits e s = .ok a s1) (hb : src s.osBits s1 = .ok b s2) :
    testEv e src s = .ok () (s2.drawn.withFlags (s2.flags.logic (a &&& b) s2.fresh)) := by
  rw [testEv, bySize_apply, bind_of_ok ha, bind_of_ok hb, bind_of_ok (alu_apply .and a b s2)]
  rfl

theorem testEb_of_read {e : Rm Reg8} {src : M Byte} {a b : Byte} (ha : readRm8 e s = .ok a s1) (hb : src s1 = .ok b s2) :
    testEb e src s = .ok () (s2.drawn.withFlags (s2.flags.logic (a &&& b) s2.fresh)) := by
  rw [testEb, bind_of_ok ha, bind_of_ok hb, bind_of_ok (alu_apply .and a b s2)]
  rfl

end Compare

/-- Settles O3: CMP by the meaning it shares with the other two-operand instructions, and TEST by that of its forms. -/
theorem compareAndTestComplete : Obligations.CompareAndTestComplete := by
  refine ⟨fun f s s0 s1 a b hb ha => ?_, fun f s s0 s1 a b hb ha => ?_, fun e g s s1 a h => ?_, fun e imm s s1 a h => ?_,
    fun imm s => ?_, fun e g s s1 a h => ?_, fun e imm s s1 a h => ?_, fun imm s => ?_⟩
  · exact (exec_aluWord .cmp f s).trans (runInstr_of_ok (aluEv_cmp_of_read hb ha))
  · exact (exec_aluByte .cmp f s).trans (runInstr_of_ok (aluEb_cmp_of_read hb ha))
  · exact runInstr_of_ok (testEv_of_read h (reads_apply _ s1))
  · exact runInstr_of_ok (testEv_of_read (src := fun n => pure (imm.setWidth n)) h (pure_apply _ s1))
  · exact runInstr_of_ok (testEv_of_read (e := .reg .eax) (src := fun n => pure (imm.setWidth n)) rfl (pure_apply _ s))
  · exact runInstr_of_ok (testEb_of_read h (reads_apply _ s1))
  · exact runInstr_of_ok (testEb_of_read h (pure_apply imm s1))
  · exact runInstr_of_ok (testEb_of_read (e := .reg .al) rfl (pure_apply imm s))

/-! ### One operand -/

/-- What INC, DEC, NEG and NOT do with the value of their operand. -/
def Unary.compute {n : Nat} : Unary → BitVec n → M (BitVec n)
  | .inc => incValue
  | .dec => decValue
  | .neg => negValue
  | .not => fun v => pure (~~~v)

theorem exec_unaryWord (op : Unary) (e : Rm Reg) (s : State) :
    exec (op.word e) s = runInstr (bySize fun n => modifyRm n e op.compute) s := by
  cases op <;> rfl

theorem exec_unaryByte (op : Unary) (e : Rm Reg8) (s : State) :
    exec (op.byte e) s = runInstr (modifyRm8 e op.compute) s := by
  cases op <;> rfl

theorem addResult_false {n : Nat} (a b : BitVec n) : addResult a b false = a + b := by simp [addResult]

theorem subResult_false {n : Nat} (a b : BitVec n) : subResult a b false = a - b := by simp [subResult]

theorem Unary.compute_apply {n : Nat} (op : Unary) (v : BitVec n) (s : State) :
    op.compute v s = .ok (op.result v) (s.withFlags (op.flags s.flags v)) := by
  cases op with
  | inc => exact congrArg (EStateM.Result.ok · _) (addResult_false v _)
  | dec => exact congrArg (EStateM.Result.ok · _) (subResult_false v _)
  | neg => exact congrArg (EStateM.Result.ok · _) (subResult_false _ v)
  | not => rfl

/-- Settles O4: each form opens its operand and computes; the short forms are those of a register. -/
theorem oneOperandFormsComplete : Obligations.OneOperandFormsComplete := by
  refine ⟨fun op e s s1 p h => ?_, fun op e s s1 p h => ?_, fun r s => ⟨rfl, rfl⟩⟩
  · exact (exec_unaryWord op e s).trans (runInstr_bySize_of_ok (modifyRm_of_open h (op.compute_apply _ _)))
  · exact (exec_unaryByte op e s).trans (runInstr_of_ok (modifyRm8_of_open h (op.compute_apply _ _)))

end Sys2Proof.Machine

/-! Multiplication, division and the decimal adjustments (41_arithmetic.md R380 to R383, R389 to R394). -/

namespace Sys2Proof.Machine

/-! ### Products -/

/-- The state after the flags of a product: CF and OF are given, the others are free values. -/
def State.withProductFlags (s : State) (big : Bool) : State :=
  s.drawn.withFlags { s.flags.undefined s.fresh with cf := big, ovf := big }

/-- The lower half of a product in twice the width is the product in the width. -/
theorem ofNat_product_signed {n : Nat} (a b : BitVec n) :
    BitVec.ofNat n (product true a b).1 = BitVec.ofInt n (a.toInt * b.toInt) := by
  simp only [product, if_true]
  generalize a.toInt * b.toInt = q
  have hdvd : ((2 ^ n : Nat) : Int) ∣ ((2 ^ (2 * n) : Nat) : Int) := Int.natCast_dvd_natCast.2 (Nat.pow_dvd_pow 2 (by omega))
  have hnonneg : 0 ≤ q % ((2 ^ (2 * n) : Nat) : Int) := Int.emod_nonneg _ (natCast_two_pow_ne_zero _)
  rw [← BitVec.ofInt_natCast, Int.toNat_of_nonneg hnonneg]
  apply BitVec.eq_of_toNat_eq
  rw [BitVec.toNat_ofInt, BitVec.toNat_ofInt, Int.emod_emod_of_dvd _ hdvd]

section Products

variable {s s1 : State}

theorem multiply_of_readRm {e : Rm Reg} {b : BitVec s.osBits} (h : readRm s.osBits e s = .ok b s1) (signed : Bool) :
    multiply signed e s =
      let p := product signed (s1.regN s.osBits .eax) b
      .ok () (((s1.setRegN .eax (BitVec.ofNat s.osBits p.1)).setRegN .edx
        (BitVec.ofNat s.osBits (p.1 / 2 ^ s.osBits))).withProductFlags p.2) := by
  rw [multiply, bySize_apply, bind_of_ok h]
  rfl

theorem multiply8_of_readRm8 {e : Rm Reg8} {b : Byte} (h : readRm8 e s = .ok b s1) (signed : Bool) :
    multiply8 signed e s =
      let p := product signed (s1.reg8 .al) b
      .ok () ((s1.setRegN .eax (BitVec.ofNat 16 p.1)).withProductFlags p.2) := by
  rw [multiply8, bind_of_ok h]
  rfl

variable {s2 : State}

theorem imulTo_of_readRm {e : Rm Reg} {src : (n : Nat) → M (BitVec n)} {a b : BitVec s.osBits}
    (ha : readRm s.osBits e s = .ok a s1) (hb : src s.osBits s1 = .ok b s2) (g : Reg) :
    imulTo g e src s =
      let q := a.toInt * b.toInt
      .ok () ((s2.setRegN g (BitVec.ofInt s.osBits q)).withProductFlags
        (decide ((BitVec.ofInt s.osBits q).toInt ≠ q))) := by
  rw [imulTo, bySize_apply, bind_of_ok ha, bind_of_ok hb]
  simp only [setRegister, ofNat_product_signed]
  rfl

end Products

/-- Settles O5: each form reads its operand, stores the product or its lower half and writes the flags. -/
theorem multiplyComplete : Obligations.MultiplyComplete := by
  refine ⟨fun e s s1 b h => ⟨?_, ?_⟩, fun e s s1 b h => ⟨?_, ?_⟩, fun g e imm imm8 s s1 a h => ⟨?_, ?_, ?_⟩⟩
  · exact runInstr_of_ok (multiply_of_readRm h false)
  · exact runInstr_of_ok (multiply_of_readRm h true)
  · exact runInstr_of_ok (multiply8_of_readRm8 h false)
  · exact runInstr_of_ok (multiply8_of_readRm8 h true)
  · exact runInstr_of_ok (imulTo_of_readRm h (reads_apply _ s1) g)
  · exact runInstr_of_ok (imulTo_of_readRm (src := fun n => pure (imm.setWidth n)) h (pure_apply _ s1) g)
  · exact runInstr_of_ok (imulTo_of_readRm (src := fun n => pure (imm8.signExtend n)) h (pure_apply _ s1) g)

/-! ### Quotients -/

/-- The state after all status flags became free values. -/
def State.withFreeStatus (s : State) : State := s.drawn.withFlags (s.flags.undefined s.fresh)

/-- A quotient and a remainder that is less than the divisor are the only ones. -/
theorem div_mod_of_eq {d v q r : Nat} (h : d = v * q + r) (hr : r < v) : d / v = q ∧ d % v = r :=
  (Nat.div_mod_unique (by omega)).2 ⟨by omega, hr⟩

/-- A quotient truncated toward zero and the remainder with the sign of the dividend are the only ones. -/
theorem tdiv_tmod_of_signs {d v q r : Int} (h : d = v * q + r) (hr : r.natAbs < v.natAbs) (hpos : 0 ≤ d → 0 ≤ r)
    (hneg : d ≤ 0 → r ≤ 0) : d.tdiv v = q ∧ d.tmod v = r := by
  have hv : v ≠ 0 := by rintro rfl; simp at hr
  by_cases hd : 0 ≤ d
  · have hr0 := hpos hd
    exact (Int.tdiv_tmod_unique hd hv).2 ⟨by omega, hr0, by omega⟩
  · have hr0 := hneg (by omega)
    exact (Int.tdiv_tmod_unique' (by omega) hv).2 ⟨by omega, by omega, hr0⟩

theorem outsideSigned_iff (n : Nat) (q : Int) : outsideSigned n q = true ↔ q < -(2 ^ (n - 1)) ∨ 2 ^ (n - 1) ≤ q := by
  simp [outsideSigned]

/-- An upper half that is not less than the divisor makes the quotient too large for a half. -/
theorem two_pow_le_div {high low v n : Nat} (hv : 0 < v) (h : v ≤ high) : 2 ^ n ≤ (high * 2 ^ n + low) / v := by
  rw [Nat.le_div_iff_mul_le hv, Nat.mul_comm]
  exact Nat.le_add_right_of_le (Nat.mul_le_mul_right _ h)

theorem toNat_append_eq_mul_add {n m : Nat} (high : BitVec n) (low : BitVec m) :
    (high ++ low).toNat = high.toNat * 2 ^ m + low.toNat := by
  rw [BitVec.toNat_append, ← Nat.shiftLeft_add_eq_or_of_lt low.isLt, Nat.shiftLeft_eq]

/-- Two halves put together, read with sign: the sign is that of the upper half. -/
theorem toInt_ofNat_halves {n : Nat} (hn : 0 < n) (high low : BitVec n) :
    (BitVec.ofNat (2 * n) (high.toNat * 2 ^ n + low.toNat)).toInt = high.toInt * 2 ^ n + low.toNat := by
  have happend : BitVec.ofNat (n + n) (high.toNat * 2 ^ n + low.toNat) = high ++ low := by
    rw [← toNat_append_eq_mul_add, BitVec.ofNat_toNat, BitVec.setWidth_eq]
  rw [Nat.two_mul, happend, BitVec.toInt_append, if_neg (by simpa using Nat.ne_of_gt hn), Int.mul_comm]

/-- AX is AH and AL put together. -/
theorem State.regN_16_eax (s : State) : s.regN 16 .eax = s.reg8 .ah ++ s.reg8 .al := by
  rw [State.regN, BitVec.setWidth_eq_extractLsb' (by decide)]
  exact (BitVec.extractLsb'_append_extractLsb'_eq_extractLsb' (start₁ := 0) (len₁ := 8) rfl).symm

/-- What follows a test, by the condition that the test makes sure of. -/
theorem raiseIf_bind_eq_ite {β : Type} {c : Bool} {P : Prop} [Decidable P] (h : c = true ↔ P) (e : Exc)
    (f : Unit → M β) (s : State) : (raiseIf c e >>= f) s = if P then .error e s else f () s := by
  split
  · next hp => exact raiseIf_bind_of_true (h.2 hp)
  · next hp => exact raiseIf_bind_of_false (Bool.eq_false_iff.2 (mt h.1 hp))

section Quotients

variable {s s1 : State}

section Words

variable {e : Rm Reg} {v : BitVec s.osBits} (h : readRm s.osBits e s = .ok v s1)
include h

theorem divide_of_readRm {q r : Nat}
    (hq : ((s1.regN s.osBits .edx).toNat * 2 ^ s.osBits + (s1.regN s.osBits .eax).toNat) / v.toNat = q)
    (hr : ((s1.regN s.osBits .edx).toNat * 2 ^ s.osBits + (s1.regN s.osBits .eax).toNat) % v.toNat = r) :
    divide e s = if v = 0 ∨ 2 ^ s.osBits ≤ q then .error .de s1
      else .ok () ((s1.setRegN .eax (BitVec.ofNat s.osBits q)).setRegN .edx (BitVec.ofNat s.osBits r)).withFreeStatus := by
  subst hq hr
  rw [divide, bySize_apply, bind_of_ok h, bind_of_ok (get_apply s1)]
  exact raiseIf_bind_eq_ite (by simp) _ _ s1

theorem divideSigned_of_readRm {q r : Int}
    (hq : ((s1.regN s.osBits .edx).toInt * 2 ^ s.osBits + (s1.regN s.osBits .eax).toNat).tdiv v.toInt = q)
    (hr : ((s1.regN s.osBits .edx).toInt * 2 ^ s.osBits + (s1.regN s.osBits .eax).toNat).tmod v.toInt = r) :
    divideSigned e s = if v = 0 ∨ q < -(2 ^ (s.osBits - 1)) ∨ 2 ^ (s.osBits - 1) ≤ q then .error .de s1
      else .ok () ((s1.setRegN .eax (BitVec.ofInt s.osBits q)).setRegN .edx (BitVec.ofInt s.osBits r)).withFreeStatus := by
  have hpos : 0 < s.osBits := by rcases s.osBits_cases with hn | hn <;> rw [hn] <;> decide
  subst hq hr
  rw [divideSigned, bySize_apply, bind_of_ok h, bind_of_ok (get_apply s1)]
  simp only [toInt_ofNat_halves hpos]
  exact raiseIf_bind_eq_ite (by simp [outsideSigned_iff]) _ _ s1

end Words

section Bytes

variable {e : Rm Reg8} {v : Byte} (h : readRm8 e s = .ok v s1)
include h

theorem divide8_of_readRm8 {q r : Nat} (hq : (s1.regN 16 .eax).toNat / v.toNat = q)
    (hr : (s1.regN 16 .eax).toNat % v.toNat = r) :
    divide8 e s = if v = 0 ∨ 256 ≤ q then .error .de s1
      else .ok () ((s1.setReg8 .al (BitVec.ofNat 8 q)).setReg8 .ah (BitVec.ofNat 8 r)).withFreeStatus := by
  subst hq hr
  rw [divide8, bind_of_ok h, bind_of_ok (get_apply s1)]
  exact raiseIf_bind_eq_ite (by simp) _ _ s1

theorem divideSigned8_of_readRm8 {q r : Int} (hq : (s1.regN 16 .eax).toInt.tdiv v.toInt = q)
    (hr : (s1.regN 16 .eax).toInt.tmod v.toInt = r) :
    divideSigned8 e s = if v = 0 ∨ q < -128 ∨ 128 ≤ q then .error .de s1
      else .ok () ((s1.setReg8 .al (BitVec.ofInt 8 q)).setReg8 .ah (BitVec.ofInt 8 r)).withFreeStatus := by
  subst hq hr
  rw [divideSigned8, bind_of_ok h, bind_of_ok (get_apply s1)]
  exact raiseIf_bind_eq_ite (by simp [outsideSigned_iff]) _ _ s1

end Bytes

end Quotients

/-- The quotient of AX is too large for AL where AH is not less than the divisor. -/
theorem State.le_div_of_le_ah {s : State} {v : Nat} (hv : 0 < v) (h : v ≤ (s.reg8 .ah).toNat) :
    256 ≤ (s.regN 16 .eax).toNat / v := by
  rw [State.regN_16_eax, toNat_append_eq_mul_add]
  exact two_pow_le_div (n := 8) hv h

theorem aamBy_zero (s : State) : aamBy 0 s = .error .de s := rfl

/-- A divisor is 0, or its value without sign is positive. -/
theorem eq_zero_or_toNat_pos {n : Nat} (v : BitVec n) : v = 0 ∨ 0 < v.toNat := by
  rcases Nat.eq_zero_or_pos v.toNat with h | h
  · exact .inl (BitVec.eq_of_toNat_eq (by simpa using h))
  · exact .inr h

/-- Settles O6: the quotient and the remainder that the equation fixes are those the instruction takes, and the tests it makes
are those for 0 and for a quotient out of range. -/
theorem divideFormsComplete : Obligations.DivideFormsComplete := by
  refine ⟨⟨?_, ?_, ?_, ?_⟩, ?_, ?_, fun s => runInstr_of_error (aamBy_zero s)⟩
  · intro e s s1 v q r h n hd hr hq t
    have hv : v ≠ 0 := by rintro rfl; simp at hr
    obtain ⟨hdiv, hmod⟩ := div_mod_of_eq hd hr
    exact runInstr_of_ok ((divide_of_readRm h hdiv hmod).trans (if_neg (not_or.2 ⟨hv, Nat.not_le.2 hq⟩)))
  · intro e s s1 v q r h hd hr hq t
    have hv : v ≠ 0 := by rintro rfl; simp at hr
    obtain ⟨hdiv, hmod⟩ := div_mod_of_eq hd hr
    exact runInstr_of_ok ((divide8_of_readRm8 h hdiv hmod).trans (if_neg (not_or.2 ⟨hv, Nat.not_le.2 hq⟩)))
  · intro e s s1 v q r h n d hd hr hpos hneg hlow hhigh t
    have hv : v ≠ 0 := by rintro rfl; simp at hr
    obtain ⟨hdiv, hmod⟩ := tdiv_tmod_of_signs hd hr hpos hneg
    exact runInstr_of_ok ((divideSigned_of_readRm h hdiv hmod).trans
      (if_neg (not_or.2 ⟨hv, not_or.2 ⟨Int.not_lt.2 hlow, Int.not_le.2 hhigh⟩⟩)))
  · intro e s s1 v q r h d hd hr hpos hneg hlow hhigh t
    have hv : v ≠ 0 := by rintro rfl; simp at hr
    obtain ⟨hdiv, hmod⟩ := tdiv_tmod_of_signs hd hr hpos hneg
    exact runInstr_of_ok ((divideSigned8_of_readRm8 h hdiv hmod).trans
      (if_neg (not_or.2 ⟨hv, not_or.2 ⟨Int.not_lt.2 hlow, Int.not_le.2 hhigh⟩⟩)))
  · intro e s s1 v h n
    refine ⟨fun hv => ⟨?_, ?_⟩, fun hhigh => ?_, ?_⟩
    · exact runInstr_of_error ((divide_of_readRm h rfl rfl).trans (if_pos (.inl hv)))
    · exact runInstr_of_error ((divideSigned_of_readRm h rfl rfl).trans (if_pos (.inl hv)))
    · refine runInstr_of_error ((divide_of_readRm h rfl rfl).trans (if_pos ?_))
      exact (eq_zero_or_toNat_pos v).imp_right fun hv => two_pow_le_div hv hhigh
    · intro q r d hd hr hpos hneg hout
      obtain ⟨hdiv, hmod⟩ := tdiv_tmod_of_signs hd hr hpos hneg
      exact runInstr_of_error ((divideSigned_of_readRm h hdiv hmod).trans (if_pos (.inr hout)))
  · intro e s s1 v h
    refine ⟨fun hv => ⟨?_, ?_⟩, fun hhigh => ?_, ?_⟩
    · exact runInstr_of_error ((divide8_of_readRm8 h rfl rfl).trans (if_pos (.inl hv)))
    · exact runInstr_of_error ((divideSigned8_of_readRm8 h rfl rfl).trans (if_pos (.inl hv)))
    · refine runInstr_of_error ((divide8_of_readRm8 h rfl rfl).trans (if_pos ?_))
      exact (eq_zero_or_toNat_pos v).imp_right fun hv => State.le_div_of_le_ah hv hhigh
    · intro q r d hd hr hpos hneg hout
      obtain ⟨hdiv, hmod⟩ := tdiv_tmod_of_signs hd hr hpos hneg
      exact runInstr_of_error ((divideSigned8_of_readRm8 h hdiv hmod).trans (if_pos (.inr hout)))

/-! ### Decimal adjustments -/

theorem aamBy_of_ne_zero {base : Byte} (h : base ≠ 0) (s : State) :
    aamBy base s = .ok () (((s.setReg8 .ah (s.reg8 .al / base)).setReg8 .al (s.reg8 .al % base)).drawn.withFlags
      ((s.flags.undefined s.fresh).ofResult (s.reg8 .al % base))) := by
  rw [aamBy, bind_of_ok (get_apply s), raiseIf_bind_of_false (beq_eq_false_iff_ne.2 h)]
  rfl

/-- The low digit of AL exceeds 9, or AF says that it did. -/
def State.lowDigitAdjusts (s : State) : Bool := decide (9 < (s.reg8 .al).toNat % 16) || s.flags.af

/-- What AAA and AAS add to or take from AH: 1, or a free choice of 1 and 2 where AL wraps (assumption log 24). -/
def State.asciiStep (s : State) (wraps : Bool) : Byte := if wraps && bitAt s.fresh 16 then 2 else 1

/-- The state after AAA and AAS, by the value that AL gets before its upper digit is cut off and the value of AH. -/
def State.withAscii (s : State) (al ah : Byte) : State :=
  ((s.setReg8 .al (al &&& 0x0F)).setReg8 .ah ah).drawn.withFlags
    { s.flags.undefined s.fresh with cf := s.lowDigitAdjusts, af := s.lowDigitAdjusts }

theorem asciiAdjust_apply (add : Bool) (s : State) :
    asciiAdjust add s =
      let step := s.asciiStep (if add then decide (0xF9 < (s.reg8 .al).toNat) else decide ((s.reg8 .al).toNat < 6))
      .ok () (s.withAscii
        (if !s.lowDigitAdjusts then s.reg8 .al else if add then s.reg8 .al + 6 else s.reg8 .al - 6)
        (if !s.lowDigitAdjusts then s.reg8 .ah else if add then s.reg8 .ah + step else s.reg8 .ah - step)) := rfl

theorem asciiAdjust_of_digit {s : State} (h : s.lowDigitAdjusts = false) (add : Bool) :
    asciiAdjust add s = .ok () (s.withAscii (s.reg8 .al) (s.reg8 .ah)) := by
  rw [asciiAdjust_apply, h]; rfl

theorem asciiAdjust_add_of_adjusts {s : State} (h : s.lowDigitAdjusts = true) {step : Byte}
    (hstep : s.asciiStep (decide (0xF9 < (s.reg8 .al).toNat)) = step) :
    asciiAdjust true s = .ok () (s.withAscii (s.reg8 .al + 6) (s.reg8 .ah + step)) := by
  rw [asciiAdjust_apply, h, ← hstep]; rfl

theorem asciiAdjust_sub_of_adjusts {s : State} (h : s.lowDigitAdjusts = true) {step : Byte}
    (hstep : s.asciiStep (decide ((s.reg8 .al).toNat < 6)) = step) :
    asciiAdjust false s = .ok () (s.withAscii (s.reg8 .al - 6) (s.reg8 .ah - step)) := by
  rw [asciiAdjust_apply, h, ← hstep]; rfl

theorem State.asciiStep_of_not {p : Prop} [Decidable p] (s : State) (h : ¬ p) : s.asciiStep (decide p) = 1 := by
  rw [decide_eq_false h]; rfl

theorem State.asciiStep_of {p : Prop} [Decidable p] (s : State) (h : p) :
    s.asciiStep (decide p) = if bitAt s.fresh 16 then 2 else 1 := by
  rw [decide_eq_true h, State.asciiStep, Bool.true_and]

/-- Settles O7: AAA and AAS by whether they adjust and whether AL wraps; the others compute in one way. -/
theorem decimalAdjustComplete : Obligations.DecimalAdjustComplete := by
  intro s al ah f u low high d done ascii
  refine ⟨runInstr_of_ok rfl, runInstr_of_ok rfl, fun hlow => ?_, fun hlow => ⟨fun hal => ?_, fun hal => ?_, fun hal => ?_,
    fun hal => ?_⟩, fun imm himm => runInstr_of_ok (aamBy_of_ne_zero himm s), fun imm => runInstr_of_ok rfl⟩
  · exact ⟨runInstr_of_ok (asciiAdjust_of_digit hlow true), runInstr_of_ok (asciiAdjust_of_digit hlow false)⟩
  · exact runInstr_of_ok (asciiAdjust_add_of_adjusts hlow (s.asciiStep_of_not (Nat.not_lt.2 hal)))
  · exact runInstr_of_ok (asciiAdjust_add_of_adjusts hlow (s.asciiStep_of hal))
  · exact runInstr_of_ok (asciiAdjust_sub_of_adjusts hlow (s.asciiStep_of_not (Nat.not_lt.2 hal)))
  · exact runInstr_of_ok (asciiAdjust_sub_of_adjusts hlow (s.asciiStep_of hal))

end Sys2Proof.Machine

/-! The frame of the instructions that write one operand: each part of such an instruction changes only the operand's place, the
status flags, and what an access to memory records; so does the whole, since such changes follow one another. -/

namespace Sys2Proof.Machine

/-! ### Changes that stay within an operand's frame -/

/-- A reflexive and transitive relation between contents of the general registers. -/
structure RegsRel (G : Gprs → Gprs → Prop) : Prop where
  refl : ∀ g, G g g
  trans : ∀ {a b c}, G a b → G b c → G a c

/-- `t` is `s` but for the bytes of memory at `ps`, general registers as `G` allows, and what `OperandFrame` leaves open. -/
structure Changed (ps : List Nat) (G : Gprs → Gprs → Prop) (s t : State) : Prop where
  rest : t = { s with gpr := t.gpr, pc := t.pc, mem := t.mem, tlb := t.tlb, stale := t.stale, dr6 := t.dr6
                      dbgPending := t.dbgPending, repActive := t.repActive, ioTrace := t.ioTrace, draws := t.draws
                      cur := t.cur
                      flags := { s.flags with cf := t.flags.cf, pf := t.flags.pf, af := t.flags.af, zf := t.flags.zf
                                              sf := t.flags.sf, ovf := t.flags.ovf, rf := t.flags.rf } }
  bytes : ∀ a, a ∉ ps → Memory.get t.mem a &&& settled = Memory.get s.mem a &&& settled
    ∧ (s.cr0.pg = false → Memory.get t.mem a = Memory.get s.mem a)
  regs : G s.gpr t.gpr

/-- `t` is `s` but for status flags and the count of free values. -/
def OnlyStatus (s t : State) : Prop :=
  t = { s with draws := t.draws
               flags := { s.flags with cf := t.flags.cf, pf := t.flags.pf, af := t.flags.af, zf := t.flags.zf
                                       sf := t.flags.sf, ovf := t.flags.ovf } }

section Changed

variable {ps : List Nat} {G : Gprs → Gprs → Prop} {s t u : State}

theorem Changed.cr0 (h : Changed ps G s t) : t.cr0 = s.cr0 := by rw [h.rest]

theorem Changed.trans (hG : RegsRel G) (h : Changed ps G s t) (k : Changed ps G t u) : Changed ps G s u where
  rest := k.rest.trans (by rw [h.rest])
  bytes a ha := ⟨(k.bytes a ha).1.trans (h.bytes a ha).1,
    fun hpg => ((k.bytes a ha).2 (by rw [h.cr0, hpg])).trans ((h.bytes a ha).2 hpg)⟩
  regs := hG.trans h.regs k.regs

/-- What leaves memory and the general registers as they are. -/
theorem Changed.of_same (hG : RegsRel G) (hmem : t.mem = s.mem) (hgpr : t.gpr = s.gpr)
    (rest : t = { s with pc := t.pc, tlb := t.tlb, stale := t.stale, dr6 := t.dr6, dbgPending := t.dbgPending
                         repActive := t.repActive, ioTrace := t.ioTrace, draws := t.draws, cur := t.cur
                         flags := { s.flags with cf := t.flags.cf, pf := t.flags.pf, af := t.flags.af, zf := t.flags.zf
                                                 sf := t.flags.sf, ovf := t.flags.ovf, rf := t.flags.rf } }) :
    Changed ps G s t where
  rest := rest.trans (by rw [hmem, hgpr])
  bytes a _ := ⟨by rw [hmem], fun _ => by rw [hmem]⟩
  regs := by rw [hgpr]; exact hG.refl _

theorem Changed.refl (hG : RegsRel G) (s : State) : Changed ps G s s := .of_same hG rfl rfl rfl

theorem NotedOnly.changed (hG : RegsRel G) (h : NotedOnly s t) : Changed ps G s t :=
  .of_same hG (by rw [h]) (by rw [h]) (by rw [h])

theorem OnlyStatus.changed (hG : RegsRel G) (h : OnlyStatus s t) : Changed ps G s t :=
  .of_same hG (by rw [h]) (by rw [h]) (by rw [h])

theorem Looked.changed (hG : RegsRel G) (h : Looked s t) : Changed ps G s t := by
  obtain ⟨hrest, hbits, hoff⟩ := h
  exact { rest := by rw [hrest]
          bytes := fun a _ => ⟨hbits a, fun hpg => by rw [hoff hpg]⟩
          regs := by rw [hrest]; exact hG.refl _ }

theorem WroteOnly.changed (hG : RegsRel G) (h : WroteOnly ps s t) : Changed ps G s t where
  rest := by rw [h.rest]
  bytes a ha := ⟨by rw [h.get a ha], fun _ => h.get a ha⟩
  regs := by rw [h.rest]; exact hG.refl _

theorem Changed.of_setReg {r : Reg} {v : Word32} (h : G s.gpr (s.gpr.set r v)) : Changed ps G s (s.setReg r v) where
  rest := rfl
  bytes _ _ := ⟨rfl, fun _ => rfl⟩
  regs := h

/-- An instruction whose meaning stays within the frame of its operand completes within it. -/
theorem Changed.operandFrame (h : Changed ps G s t) (tf : Bool) :
    OperandFrame ps s (t.complete tf) ∧ G s.gpr (t.complete tf).gpr := by
  refine ⟨⟨?_, h.bytes⟩, h.regs⟩
  rw [h.rest]
  rfl

end Changed

/-! ### Registers -/

/-- The words of general registers that an instruction on `n` bits which writes the place `p` and the registers `other` keeps. -/
structure KeptWords (n : Nat) (p : Place Reg) (other : List Reg) (g h : Gprs) : Prop where
  others : ∀ r, p ≠ .reg r → r ∉ other → h.get r = g.get r
  high : n = 16 → ∀ r, (h.get r).extractLsb' 16 16 = (g.get r).extractLsb' 16 16

theorem regsRel_keptWords (n : Nat) (p : Place Reg) (other : List Reg) : RegsRel (KeptWords n p other) where
  refl _ := ⟨fun _ _ _ => rfl, fun _ _ => rfl⟩
  trans h k := ⟨fun r hp ho => (k.others r hp ho).trans (h.others r hp ho),
    fun hn r => (k.high hn r).trans (h.high hn r)⟩

/-- `G` allows the low `n` bits of a general register to be written. -/
def WritableWord (n : Nat) (G : Gprs → Gprs → Prop) (r : Reg) : Prop :=
  ∀ (g : Gprs) (v : BitVec n), G g (g.set r (insertLow (g.get r) v))

/-- `G` allows an 8-bit view to be written. -/
def WritableByte (G : Gprs → Gprs → Prop) (r : Reg8) : Prop :=
  ∀ (g : Gprs) (v : Byte), G g (g.set (wholeOf r) (insertByte (g.get (wholeOf r)) (shiftOf r) v))

theorem regsRel_eq : RegsRel fun g h => h = g where
  refl _ := rfl
  trans h k := k.trans h

/-- Bits from the width of the value on stay when the low bits of a double word are replaced. -/
theorem getLsbD_insertLow_of_le {n : Nat} (old : Word32) (v : BitVec n) {i : Nat} (h : n ≤ i) :
    (insertLow old v).getLsbD i = old.getLsbD i := by
  by_cases hi : i < 32
  · simp [insertLow, h, hi]
  · rw [BitVec.getLsbD_of_ge _ i (by omega), BitVec.getLsbD_of_ge _ i (by omega)]

theorem extract_high_insertLow (old : Word32) (v : Word16) :
    (insertLow old v).extractLsb' 16 16 = old.extractLsb' 16 16 := by
  ext i hi
  simp only [BitVec.getElem_extractLsb', getLsbD_insertLow_of_le old v (Nat.le_add_right 16 i)]

/-- Writing the operand of a word instruction, or another register that it writes. -/
theorem writableWord_keptWords {n : Nat} {p : Place Reg} {other : List Reg} {r : Reg} (hr : p = .reg r ∨ r ∈ other) :
    WritableWord n (KeptWords n p other) r := by
  refine fun g v => ⟨fun q hp ho => Gprs.get_set_other g _ ?_, fun hn q => ?_⟩
  · rintro rfl
    exact hr.elim hp ho
  · subst hn
    by_cases hq : q = r
    · rw [hq, Gprs.get_set_same, extract_high_insertLow]
    · rw [Gprs.get_set_other g _ hq]

/-- An 8-bit view of the general registers. -/
def Gprs.byte (g : Gprs) (r : Reg8) : Byte := (g.get (wholeOf r)).extractLsb' (shiftOf r) 8

theorem State.reg8_eq_byte (s : State) (r : Reg8) : s.reg8 r = s.gpr.byte r := rfl

/-- What an instruction which writes the byte place `p` and the byte registers `other` keeps of the general registers. -/
structure KeptBytes (p : Place Reg8) (other : List Reg8) (g h : Gprs) : Prop where
  others : ∀ r, p ≠ .reg r → r ∉ other → h.byte r = g.byte r
  high : ∀ r, (h.get r).extractLsb' 16 16 = (g.get r).extractLsb' 16 16
  whole : ∀ r, r ∈ [Reg.esp, .ebp, .esi, .edi] → h.get r = g.get r

theorem regsRel_keptBytes (p : Place Reg8) (other : List Reg8) : RegsRel (KeptBytes p other) where
  refl _ := ⟨fun _ _ _ => rfl, fun _ => rfl, fun _ _ => rfl⟩
  trans h k := ⟨fun r hp ho => (k.others r hp ho).trans (h.others r hp ho), fun r => (k.high r).trans (h.high r),
    fun r hr => (k.whole r hr).trans (h.whole r hr)⟩

/-- Bits outside the replaced byte stay. -/
theorem getLsbD_insertByte_of_outside (old : Word32) (k : Nat) (v : Byte) {i : Nat} (h : i < k ∨ k + 8 ≤ i) :
    (insertByte old k v).getLsbD i = old.getLsbD i := by
  by_cases hi : i < 32
  · rcases h with h | h
    · simp [insertByte, h, hi]
    · have hmask : (0xFF#32).getLsbD (i - k) = false := by
        have hlarge : 2 ^ 8 ≤ 2 ^ (i - k) := Nat.pow_le_pow_right (by decide) (by omega)
        rw [BitVec.getLsbD_ofNat, Nat.testBit_lt_two_pow (by omega), Bool.and_false]
      simp [insertByte, hi, BitVec.getLsbD_of_ge v (i - k) (by omega), -BitVec.getLsbD_eq_getElem, hmask]
  · rw [BitVec.getLsbD_of_ge _ i (by omega), BitVec.getLsbD_of_ge _ i (by omega)]

/-- A field of a double word that does not meet the replaced byte. -/
theorem extract_insertByte_of_disjoint (old : Word32) {k a n : Nat} (v : Byte) (h : a + n ≤ k ∨ k + 8 ≤ a) :
    (insertByte old k v).extractLsb' a n = old.extractLsb' a n := by
  ext i hi
  simp only [BitVec.getElem_extractLsb']
  exact getLsbD_insertByte_of_outside old k v (by omega)

/-- Writing the operand of a byte instruction, or another byte register that it writes. -/
theorem writableByte_keptBytes {p : Place Reg8} {other : List Reg8} {r : Reg8} (hr : p = .reg r ∨ r ∈ other) :
    WritableByte (KeptBytes p other) r := by
  refine fun g v => ⟨fun q hp ho => ?_, fun q => ?_, fun q hq => Gprs.get_set_other g _ ?_⟩
  · have hne : q ≠ r := by
      rintro rfl
      exact hr.elim hp ho
    unfold Gprs.byte
    by_cases hq : wholeOf q = wholeOf r
    · rw [hq, Gprs.get_set_same]
      refine extract_insertByte_of_disjoint _ _ ?_
      revert hq hne
      cases q <;> cases r <;> decide
    · rw [Gprs.get_set_other g _ hq]
  · have hlow : shiftOf r + 8 ≤ 16 := by cases r <;> decide
    by_cases hq : q = wholeOf r
    · rw [hq, Gprs.get_set_same, extract_insertByte_of_disjoint _ _ (.inr hlow)]
    · rw [Gprs.get_set_other g _ hq]
  · rintro rfl
    revert hq
    cases r <;> decide

/-! ### What is done with the value of an operand -/

/-- From every value and state `f` completes, and it ends in a state that is related by `R` to the one it began in. -/
def Computes {α : Type} (R : State → State → Prop) (f : α → M α) : Prop := ∀ v s, ∃ w t, f v s = .ok w t ∧ R s t

theorem Computes.mono {α : Type} {R S : State → State → Prop} {f : α → M α} (h : Computes R f)
    (hRS : ∀ s t, R s t → S s t) : Computes S f := by
  intro v s
  obtain ⟨w, t, hf, hr⟩ := h v s
  exact ⟨w, t, hf, hRS s t hr⟩

section Computes

variable {n : Nat}

theorem alu_computes (op : Alu) (b : BitVec n) : Computes OnlyStatus fun a => alu op a b :=
  fun a s => ⟨_, _, alu_apply op a b s, by cases op <;> rfl⟩

theorem unary_computes (op : Unary) : Computes OnlyStatus (op.compute (n := n)) :=
  fun v s => ⟨_, _, op.compute_apply v s, by cases op <;> rfl⟩

theorem shift_computes (op : Shift) (cnt : Nat) : Computes OnlyStatus (shift (n := n) op cnt) :=
  fun a s => ⟨_, _, rfl, by cases op <;> rfl⟩

theorem shiftDouble_computes (right : Bool) (cnt : Nat) (g : BitVec n) :
    Computes OnlyStatus fun a => shiftDouble right cnt a g := by
  intro a s
  show ∃ w t, shiftDouble right cnt a g s = .ok w t ∧ OnlyStatus s t
  rw [shiftDouble, bind_of_ok (draw_apply s)]
  split <;> exact ⟨_, _, rfl, rfl⟩

theorem bitValue_computes (op : BitOp) (i : Nat) : Computes OnlyStatus (bitValue (n := n) op i) :=
  fun _ _ => ⟨_, _, rfl, rfl⟩

variable {ps : List Nat} {G : Gprs → Gprs → Prop}

theorem exchange_computes {g : Reg} (h : WritableWord n G g) : Computes (Changed ps G) (exchange (n := n) g) :=
  fun v s => ⟨_, _, exchange_apply g v s, .of_setReg (h _ v)⟩

theorem exchange8_computes {g : Reg8} (h : WritableByte G g) : Computes (Changed ps G) (exchange8 g) :=
  fun v s => ⟨_, _, exchange8_apply g v s, .of_setReg (h _ v)⟩

end Computes

/-! ### Reading, writing and modifying an operand -/

theorem State.afterReading_notedOnly (s : State) (ps : List Nat) : NotedOnly s (s.afterReading ps) := by
  have h := readBytesFrom_notedOnly ps [] s
  rwa [← readBytes, readBytes_ok] at h

theorem Place.seen_notedOnly {α : Type} (p : Place α) (s : State) : NotedOnly s (p.seen s) := by
  cases p with
  | reg r => exact steps_notedOnly.refl s
  | bytes ps => exact s.afterReading_notedOnly ps

theorem readRm_looks (n : Nat) (e : Rm Reg) : Within Looks (readRm n e) := by
  have hs := steps_looks
  cases e with
  | reg r => exact within_reads hs _
  | mem m => exact within_bind hs (within_get hs) fun _ => within_bind hs (segRead_looks _ _ _) fun _ => within_pure hs _

theorem readRm8_looks (e : Rm Reg8) : Within Looks (readRm8 e) := by
  have hs := steps_looks
  cases e with
  | reg r => exact within_reads hs _
  | mem m => exact within_bind hs (within_get hs) fun _ => within_bind hs (segRead_looks _ _ _) fun _ => within_pure hs _

theorem wordSource_looks (n : Nat) (f : WordForm) : Within Looks (f.source n) := by
  cases f with
  | evGv e g => exact readRm_looks n (.reg g)
  | gvEv g e => exact readRm_looks n e
  | eaxIv imm | evIv e imm | evIbs e imm => exact within_pure steps_looks _

theorem byteSource_looks (f : ByteForm) : Within Looks f.source := by
  cases f with
  | ebGb e g => exact readRm8_looks (.reg g)
  | gbEb g e => exact readRm8_looks e
  | alIb imm | ebIb e imm => exact within_pure steps_looks _

section Operands

variable {G : Gprs → Gprs → Prop} (hG : RegsRel G) {s s1 : State}
include hG

theorem Place.put_changed {n : Nat} {p : Place Reg} (hset : ∀ r, p = .reg r → WritableWord n G r) (v : BitVec n) (s : State) : Changed p.addresses G s (p.put v s) := by
  cases p with
  | reg r => exact .of_setReg (hset r rfl _ v)
  | bytes ps => exact (s.afterWriting_wroteOnly ps _).changed hG

theorem Place.putByte_changed {p : Place Reg8} (hset : ∀ r, p = .reg r → WritableByte G r) (v : Byte) (s : State) :
    Changed p.addresses G s (p.putByte v s) := by
  cases p with
  | reg r => exact .of_setReg (hset r rfl _ v)
  | bytes ps => exact (s.afterWriting_wroteOnly ps _).changed hG

theorem modifyRm_changed {n : Nat} {e : Rm Reg} {p : Place Reg} {f : BitVec n → M (BitVec n)}
    (hwf : Memory.wf s.mem = true) (hp : openRm n e s = .ok p s1)
    (hset : ∀ r, p = .reg r → WritableWord n G r)
    (hf : Computes (Changed p.addresses G) f) : ∃ u, modifyRm n e f s = .ok () u ∧ Changed p.addresses G s u := by
  obtain ⟨w, s2, hw, hcomputed⟩ := hf (p.value n s1) (p.seen s1)
  refine ⟨p.put w s2, modifyRm_of_open hp hw, ?_⟩
  exact ((((openRm_looks n e).looked hwf hp).changed hG).trans hG ((p.seen_notedOnly s1).changed hG)).trans hG
    (hcomputed.trans hG (Place.put_changed hG hset w s2))

theorem modifyRm8_changed {e : Rm Reg8} {p : Place Reg8} {f : Byte → M Byte}
    (hwf : Memory.wf s.mem = true) (hp : openRm 8 e s = .ok p s1)
    (hset : ∀ r, p = .reg r → WritableByte G r)
    (hf : Computes (Changed p.addresses G) f) : ∃ u, modifyRm8 e f s = .ok () u ∧ Changed p.addresses G s u := by
  obtain ⟨w, s2, hw, hcomputed⟩ := hf (p.byte s1) (p.seen s1)
  refine ⟨p.putByte w s2, modifyRm8_of_open hp hw, ?_⟩
  exact ((((openRm_looks 8 e).looked hwf hp).changed hG).trans hG ((p.seen_notedOnly s1).changed hG)).trans hG
    (hcomputed.trans hG (Place.putByte_changed hG hset w s2))

end Operands

/-! ### Instructions that write a word operand -/

/-- The count of a shift as its byte. -/
def Count.byte (c : Count) (s : State) : Byte :=
  match c with
  | .imm b => b
  | .one => 1
  | .cl => s.reg8 .cl

theorem Count.shiftCount_byte (c : Count) (s : State) : shiftCount (c.byte s) = c.value s := by cases c <;> rfl

theorem runInstr_congr {m m' : M Unit} {s : State} (h : m s = m' s) : runInstr m s = runInstr m' s := by
  rw [runInstr, runInstr, h]

theorem exec_shiftWord (op : Shift) (e : Rm Reg) (c : Count) (s : State) :
    exec (op.word e c) s = runInstr (shiftEv op e (c.byte s)) s := by
  cases c with
  | imm b => cases op <;> rfl
  | one => cases op <;> rfl
  | cl =>
    have hexec : exec (op.word e .cl) s = runInstr (shiftEvCl op e) s := by cases op <;> rfl
    exact hexec.trans (runInstr_congr (bind_of_ok (get_apply s)))

theorem exec_shiftByte (op : Shift) (e : Rm Reg8) (c : Count) (s : State) :
    exec (op.byte e c) s = runInstr (shiftEb op e (c.byte s)) s := by
  cases c with
  | imm b => cases op <;> rfl
  | one => cases op <;> rfl
  | cl =>
    have hexec : exec (op.byte e .cl) s = runInstr (shiftEbCl op e) s := by cases op <;> rfl
    exact hexec.trans (runInstr_congr (bind_of_ok (get_apply s)))

theorem exec_doubleShift (right : Bool) (e : Rm Reg) (g : Reg) (c : Option Byte) (s : State) :
    exec (doubleShift right e g c) s = runInstr (shiftDoubleEv right e g (c.getD (s.reg8 .cl))) s := by
  cases c with
  | some b => cases right <;> rfl
  | none =>
    have hexec : exec (doubleShift right e g none) s = runInstr (shiftDoubleEvCl right e g) s := by cases right <;> rfl
    exact hexec.trans (runInstr_congr (bind_of_ok (get_apply s)))

theorem exec_bitByRegister (op : BitOp) (e : Rm Reg) (g : Reg) (s : State) :
    exec (op.byRegister e g) s = runInstr (bitByRegister op e g) s := by
  cases op <;> rfl

theorem exec_bitByImmediate (op : BitOp) (e : Rm Reg) (imm : Byte) (s : State) :
    exec (op.byImmediate e imm) s = runInstr (bitByImmediate op e imm) s := by
  cases op <;> rfl

/-- The instruction completes from `s` with its meaning inside the frame that `ps` and `G` give. -/
def CompletesWithin (ps : List Nat) (G : Gprs → Gprs → Prop) (i : Instr) (s : State) : Prop :=
  ∃ u, exec i s = .next (u.complete s.flags.tf) ∧ Changed ps G s u

section CompletesWithin

variable {ps : List Nat} {G : Gprs → Gprs → Prop} {i : Instr} {s t : State}

theorem CompletesWithin.of_run {m : M Unit} (hi : exec i s = runInstr m s)
    (h : ∃ u, m s = .ok () u ∧ Changed ps G s u) : CompletesWithin ps G i s := by
  obtain ⟨u, hu, hc⟩ := h
  exact ⟨u, hi.trans (runInstr_of_ok hu), hc⟩

theorem CompletesWithin.of_run_bySize {f : Nat → M Unit} (hi : exec i s = runInstr (bySize f) s)
    (h : ∃ u, f s.osBits s = .ok () u ∧ Changed ps G s u) : CompletesWithin ps G i s := by
  obtain ⟨u, hu, hc⟩ := h
  exact ⟨u, hi.trans (runInstr_bySize_of_ok hu), hc⟩

theorem CompletesWithin.operandFrame (h : CompletesWithin ps G i s) (ht : exec i s = .next t) :
    OperandFrame ps s t ∧ G s.gpr t.gpr := by
  obtain ⟨u, hu, hc⟩ := h
  obtain rfl : u.complete s.flags.tf = t := by simpa using hu.symm.trans ht
  exact hc.operandFrame _

end CompletesWithin

/-- What follows the reading of a source ends inside the frame, seen from before the source was read. -/
theorem changed_after_source {α : Type} {ps : List Nat} {G : Gprs → Gprs → Prop} (hG : RegsRel G) {x : M α} {b : α}
    (hx : Within Looks x) {s s0 : State} (hb : x s = .ok b s0) (hwf : Memory.wf s.mem = true) {m : M Unit}
    (h : Memory.wf s0.mem = true → ∃ u, m s0 = .ok () u ∧ Changed ps G s0 u) :
    ∃ u, m s0 = .ok () u ∧ Changed ps G s u := by
  obtain ⟨hwf0, hlook⟩ := hx.of_ok hb hwf
  obtain ⟨u, hu, hc⟩ := h hwf0
  exact ⟨u, hu, (hlook.changed hG).trans hG hc⟩

theorem Computes.changed {α : Type} {ps : List Nat} {G : Gprs → Gprs → Prop} (hG : RegsRel G) {f : α → M α}
    (h : Computes OnlyStatus f) : Computes (Changed ps G) f :=
  h.mono fun _ _ hs => hs.changed hG

section Places

variable {G : Gprs → Gprs → Prop} (hG : RegsRel G) {s s1 : State} (hwf : Memory.wf s.mem = true)
include hG hwf

/-- A word operand that is only written. -/
theorem put_changed_of_open {n : Nat} {e : Rm Reg} {p : Place Reg} (hp : openRm n e s = .ok p s1)
    (hset : ∀ r, p = .reg r → WritableWord n G r) (v : BitVec n) :
    Changed p.addresses G s (p.put v s1) :=
  (((openRm_looks n e).looked hwf hp).changed hG).trans hG (Place.put_changed hG hset v s1)

/-- A byte operand that is only written. -/
theorem putByte_changed_of_open {e : Rm Reg8} {p : Place Reg8} (hp : openRm 8 e s = .ok p s1)
    (hset : ∀ r, p = .reg r → WritableByte G r) (v : Byte) :
    Changed p.addresses G s (p.putByte v s1) :=
  (((openRm_looks 8 e).looked hwf hp).changed hG).trans hG (Place.putByte_changed hG hset v s1)

/-- A shift of a word operand; by 0 it leaves a register alone. -/
theorem shifted_changed {n cnt : Nat} {e : Rm Reg} {p : Place Reg} {f : BitVec n → M (BitVec n)}
    (h0 : cnt = 0 → isRegister e = true) (hp : openRm n e s = .ok p s1)
    (hset : ∀ r, p = .reg r → WritableWord n G r)
    (hf : Computes (Changed p.addresses G) f) :
    ∃ u, (if cnt = 0 then touchRm n e else modifyRm n e f) s = .ok () u ∧ Changed p.addresses G s u := by
  split
  · next hc =>
    cases e with
    | reg r => exact ⟨s, rfl, .refl hG s⟩
    | mem m => exact absurd (h0 hc) Bool.false_ne_true
  · exact modifyRm_changed hG hwf hp hset hf

/-- A shift of a byte operand; by 0 it leaves a register alone. -/
theorem shifted8_changed {cnt : Nat} {e : Rm Reg8} {p : Place Reg8} {f : Byte → M Byte}
    (h0 : cnt = 0 → isRegister e = true) (hp : openRm 8 e s = .ok p s1)
    (hset : ∀ r, p = .reg r → WritableByte G r)
    (hf : Computes (Changed p.addresses G) f) :
    ∃ u, (if cnt = 0 then touchRm8 e else modifyRm8 e f) s = .ok () u ∧ Changed p.addresses G s u := by
  split
  · next hc =>
    cases e with
    | reg r => exact ⟨s, rfl, .refl hG s⟩
    | mem m => exact absurd (h0 hc) Bool.false_ne_true
  · exact modifyRm8_changed hG hwf hp hset hf

end Places

/-- Bit tests by an immediate run on a memory operand as on any other operand that is read and written. -/
theorem bitInMemory_eq_modifyRm {op : BitOp} (h : op ≠ .bt) (n : Nat) (m : Mem) (i : Nat) (s : State) :
    bitInMemory op n (s.memSegment m) (s.ea m) i s = modifyRm n (.mem m) (bitValue op i) s := by
  rw [bitInMemory, if_neg h]
  rfl

/-- An instruction that writes a word operand completes inside the frame of that operand and of the registers it writes
besides. -/
theorem WritesWord.completesWithin {i : Instr} {e : Rm Reg} {other : List Reg} {s s0 s1 : State} {p : Place Reg}
    (hw : WritesWord i e other s s0) (hwf : Memory.wf s.mem = true) (hp : openRm s.osBits e s0 = .ok p s1) :
    CompletesWithin p.addresses (KeptWords s.osBits p other) i s := by
  have hG := regsRel_keptWords s.osBits p other
  have hset (r : Reg) (hr : p = .reg r ∨ r ∈ other) : WritableWord s.osBits (KeptWords s.osBits p other) r :=
    writableWord_keptWords hr
  have hput (r : Reg) (hr : p = .reg r) := hset r (.inl hr)
  cases hw with
  | alu op f _ _ b hop hb =>
    refine .of_run_bySize (exec_aluWord op f s) ?_
    rw [bind_of_ok hb, if_neg hop]
    exact changed_after_source hG (wordSource_looks _ f) hb hwf fun hwf0 =>
      modifyRm_changed hG hwf0 hp hput (Computes.changed hG (alu_computes op b))
  | unary op =>
    exact .of_run_bySize (exec_unaryWord op e s) (modifyRm_changed hG hwf hp hput (.changed hG (unary_computes op)))
  | incR r =>
    exact .of_run_bySize rfl (modifyRm_changed hG hwf hp hput (Computes.changed hG (unary_computes .inc)))
  | decR r =>
    exact .of_run_bySize rfl (modifyRm_changed hG hwf hp hput (Computes.changed hG (unary_computes .dec)))
  | shift op _ c _ hc =>
    refine .of_run_bySize (exec_shiftWord op e c s) ?_
    rw [c.shiftCount_byte]
    exact shifted_changed hG hwf hc hp hput (.changed hG (shift_computes op _))
  | shiftDouble right _ g c _ hc =>
    refine .of_run_bySize (exec_doubleShift right e g c s) ?_
    rw [bind_of_ok (get_apply s)]
    exact shifted_changed hG hwf hc hp hput (Computes.changed hG (shiftDouble_computes right _ _))
  | bitByRegister op r g =>
    refine .of_run_bySize (exec_bitByRegister op (.reg r) g s) ?_
    rw [bind_of_ok (get_apply s)]
    exact modifyRm_changed hG hwf hp hput (.changed hG (bitValue_computes op _))
  | bitByImmediate op _ imm _ h =>
    refine .of_run_bySize (exec_bitByImmediate op e imm s) ?_
    rw [bind_of_ok (get_apply s)]
    have hmodify := modifyRm_changed hG hwf hp hput (.changed hG (bitValue_computes op (imm.toNat % s.osBits)))
    cases e with
    | reg r => exact hmodify
    | mem m =>
      have hop : op ≠ .bt := fun hbt => absurd (h hbt) Bool.false_ne_true
      rw [← bitInMemory_eq_modifyRm hop] at hmodify
      exact hmodify
  | movEvGv _ g => exact ⟨_, (exec_mov_of_openRm hp g 0).1, put_changed_of_open hG hwf hp hput _⟩
  | movEvIv _ imm => exact ⟨_, (exec_mov_of_openRm hp .eax imm).2, put_changed_of_open hG hwf hp hput _⟩
  | movRIv r imm =>
    cases hp
    exact .of_run_bySize rfl ⟨_, rfl, .of_setReg (hput r rfl _ _)⟩
  | movGvEv g e' _ _ b hb =>
    have hlook := (readRm_looks _ e').looked hwf hb
    cases hp
    exact .of_run_bySize rfl ⟨_, setRegister_after hb g id, (hlook.changed hG).trans hG (.of_setReg (hput g rfl _ _))⟩
  | xchgEvGv _ g =>
    have hg := hset g (.inr (List.mem_singleton_self g))
    exact .of_run_bySize rfl (modifyRm_changed hG hwf hp hput (exchange_computes hg))
  | xchgEaxR r =>
    cases hp
    have heax (q : Reg) (hq : Place.reg Reg.eax = .reg q) := hset q (.inr (by cases hq; exact List.mem_singleton_self _))
    have hmodify := modifyRm_changed (e := .reg .eax) hG hwf rfl heax (exchange_computes (hput r rfl))
    exact .of_run_bySize rfl hmodify

/-! ### Instructions that write a byte operand -/

/-- An instruction that writes a byte operand completes inside the frame of that operand and of the byte registers it writes
besides. -/
theorem WritesByte.completesWithin {i : Instr} {e : Rm Reg8} {other : List Reg8} {s s0 s1 : State} {p : Place Reg8}
    (hw : WritesByte i e other s s0) (hwf : Memory.wf s.mem = true) (hp : openRm 8 e s0 = .ok p s1) :
    CompletesWithin p.addresses (KeptBytes p other) i s := by
  have hG := regsRel_keptBytes p other
  have hset (r : Reg8) (hr : p = .reg r ∨ r ∈ other) : WritableByte (KeptBytes p other) r := writableByte_keptBytes hr
  have hput (r : Reg8) (hr : p = .reg r) := hset r (.inl hr)
  cases hw with
  | alu op f _ _ b hop hb =>
    refine .of_run (exec_aluByte op f s) ?_
    rw [aluEb, bind_of_ok hb, if_neg hop]
    exact changed_after_source hG (byteSource_looks f) hb hwf fun hwf0 =>
      modifyRm8_changed hG hwf0 hp hput (Computes.changed hG (alu_computes op b))
  | unary op =>
    exact .of_run (exec_unaryByte op e s) (modifyRm8_changed hG hwf hp hput (.changed hG (unary_computes op)))
  | shift op _ c _ hc =>
    refine .of_run (exec_shiftByte op e c s) ?_
    rw [shiftEb, c.shiftCount_byte]
    exact shifted8_changed hG hwf hc hp hput (.changed hG (shift_computes op _))
  | setcc c x =>
    exact .of_run rfl
      ⟨_, (bind_of_ok (get_apply s)).trans (writeRm8_of_open _ hp), putByte_changed_of_open hG hwf hp hput _⟩
  | movEbGb _ g => exact ⟨_, (exec_mov_of_openRm8 hp g 0).1, putByte_changed_of_open hG hwf hp hput _⟩
  | movEbIb _ imm => exact ⟨_, (exec_mov_of_openRm8 hp .al imm).2, putByte_changed_of_open hG hwf hp hput _⟩
  | movR8Ib r imm =>
    cases hp
    exact .of_run (m := setRegister8 r imm) rfl ⟨_, rfl, .of_setReg (hput r rfl _ _)⟩
  | movGbEb g e' _ _ b hb =>
    have hlook := (readRm8_looks e').looked hwf hb
    cases hp
    exact .of_run rfl ⟨_, setRegister8_after hb g id, (hlook.changed hG).trans hG (.of_setReg (hput g rfl _ _))⟩
  | xchgEbGb _ g =>
    have hg := hset g (.inr (List.mem_singleton_self g))
    exact .of_run rfl (modifyRm8_changed hG hwf hp hput (exchange8_computes hg))

/-! ### Instructions that only read memory -/

theorem segProbe_looks (r : SegReg) (off : Word32) (n : Nat) (write : Bool) : Within Looks (segProbe r off n write) := by
  have hs := steps_looks
  exact within_bind hs (within_linear hs _ _ _ _) fun _ => within_bind hs (within_reads hs _) fun _ =>
    within_bind hs (physicalBytes_looks _ _ _ _) fun _ => within_pure hs _

section Reads

variable {s t : State} (hwf : Memory.wf s.mem = true)
include hwf

/-- BT of a memory operand reads it and writes flags. -/
theorem bitInMemory_bt_changed {n v : Nat} {r : SegReg} {off : Word32} (h : segRead r off (n / 8) s = .ok v t) (i : Nat) :
    ∃ u, bitInMemory .bt n r off i s = .ok () u ∧ Changed [] (fun g h => h = g) s u := by
  obtain ⟨w, u, hu, hstatus⟩ := bitValue_computes .bt i (BitVec.ofNat n v) t
  have hlook := (segRead_looks r off _).looked hwf h
  refine ⟨u, ?_, (hlook.changed regsRel_eq).trans regsRel_eq (hstatus.changed regsRel_eq)⟩
  rw [bitInMemory, if_pos rfl, bind_of_ok h, bind_of_ok hu, pure_apply]

/-- A shift of a memory operand by 0 checks it and reads it. -/
theorem touchMem_changed {α : Type} {n : Nat} {m : Mem} (h : Touched n (.mem m : Rm α) s t) :
    ∃ u, touchMem n m s = .ok () u ∧ Changed [] (fun g h => h = g) s u := by
  obtain ⟨s1, v, hprobe, hread⟩ := h
  obtain ⟨-, hlook⟩ := steps_looks.trans ((segProbe_looks _ _ _ _).of_ok hprobe) ((segRead_looks _ _ _).of_ok hread) hwf
  refine ⟨t, ?_, hlook.changed regsRel_eq⟩
  rw [touchMem, bind_of_ok (get_apply s), bind_of_ok hprobe, bind_of_ok hread, pure_apply]

/-- An instruction that only reads its memory operand completes with no byte and no general register written. -/
theorem ReadsMemory.completesWithin {i : Instr} (hr : ReadsMemory i s t) : CompletesWithin [] (fun g h => h = g) i s := by
  cases hr with
  | btByRegister m g _ _ v h =>
    refine .of_run_bySize (exec_bitByRegister .bt (.mem m) g s) ?_
    rw [bind_of_ok (get_apply s)]
    exact bitInMemory_bt_changed hwf h _
  | btByImmediate m imm _ _ v h =>
    refine .of_run_bySize (exec_bitByImmediate .bt (.mem m) imm s) ?_
    rw [bind_of_ok (get_apply s)]
    exact bitInMemory_bt_changed hwf h _
  | shift op m c _ _ hc ht =>
    refine .of_run_bySize (exec_shiftWord op (.mem m) c s) ?_
    rw [c.shiftCount_byte, if_pos hc]
    exact touchMem_changed hwf ht
  | shiftByte op m c _ _ hc ht =>
    refine .of_run (exec_shiftByte op (.mem m) c s) ?_
    rw [shiftEb, c.shiftCount_byte, if_pos hc]
    exact touchMem_changed hwf ht
  | shiftDouble right m g c _ _ hc ht =>
    refine .of_run_bySize (exec_doubleShift right (.mem m) g c s) ?_
    have hcount : shiftCount (c.getD (s.reg8 .cl)) = 0 := hc
    rw [bind_of_ok (get_apply s), if_pos hcount]
    exact touchMem_changed hwf ht

end Reads

/-! ### Bit strings in memory -/

/-- Reading and writing bytes at the addresses of an access keeps the registers and every other byte. -/
theorem modifyAt_changed {n : Nat} {r : SegReg} {off : Word32} {s s1 : State} {ps : List Nat} {f : BitVec n → M (BitVec n)}
    (hwf : Memory.wf s.mem = true) (h : dataAddresses r off (n / 8) true s = .ok ps s1) (hf : Computes OnlyStatus f) :
    ∃ u, modifyAt n r off f s = .ok () u ∧ Changed ps (fun g h => h = g) s u := by
  have hG := regsRel_eq
  obtain ⟨w, s2, hw, hstatus⟩ := hf (BitVec.ofNat n (ofBytes (s1.bytesAt ps))) (s1.afterReading ps)
  refine ⟨s2.afterWriting ps (toBytes (n / 8) w.toNat), ?_, ?_⟩
  · rw [modifyAt, bind_of_ok h, bind_of_ok (readBytes_ok ps s1), bind_of_ok hw, writeBytes_ok]
  · exact (((dataAddresses_looks _ _ _ _).looked hwf h).changed hG).trans hG
      (((s1.afterReading_notedOnly ps).changed hG).trans hG
        ((hstatus.changed hG).trans hG ((s2.afterWriting_wroteOnly ps _).changed hG)))

theorem completesWithin_bitString {op : BitOp} {m : Mem} {g : Reg} {s s1 : State} {ps : List Nat}
    (hwf : Memory.wf s.mem = true) (hop : op ≠ .bt)
    (h : dataAddresses (s.memSegment m) (s.bitAddress s.osBits m (s.regN s.osBits g).toInt) (s.osBits / 8) true s
      = .ok ps s1) :
    CompletesWithin ps (fun g h => h = g) (op.byRegister (.mem m) g) s := by
  refine .of_run_bySize (exec_bitByRegister op (.mem m) g s) ?_
  rw [bind_of_ok (get_apply s)]
  dsimp only
  rw [bitInMemory, if_neg hop]
  exact modifyAt_changed hwf h (bitValue_computes op _)

/-! ### Where an operand in memory lies -/

theorem dataAddresses_eq_of_flat {r : SegReg} {off : Word32} {n : Nat} {w : Bool} {s t : State} {ps : List Nat}
    (h : dataAddresses r off n w s = .ok ps t) (hs : s.flat = true) (hn : n ≤ 4096) :
    ps = byteAddresses ((s.seg r).base + off) n := by
  obtain ⟨lin, u, hlin, -⟩ := bind_eq_ok.1 h
  have hflat := dataAddresses_of_flat hn hs (linear_eq_ok.1 hlin).1
  rw [h] at hflat
  cases hflat
  rfl

theorem openRm_eq_of_flat {α : Type} {n : Nat} {m : Mem} {s t : State} {p : Place α} (h : openRm n (.mem m) s = .ok p t)
    (hs : s.flat = true) (hn : n / 8 ≤ 4096) :
    p = .bytes (byteAddresses ((s.seg (s.memSegment m)).base + s.ea m) (n / 8)) := by
  rw [openRm, bind_of_ok (get_apply s)] at h
  obtain ⟨ps, u, hps, hp⟩ := bind_eq_ok.1 h
  cases hp
  rw [dataAddresses_eq_of_flat hps hs hn]

theorem State.osBits_div_le (s : State) : s.osBits / 8 ≤ 4096 := by
  rw [s.osBits_div]
  split <;> decide

/-- Settles O52: each family completes inside its frame, and in ordinary memory the effective address says where that is. -/
theorem operandFormsFrame : Obligations.OperandFormsFrame := by
  refine ⟨?_, ?_, ?_, ?_⟩
  · intro i e other s s0 s1 t p hwf hw hp ht
    obtain ⟨hframe, hkept⟩ := (hw.completesWithin hwf hp).operandFrame ht
    refine ⟨hframe, hkept.others, fun h16 => hkept.high (if_neg (by simp [h16])), ?_⟩
    rintro m rfl hflat
    exact openRm_eq_of_flat hp hflat s.osBits_div_le
  · intro op m g s s1 t ps hwf hop a hps ht
    obtain ⟨hframe, hgpr⟩ := (completesWithin_bitString hwf hop hps).operandFrame ht
    exact ⟨hframe, hgpr, fun hflat => dataAddresses_eq_of_flat hps hflat s.osBits_div_le⟩
  · intro i e other s s0 s1 t p hwf hw hp ht
    obtain ⟨hframe, hkept⟩ := (hw.completesWithin hwf hp).operandFrame ht
    refine ⟨hframe, hkept.others, hkept.high, hkept.whole, ?_⟩
    rintro m rfl hflat
    exact openRm_eq_of_flat hp hflat (by decide)
  · intro i s s1 t hwf hr ht
    exact (hr.completesWithin hwf).operandFrame ht

end Sys2Proof.Machine

/-! Shifts and rotates (42_shift_rotate.md R421 to R430): the meaning that each form shares with the others of its family, what
a shift does to the exact value of its operand, and where a rotate moves each bit. -/

namespace Sys2Proof.Machine

/-! ### Counts of 0 -/

section Untouched

variable {s t : State}

theorem touchMem_of_touched {α : Type} {n : Nat} {m : Mem} (h : Touched n (.mem m : Rm α) s t) :
    touchMem n m s = .ok () t := by
  obtain ⟨s1, v, hprobe, hread⟩ := h
  rw [touchMem, bind_of_ok (get_apply s), bind_of_ok hprobe, bind_of_ok hread, pure_apply]

theorem touchRm_of_touched {n : Nat} {e : Rm Reg} (h : Touched n e s t) : touchRm n e s = .ok () t := by
  cases e with
  | reg r => exact congrArg _ (Eq.symm h)
  | mem m => exact touchMem_of_touched h

theorem touchRm8_of_touched {e : Rm Reg8} (h : Touched 8 e s t) : touchRm8 e s = .ok () t := by
  cases e with
  | reg r => exact congrArg _ (Eq.symm h)
  | mem m => exact touchMem_of_touched h

end Untouched

/-! ### The shifts and rotates in every form -/

theorem shift_apply {n : Nat} (op : Shift) (cnt : Nat) (a : BitVec n) (s : State) :
    shift op cnt a s =
      let r := shiftCompute op s.flags a cnt s.fresh
      .ok r.1 (s.drawn.withFlags r.2) := rfl

/-- Settles O8: the forms share one meaning, which touches the operand for a count of 0 and else opens it and computes. -/
theorem shiftFormsComplete : Obligations.ShiftFormsComplete := by
  refine ⟨fun op e c s => ⟨fun h0 t ht => ?_, fun h0 s1 p hp => ?_⟩,
    fun op e c s => ⟨fun h0 t ht => ?_, fun h0 s1 p hp => ?_⟩⟩
  · rw [exec_shiftWord, shiftEv, c.shiftCount_byte]
    exact runInstr_bySize_of_ok (by rw [if_pos h0, touchRm_of_touched ht])
  · rw [exec_shiftWord, shiftEv, c.shiftCount_byte]
    exact runInstr_bySize_of_ok (by rw [if_neg h0, modifyRm_of_open hp (shift_apply op _ _ _)])
  · rw [exec_shiftByte, shiftEb, c.shiftCount_byte, if_pos h0]
    exact runInstr_of_ok (touchRm8_of_touched ht)
  · rw [exec_shiftByte, shiftEb, c.shiftCount_byte, if_neg h0]
    exact runInstr_of_ok (modifyRm8_of_open hp (shift_apply op _ _ _))

/-! ### Bits and exact values -/

section Values

variable {n : Nat}

theorem bitAt_eq_decide (v : BitVec n) (i : Nat) : bitAt v i = decide (v.toNat / 2 ^ i % 2 = 1) := by
  rw [bitAt, ← BitVec.testBit_toNat, Nat.testBit_eq_decide_div_mod_eq]

/-- The lowest bit of a value tells whether it is odd, as a signed number too. -/
theorem bitAt_zero_eq_decide_toInt (hn : 0 < n) (v : BitVec n) : bitAt v 0 = decide (v.toInt % 2 = 1) := by
  obtain ⟨-, -, -, hint⟩ := toInt_eq_msb_half hn v
  rw [bitAt_eq_decide, Nat.pow_zero, Nat.div_one, decide_eq_decide, hint]
  omega

theorem toInt_sshiftRight_eq_div (a : BitVec n) (cnt : Nat) : (a.sshiftRight cnt).toInt = a.toInt / 2 ^ cnt := by
  rw [BitVec.toInt_sshiftRight, Int.shiftRight_eq_div_pow]
  push_cast
  rfl

/-- The last bit that SAR shifts out is the lowest bit of the value shifted by one place less; from the width on that is the
sign. -/
theorem sar_carry (hn : 0 < n) {cnt : Nat} (hcnt : 0 < cnt) (f : Flags) (a : BitVec n) (u : Word32) :
    (shiftCompute .sar f a cnt u).2.cf = decide (a.toInt / 2 ^ (cnt - 1) % 2 = 1) := by
  rw [← toInt_sshiftRight_eq_div, ← bitAt_zero_eq_decide_toInt hn]
  simp only [shiftCompute, bitAt, BitVec.getLsbD_sshiftRight, Nat.add_zero]
  by_cases hle : cnt ≤ n
  · simp [hle, Nat.ne_of_gt hn, show cnt - 1 < n by omega]
  · simp [hle, Nat.ne_of_gt hn, show ¬ cnt - 1 < n by omega]

/-- Doubling leaves the range of the width exactly where the two highest bits of the operand differ. -/
theorem shl_one_ovf_iff (hn : 0 < n) (f : Flags) (a : BitVec n) (u : Word32) :
    (shiftCompute .shl f a 1 u).2.ovf = true ↔ (shiftCompute .shl f a 1 u).1.toInt ≠ 2 * a.toInt := by
  have hovf : (shiftCompute .shl f a 1 u).2.ovf = true ↔ ¬ ((a <<< 1).msb = true ↔ a.msb = true) := by
    rw [← Bool.eq_iff_iff, BitVec.msb_eq_getLsbD_last a]
    simp [shiftCompute, bitAt, show 1 ≤ n from hn]
  obtain ⟨hpow, ha, hma, hia⟩ := toInt_eq_msb_half hn a
  obtain ⟨-, hr, hmr, hir⟩ := toInt_eq_msb_half hn (a <<< 1)
  have hdouble : ((a <<< 1).toNat : Int) = 2 * a.toNat
      - if 2 ^ (n - 1) ≤ a.toNat then 2 * ((2 ^ (n - 1) : Nat) : Int) else 0 := by
    rw [BitVec.toNat_shiftLeft, Nat.shiftLeft_eq, Nat.pow_one, Nat.mul_comm, hpow]
    split
    · rw [Nat.mod_eq_sub_mod (by omega), Nat.mod_eq_of_lt (by omega)]
      omega
    · rw [Nat.mod_eq_of_lt (by omega)]
      omega
  rw [hovf, hma, hmr]
  show _ ↔ (a <<< 1).toInt ≠ 2 * a.toInt
  rw [hia, hir]
  omega

end Values

/-! ### Where a rotate moves a bit -/

section Rotates

variable {n : Nat}

theorem bitAt_rotateLeft (a : BitVec n) (cnt : Nat) {i : Nat} (hi : i < n) :
    bitAt (rotateLeft a (cnt % n)) ((i + cnt) % n) = bitAt a i := by
  have hc : cnt % n < n := Nat.mod_lt _ (by omega)
  show (a.rotateLeft cnt).getLsbD ((i + cnt) % n) = a.getLsbD i
  rw [BitVec.getLsbD_rotateLeft, Nat.add_mod_eq_ite, Nat.mod_eq_of_lt hi]
  split
  · next h =>
    rw [decide_eq_true (by omega), cond_true]
    congr 1
    omega
  · next h =>
    rw [decide_eq_false (by omega), cond_false, decide_eq_true (by omega), Bool.true_and, Nat.add_sub_cancel]

theorem bitAt_rotateRight (a : BitVec n) (cnt : Nat) {i : Nat} (hi : i < n) :
    bitAt (rotateRight a (cnt % n)) i = bitAt a ((i + cnt) % n) := by
  have hc : cnt % n < n := Nat.mod_lt _ (by omega)
  show (a.rotateRight cnt).getLsbD i = a.getLsbD ((i + cnt) % n)
  rw [BitVec.getLsbD_rotateRight, Nat.add_mod_eq_ite, Nat.mod_eq_of_lt hi]
  split
  · next h =>
    rw [decide_eq_false (by omega), cond_false, decide_eq_true hi, Bool.true_and]
    congr 1
    omega
  · next h => rw [decide_eq_true (by omega), cond_true, Nat.add_comm]

theorem withCarry_eq_cons (c : Bool) (a : BitVec n) : withCarry c a = BitVec.cons c a := by
  rw [withCarry, Nat.add_comm a.toNat, ← Nat.shiftLeft_eq, ← BitVec.toNat_cons', BitVec.ofNat_toNat, BitVec.setWidth_eq]

/-- CF and the operand, taken apart and put together again. -/
theorem withCarry_msb_setWidth (t : BitVec (n + 1)) : withCarry t.msb (t.setWidth n) = t := by
  rw [withCarry_eq_cons, BitVec.cons_msb_setWidth]

theorem withCarry_rcl (f : Flags) (a : BitVec n) (cnt : Nat) (u : Word32) :
    withCarry (shiftCompute .rcl f a cnt u).2.cf (shiftCompute .rcl f a cnt u).1 =
      rotateLeft (withCarry f.cf a) (cnt % (n + 1)) :=
  withCarry_msb_setWidth _

theorem withCarry_rcr (f : Flags) (a : BitVec n) (cnt : Nat) (u : Word32) :
    withCarry (shiftCompute .rcr f a cnt u).2.cf (shiftCompute .rcr f a cnt u).1 =
      rotateRight (withCarry f.cf a) (cnt % (n + 1)) :=
  withCarry_msb_setWidth _

end Rotates

/-! ### The flags that shifts and rotates write -/

section ShiftFlags

variable {n : Nat} (f : Flags) (a : BitVec n) (cnt : Nat) (u : Word32)

theorem shiftCompute_flags_of_shift {op : Shift} (hop : op ∈ [Shift.shl, .shr, .sar]) :
    let r := shiftCompute op f a cnt u
    (r.2.zf = true ↔ r.1 = 0) ∧ r.2.sf = r.1.msb ∧ r.2.pf = evenParity (r.1.setWidth 8)
      ∧ r.2 = { f with cf := r.2.cf, ovf := r.2.ovf, zf := r.2.zf, sf := r.2.sf, pf := r.2.pf, af := r.2.af } := by
  cases op with
  | shl | shr | sar => exact ⟨beq_iff_eq, rfl, rfl, rfl⟩
  | rol | ror | rcl | rcr => simp at hop

theorem shiftCompute_flags_of_rotate {op : Shift} (hop : op ∈ [Shift.rol, .ror, .rcl, .rcr]) :
    let r := shiftCompute op f a cnt u
    r.2 = { f with cf := r.2.cf, ovf := r.2.ovf } := by
  cases op with
  | rol | ror | rcl | rcr => rfl
  | shl | shr | sar => simp at hop

end ShiftFlags

/-- Settles O9: shifts as multiplication and division, rotates by where they move each bit; the flags are the model's own
equations. -/
theorem shiftResults : Obligations.ShiftResults := by
  intro n f a cnt u hn hcnt shl shr sar rol ror rcl rcr
  have hpos : 0 < n := by omega
  refine ⟨?_, fun hle => ?_, ?_, ?_, fun hle => ?_, fun h => if_pos h, toInt_sshiftRight_eq_div a cnt,
    sar_carry hpos hcnt f a u, fun h => if_pos h, fun i hi => bitAt_rotateLeft a cnt hi, rfl, fun h => if_pos h,
    fun i hi => bitAt_rotateRight a cnt hi, rfl, fun h => if_pos h, fun i hi => ?_, fun h => if_pos h, fun i hi => ?_,
    fun h => if_pos h, ?_, ?_⟩
  · exact BitVec.toNat_shiftLeft.trans (by rw [Nat.shiftLeft_eq])
  · exact (if_pos hle).trans (bitAt_eq_decide a _)
  · rintro rfl
    exact shl_one_ovf_iff hpos f a u
  · exact (BitVec.toNat_ushiftRight a cnt).trans (Nat.shiftRight_eq_div_pow _ _)
  · exact (if_pos hle).trans (bitAt_eq_decide a _)
  · rw [withCarry_rcl]
    exact bitAt_rotateLeft _ cnt (by omega)
  · rw [withCarry_rcr]
    exact bitAt_rotateRight _ cnt (by omega)
  · have hmap : [shl, shr, sar] = [Shift.shl, .shr, .sar].map fun op => shiftCompute op f a cnt u := rfl
    rw [hmap, List.forall_mem_map]
    exact fun op hop => shiftCompute_flags_of_shift f a cnt u hop
  · have hmap : [rol, ror, rcl, rcr] = [Shift.rol, .ror, .rcl, .rcr].map fun op => shiftCompute op f a cnt u := rfl
    rw [hmap, List.forall_mem_map]
    exact fun op hop => shiftCompute_flags_of_rotate f a cnt u hop

/-! ### SHLD and SHRD -/

/-- The value that SHLD, or SHRD when `right`, leaves for a count up to the width (42_shift_rotate.md R429, R430). -/
def doubleResult {n : Nat} (right : Bool) (cnt : Nat) (a b : BitVec n) : BitVec n :=
  if right then (a >>> cnt) ||| (b <<< (n - cnt)) else (a <<< cnt) ||| (b >>> (n - cnt))

/-- The flags that go with it; the bit shifted out last is CF. -/
def Flags.ofDouble {n : Nat} (f : Flags) (right : Bool) (cnt : Nat) (a b : BitVec n) (u : Word32) : Flags :=
  let r := doubleResult right cnt a b
  { f.ofResult r with
    cf := if right then bitAt a (cnt - 1) else bitAt a (n - cnt)
    af := bitAt u 4
    ovf := if cnt = 1 then r.msb ^^ a.msb else bitAt u 11 }

section Double

variable {n cnt : Nat}

theorem shiftDouble_of_le (h : cnt ≤ n) (right : Bool) (a b : BitVec n) (s : State) :
    shiftDouble right cnt a b s =
      .ok (doubleResult right cnt a b) (s.drawn.withFlags (s.flags.ofDouble right cnt a b s.fresh)) := by
  rw [shiftDouble, bind_of_ok (draw_apply s), if_neg (Nat.not_lt.2 h)]
  rfl

theorem shiftDouble_of_lt (h : n < cnt) (right : Bool) (a b : BitVec n) (s : State) :
    shiftDouble right cnt a b s =
      .ok (s.drawn.fresh.setWidth n) (s.drawn.drawn.withFlags (s.flags.undefined s.fresh)) := by
  rw [shiftDouble, bind_of_ok (draw_apply s), if_pos h]
  rfl

variable {e : Rm Reg} {c : Option Byte} {s : State}

theorem exec_doubleShift_of_touched (right : Bool) (g : Reg) {t : State} (h0 : doubleCount c s = 0)
    (ht : Touched s.osBits e s t) : exec (doubleShift right e g c) s = .next (t.complete s.flags.tf) := by
  rw [exec_doubleShift]
  refine runInstr_bySize_of_ok ?_
  rw [bind_of_ok (get_apply s)]
  exact (congrFun (if_pos h0) s).trans (touchRm_of_touched ht)

theorem exec_doubleShift_of_open (right : Bool) (g : Reg) {s1 s2 : State} {p : Place Reg} {v : BitVec s.osBits}
    (h0 : doubleCount c s ≠ 0) (hp : openRm s.osBits e s = .ok p s1)
    (hv : shiftDouble right (doubleCount c s) (p.value s.osBits s1) (s.regN s.osBits g) (p.seen s1) = .ok v s2) :
    exec (doubleShift right e g c) s = .next ((p.put v s2).complete s.flags.tf) := by
  rw [exec_doubleShift]
  refine runInstr_bySize_of_ok ?_
  rw [bind_of_ok (get_apply s)]
  exact (congrFun (if_neg h0) s).trans (modifyRm_of_open hp hv)

end Double

/-- Settles O10: both ways of counting share one meaning, whose two instructions differ in what `doubleResult` gives. -/
theorem doubleShiftFormsComplete : Obligations.DoubleShiftFormsComplete := by
  intro e g imm byCl s n cnt shld shrd
  obtain ⟨c, hcnt, hshld, hshrd⟩ : ∃ c, cnt = doubleCount c s ∧ shld = exec (doubleShift false e g c) s
      ∧ shrd = exec (doubleShift true e g c) s := by
    cases byCl with
    | false => exact ⟨some imm, rfl, rfl, rfl⟩
    | true => exact ⟨none, rfl, rfl, rfl⟩
  clear_value cnt
  subst hcnt
  rw [hshld, hshrd]
  refine ⟨fun h0 t ht => ?_, fun s1 p hp => ⟨fun hpos hle => ?_, fun hlt => ?_⟩⟩
  · exact ⟨exec_doubleShift_of_touched false g h0 ht, exec_doubleShift_of_touched true g h0 ht⟩
  · have hdone (right : Bool) :=
      exec_doubleShift_of_open right g (by omega) hp (shiftDouble_of_le hle right _ (s.regN n g) (p.seen s1))
    exact ⟨hdone false, hdone true⟩
  · have hfree (right : Bool) :=
      exec_doubleShift_of_open right g (by omega) hp (shiftDouble_of_lt hlt right _ (s.regN n g) (p.seen s1))
    exact ⟨hfree false, hfree true⟩

end Sys2Proof.Machine

/-! The string instructions (43_string.md R440 to R448): what one element does given where its bytes lie, and what the
repeat prefixes make of it. -/

namespace Sys2Proof.Machine

/-! ### The parts of an element -/

@[simp] theorem stepIndex_apply (n : Nat) (r : Reg) (s : State) : stepIndex n r s = .ok () (s.advance n r) := rfl

@[simp] theorem accumulator_apply (n : Nat) (s : State) : accumulator n s = .ok (s.regN n .eax) s := rfl

theorem setRegister_apply {n : Nat} (r : Reg) (v : BitVec n) (s : State) :
    setRegister r v s = .ok () (s.setRegN r v) := rfl

theorem setFlags_apply (g : Flags → Flags) (s : State) : setFlags g s = .ok () (s.withFlags (g s.flags)) := rfl

theorem ioRead_apply (port : Word16) (n : Nat) (s : State) :
    ioRead port n s =
      .ok ((Config.portInput s.ioTrace port n).toNat % 256 ^ n) { s with ioTrace := .portRead port n :: s.ioTrace } := rfl

theorem ioWrite_apply (port : Word16) (n : Nat) (v : Word32) (s : State) :
    ioWrite port n v s = .ok () { s with ioTrace := .portWrite port n v :: s.ioTrace } := rfl

section Elements

variable {n v : Nat} {s t : State} {ps : List Nat}

theorem sourceElement_of_segRead (h : segRead s.dataSegment (s.indexReg .esi) (n / 8) s = .ok v t) :
    sourceElement n s = .ok (BitVec.ofNat n v) t := by
  rw [sourceElement, bind_of_ok (get_apply s), bind_of_ok h, pure_apply]

theorem destElement_of_segRead (h : segRead .es (s.indexReg .edi) (n / 8) s = .ok v t) :
    destElement n s = .ok (BitVec.ofNat n v) t := by
  rw [destElement, bind_of_ok (get_apply s), bind_of_ok h, pure_apply]

theorem writeDest_of_dataAddresses (x : BitVec n) (h : dataAddresses .es (s.indexReg .edi) (n / 8) true s = .ok ps t) :
    writeDest x s = .ok () (t.afterWriting ps (toBytes (n / 8) x.toNat)) := by
  rw [writeDest, bind_of_ok (get_apply s), segWrite_of_dataAddresses _ h]

/-! ### The elements with a source -/

section Source

variable {s1 : State} (h : segRead s.dataSegment (s.indexReg .esi) (n / 8) s = .ok v s1)
include h

theorem movsElement_of_source (hd : dataAddresses .es (s1.indexReg .edi) (n / 8) true s1 = .ok ps t) :
    movsElement n s =
      .ok () (((t.afterWriting ps (toBytes (n / 8) (BitVec.ofNat n v).toNat)).advance n .esi).advance n .edi) := by
  rw [movsElement, bind_of_ok (sourceElement_of_segRead h), bind_of_ok (writeDest_of_dataAddresses _ hd),
    bind_of_ok (stepIndex_apply n .esi _), stepIndex_apply]

theorem cmpsElement_of_source {w : Nat} (hd : segRead .es (s1.indexReg .edi) (n / 8) s1 = .ok w t) :
    cmpsElement n s =
      .ok () (((t.withFlags (t.flags.sub (BitVec.ofNat n v) (BitVec.ofNat n w) false)).advance n .esi).advance n .edi) := by
  rw [cmpsElement, bind_of_ok (sourceElement_of_segRead h), bind_of_ok (destElement_of_segRead hd),
    bind_of_ok (setFlags_apply _ t), bind_of_ok (stepIndex_apply n .esi _), stepIndex_apply]

theorem lodsElement_of_source : lodsElement n s = .ok () ((s1.setRegN .eax (BitVec.ofNat n v)).advance n .esi) := by
  rw [lodsElement, bind_of_ok (sourceElement_of_segRead h), bind_of_ok (setRegister_apply .eax _ s1), stepIndex_apply]

theorem outsElement_of_source (hio : s.ioAllowed = true) :
    outsElement n s =
      .ok () (({ s1 with ioTrace := .portWrite (s1.regN 16 .edx) (n / 8) ((BitVec.ofNat n v).setWidth 32) :: s1.ioTrace }
        : State).advance n .esi) := by
  rw [outsElement, bind_of_ok (ioSensitive_of_allowed hio), bind_of_ok (sourceElement_of_segRead h),
    bind_of_ok (get_apply s1), bind_of_ok (ioWrite_apply _ _ _ s1), stepIndex_apply]

end Source

/-! ### The elements with a destination only -/

theorem scasElement_of_dest (h : segRead .es (s.indexReg .edi) (n / 8) s = .ok v t) :
    scasElement n s =
      .ok () ((t.withFlags (t.flags.sub (t.regN n .eax) (BitVec.ofNat n v) false)).advance n .edi) := by
  rw [scasElement, bind_of_ok (destElement_of_segRead h), bind_of_ok (accumulator_apply n t),
    bind_of_ok (setFlags_apply _ t), stepIndex_apply]

theorem stosElement_of_dest (h : dataAddresses .es (s.indexReg .edi) (n / 8) true s = .ok ps t) :
    stosElement n s = .ok () ((t.afterWriting ps (toBytes (n / 8) (s.regN n .eax).toNat)).advance n .edi) := by
  rw [stosElement, bind_of_ok (accumulator_apply n s), bind_of_ok (writeDest_of_dataAddresses _ h), stepIndex_apply]

theorem insElement_of_probe {s1 : State} (hio : s.ioAllowed = true)
    (hprobe : segProbe .es (s.indexReg .edi) (n / 8) true s = .ok () s1)
    (hd : dataAddresses .es (s1.indexReg .edi) (n / 8) true
      { s1 with ioTrace := .portRead (s.regN 16 .edx) (n / 8) :: s1.ioTrace } = .ok ps t) :
    insElement n s =
      .ok () ((t.afterWriting ps (toBytes (n / 8) (BitVec.ofNat n
        ((Config.portInput s1.ioTrace (s.regN 16 .edx) (n / 8)).toNat % 256 ^ (n / 8))).toNat)).advance n .edi) := by
  rw [insElement, bind_of_ok (ioSensitive_of_allowed hio), bind_of_ok (get_apply s), bind_of_ok hprobe,
    bind_of_ok (ioRead_apply _ _ s1), bind_of_ok (writeDest_of_dataAddresses _ hd), stepIndex_apply]

end Elements

/-- Settles O26: an element is its accesses in their order, then its indexes moved; the size of the element is free. -/
theorem stringElements : Obligations.StringElements := by
  intro n s s1 s2 v w ps _
  exact ⟨fun h => ⟨movsElement_of_source h, cmpsElement_of_source h, lodsElement_of_source h, outsElement_of_source h⟩,
    scasElement_of_dest, stosElement_of_dest, insElement_of_probe⟩

/-! ### The repeat prefixes -/

/-- F2h before an instruction that does not compare is as good as nothing (assumption log 22). -/
theorem repeats_eq_false_iff (c : Bool) (k : Option RepKind) :
    repeats c k = false ↔ k = none ∨ (k = some .repne ∧ c = false) := by
  match k with
  | none => simp [repeats]
  | some .rep => simp [repeats]
  | some .repne => simp [repeats]

theorem repeats_eq_true_iff (c : Bool) (k : Option RepKind) :
    repeats c k = true ↔ k = some .rep ∨ (k = some .repne ∧ c = true) := by
  match k with
  | none => simp [repeats]
  | some .rep => simp [repeats]
  | some .repne => simp [repeats]

/-- ZF ends a repeated comparison when it is 1 under F2h and 0 under F3h. -/
theorem stopsOnZero_of_repeats {c : Bool} {k : Option RepKind} (h : repeats c k = true) (zf : Bool) :
    stopsOnZero c k zf = (c && zf == (k == some .repne)) := by
  obtain rfl | ⟨rfl, rfl⟩ := (repeats_eq_true_iff c k).1 h
  · cases c with
    | false => rfl
    | true => cases zf <;> rfl
  · cases zf <;> rfl

section Repeated

variable {c : Bool} {m : M Unit} {s s1 : State}

theorem repeated_of_not_repeats (h : repeats c s.cur.rep = false) : repeated c m s = m s := by
  rw [repeated, bind_of_ok (get_apply s), h]
  rfl

variable (h : repeats c s.cur.rep = true)
include h

theorem repeated_of_count_zero (h0 : s.indexReg .ecx = 0) : repeated c m s = .ok () s := by
  rw [repeated, bind_of_ok (get_apply s), h, h0]
  rfl

/-- An element of a repeated instruction is counted, and the instruction goes on unless the count or ZF ends it. -/
theorem repeated_of_element (h0 : s.indexReg .ecx ≠ 0) (hm : m s = .ok () s1) :
    let last := s1.withIndexReg .ecx (s1.indexReg .ecx - 1)
    repeated c m s =
      .ok () (if last.indexReg .ecx = 0 ∨ (c && last.flags.zf == (s.cur.rep == some .repne)) = true then last
        else { last with cur := { last.cur with repeats := true } }) := by
  intro last
  have hcount : update (fun u => u.withIndexReg .ecx (u.indexReg .ecx - 1)) s1 = .ok () last := update_apply _ s1
  rw [repeated, bind_of_ok (get_apply s), h, ite_apply, if_neg (by decide), ite_apply, if_neg h0, bind_of_ok hm,
    bind_of_ok hcount, bind_of_ok (get_apply last), ite_apply, stopsOnZero_of_repeats h, pure_apply, update_apply,
    apply_ite (EStateM.Result.ok ())]

end Repeated

/-! ### The instructions -/

theorem exec_stringByte (op : StringOp) (s : State) :
    exec op.byte s = runInstr (repeated op.compares (op.element 8)) s := by cases op <;> rfl

theorem exec_stringWord (op : StringOp) (s : State) :
    exec op.word s = runInstr (bySize fun n => repeated op.compares (op.element n)) s := by cases op <;> rfl

theorem exec_string_of_repeated (op : StringOp) (wide : Bool) {s t : State}
    (h : repeated op.compares (op.element (if wide then s.osBits else 8)) s = .ok () t) :
    exec (if wide then op.word else op.byte) s = .next (t.complete s.flags.tf) := by
  cases wide with
  | false => exact (exec_stringByte op s).trans (runInstr_of_ok h)
  | true => exact (exec_stringWord op s).trans (runInstr_bySize_of_ok h)

/-- Settles O27: an instruction that is not repeated is its element; one that is counts it, and a count of 0 has none. -/
theorem stringInstructionsComplete : Obligations.StringInstructionsComplete := by
  intro op wide s s1 i n last more ends
  refine ⟨fun hrep hm => ?_, fun hrep => ⟨fun h0 => ?_, fun h0 hm => ?_⟩⟩
  · exact exec_string_of_repeated op wide ((repeated_of_not_repeats ((repeats_eq_false_iff _ _).2 hrep)).trans hm)
  · exact exec_string_of_repeated op wide (repeated_of_count_zero ((repeats_eq_true_iff _ _).2 hrep) h0)
  · exact exec_string_of_repeated op wide (repeated_of_element ((repeats_eq_true_iff _ _).2 hrep) h0 hm)

end Sys2Proof.Machine

/-! The bit instructions (44_bit.md R460 to R466): a bit test by the bit it tests and where that bit lies, and a scan by the
bit it finds. -/

namespace Sys2Proof.Machine

/-! ### Testing a bit -/

/-- The state after a bit was tested: CF is the bit and the other status flags are free values (44_bit.md R461). -/
def State.withTestedBit (s : State) (b : Bool) : State :=
  s.drawn.withFlags { s.flags.undefined s.fresh with cf := b }

@[simp] theorem State.gpr_withTestedBit (s : State) (b : Bool) : (s.withTestedBit b).gpr = s.gpr := rfl

theorem bitValue_apply {n : Nat} (op : BitOp) (i : Nat) (v : BitVec n) (s : State) :
    bitValue op i v s = .ok (bitResult op v i) (s.withTestedBit (bitAt v i)) := rfl

/-! ### Bits of a register -/

theorem insertLow_setWidth (n : Nat) (old : Word32) : insertLow old (old.setWidth n) = old := by
  ext i hi
  by_cases hlow : i < n
  · simp [insertLow, hlow, BitVec.getLsbD_eq_getElem hi]
  · simp [insertLow, hlow, Nat.add_sub_cancel' (Nat.not_lt.1 hlow), BitVec.getLsbD_eq_getElem hi]

/-- A register written with what it holds is the same. -/
theorem State.setReg_reg (s : State) (r : Reg) : s.setReg r (s.reg r) = s := by
  cases r <;> rfl

theorem State.setRegN_regN (s : State) (n : Nat) (r : Reg) : s.setRegN r (s.regN n r) = s := by
  rw [State.setRegN, State.regN, insertLow_setWidth, State.setReg_reg]

/-- The bit tests write back their result; for BT that is what the register holds. -/
theorem bitInRegister_apply (op : BitOp) (n : Nat) (r : Reg) (i : Nat) (s : State) :
    bitInRegister op n r i s =
      let t := s.withTestedBit (bitAt (s.regN n r) i)
      .ok () (if op = .bt then t else t.setRegN r (bitResult op (s.regN n r) i)) := by
  have hmodify : bitInRegister op n r i s =
      .ok () ((s.withTestedBit (bitAt (s.regN n r) i)).setRegN r (bitResult op (s.regN n r) i)) :=
    modifyRm_of_open (p := .reg r) rfl (bitValue_apply op i _ s)
  rw [hmodify]
  cases op with
  | bt => exact congrArg _ ((s.withTestedBit _).setRegN_regN n r)
  | bts | btr | btc => rfl

/-- Signed and unsigned offsets are the same modulo a size that divides the range. -/
theorem toNat_toInt_emod {n : Nat} (h : n ∣ 2 ^ n) (v : BitVec n) : (v.toInt % n).toNat = v.toNat % n := by
  have hmod : v.toInt % n = (v.toNat : Int) % n := by
    obtain ⟨k, hk⟩ := h
    rw [BitVec.toInt_eq_toNat_cond]
    split
    · rfl
    · rw [hk, Int.natCast_mul, Int.sub_mul_emod_self_left]
  rw [hmod, ← Int.natCast_emod, Int.toNat_natCast]

theorem State.osBits_dvd (s : State) : s.osBits ∣ 2 ^ s.osBits := by
  obtain h | h := s.osBits_cases <;> rw [h] <;> decide

/-- Settles O11: both ways of giving the offset test the same bit, and the offset counts modulo the size. -/
theorem bitTestRegisterFormsComplete : Obligations.BitTestRegisterFormsComplete := by
  intro op r g imm s n v t done
  have hdone (i : Nat) : bitInRegister op n r i s = .ok () (done i) := by
    rw [bitInRegister_apply]
    cases op <;> rfl
  constructor
  · rw [exec_bitByRegister]
    refine runInstr_bySize_of_ok ?_
    rw [bind_of_ok (get_apply s), ← toNat_toInt_emod s.osBits_dvd]
    exact hdone _
  · rw [exec_bitByImmediate]
    refine runInstr_bySize_of_ok ?_
    rw [bind_of_ok (get_apply s)]
    exact hdone _

/-! ### Bits of memory -/

section Memory

variable {n v : Nat} {r : SegReg} {off : Word32} {s s1 : State}

theorem bitInMemory_bt_of_segRead (h : segRead r off (n / 8) s = .ok v s1) (i : Nat) :
    bitInMemory .bt n r off i s = .ok () (s1.withTestedBit (bitAt (BitVec.ofNat n v) i)) := by
  rw [bitInMemory, if_pos rfl, bind_of_ok h, bind_of_ok (bitValue_apply .bt i _ s1), pure_apply]

theorem bitInMemory_of_dataAddresses {op : BitOp} {ps : List Nat} (hop : op ≠ .bt)
    (h : dataAddresses r off (n / 8) true s = .ok ps s1) (i : Nat) :
    let w : BitVec n := BitVec.ofNat n (ofBytes (s1.bytesAt ps))
    bitInMemory op n r off i s =
      .ok () (((s1.afterReading ps).withTestedBit (bitAt w i)).afterWriting ps (toBytes (n / 8) (bitResult op w i).toNat)) := by
  intro w
  rw [bitInMemory, if_neg hop, modifyAt, bind_of_ok h, bind_of_ok (readBytes_ok ps s1), bind_of_ok (bitValue_apply op i w _),
    writeBytes_ok]

variable {op : BitOp} {m : Mem} {t : State}

/-- A bit test of a memory operand by a register tests the operand of the bit string that holds the bit. -/
theorem exec_bitByRegister_of_bitInMemory (g : Reg)
    (h : let offset := (s.regN s.osBits g).toInt
      bitInMemory op s.osBits (s.memSegment m) (s.bitAddress s.osBits m offset) (offset % s.osBits).toNat s = .ok () t) :
    exec (op.byRegister (.mem m) g) s = .next (t.complete s.flags.tf) := by
  rw [exec_bitByRegister]
  exact runInstr_bySize_of_ok ((bind_of_ok (get_apply s)).trans h)

theorem exec_bitByImmediate_of_bitInMemory (imm : Byte)
    (h : bitInMemory op s.osBits (s.memSegment m) (s.ea m) (imm.toNat % s.osBits) s = .ok () t) :
    exec (op.byImmediate (.mem m) imm) s = .next (t.complete s.flags.tf) := by
  rw [exec_bitByImmediate]
  exact runInstr_bySize_of_ok ((bind_of_ok (get_apply s)).trans h)

end Memory

/-! ### Where a bit of a string lies -/

/-- The byte of the operand that holds a bit is the byte that a count from the start of the string gives, forwards and
backwards. -/
theorem operand_offset_add_byte {n : Nat} (hn : n = 16 ∨ n = 32) (offset : Int) :
    (n / 8 : Nat) * (offset / n) + ((offset % n).toNat / 8 : Nat) = offset / 8 := by
  obtain rfl | rfl := hn <;> omega

theorem toNat_sized_16 (v : Word32) : (sized false v).toNat = v.toNat % 65536 := by
  have hmask : (0xFFFF : Word32).toNat = 2 ^ 16 - 1 := rfl
  show (v &&& 0xFFFF).toNat = _
  rw [BitVec.toNat_and, hmask, Nat.and_two_pow_sub_one_eq_mod]

theorem State.bitAddress_add_byte {s : State} (h32 : s.as32 = true) (m : Mem) {n : Nat} (hn : n = 16 ∨ n = 32)
    (offset : Int) :
    s.bitAddress n m offset + BitVec.ofNat 32 ((offset % n).toNat / 8) = s.ea m + BitVec.ofInt 32 (offset / 8) := by
  rw [State.bitAddress, h32, ← operand_offset_add_byte hn offset, BitVec.ofInt_add, BitVec.ofInt_natCast, ← BitVec.add_assoc]
  rfl

theorem State.toNat_bitAddress_16 {s : State} (h16 : s.as32 = false) (m : Mem) (n : Nat) (offset : Int) :
    ((s.bitAddress n m offset).toNat : Int) = ((s.ea m).toNat + (n / 8 : Nat) * (offset / n)) % 65536 := by
  rw [State.bitAddress, h16, toNat_sized_16, BitVec.toNat_add, BitVec.toNat_ofInt]
  omega

/-- Settles O12: each form is its access at the operand's address or at that of the operand of the bit string. -/
theorem bitTestMemoryFormsComplete : Obligations.BitTestMemoryFormsComplete := by
  refine ⟨⟨fun m g imm s s1 v => ⟨fun h => ?_, fun h => ?_⟩, fun op m g imm s s1 ps hop => ⟨fun h => ?_, fun h => ?_⟩⟩,
    fun s m n offset hn h32 => ⟨?_, State.bitAddress_add_byte h32 m hn offset, ?_⟩,
    fun s m n offset _ h16 => State.toNat_bitAddress_16 h16 m n offset⟩
  · exact exec_bitByRegister_of_bitInMemory g (bitInMemory_bt_of_segRead h _)
  · exact exec_bitByImmediate_of_bitInMemory imm (bitInMemory_bt_of_segRead h _)
  · exact exec_bitByRegister_of_bitInMemory g (bitInMemory_of_dataAddresses hop h _)
  · exact exec_bitByImmediate_of_bitInMemory imm (bitInMemory_of_dataAddresses hop h _)
  · obtain rfl | rfl := hn <;> omega
  · obtain rfl | rfl := hn <;> omega

/-! ### Scanning for a bit -/

section Scan

variable {n k : Nat} {v : BitVec n} (hk : bitAt v k = true)
include hk

theorem lowestBit_eq (hbelow : ∀ j, j < k → bitAt v j = false) {fuel j : Nat} (hj : j ≤ k) (hfuel : k < j + fuel) :
    lowestBit v fuel j = k := by
  induction fuel generalizing j with
  | zero => omega
  | succ fuel ih =>
    rw [lowestBit]
    obtain rfl | hlt := Nat.eq_or_lt_of_le hj
    · exact if_pos hk
    · rw [hbelow j hlt]
      exact ih hlt (by omega)

theorem highestBit_eq (habove : ∀ j, k < j → bitAt v j = false) {m : Nat} (hm : k < m) : highestBit v m = k := by
  induction m with
  | zero => omega
  | succ m ih =>
    rw [highestBit]
    obtain rfl | hlt := Nat.eq_or_lt_of_le (Nat.le_of_lt_succ hm)
    · exact if_pos hk
    · rw [habove m hlt]
      exact ih hlt

theorem ne_zero_of_bitAt : v ≠ 0 := by
  rintro rfl
  simp [bitAt] at hk

end Scan

/-- The state after a scan looked at the value `v`: ZF says whether that is 0 (44_bit.md R465, R466). -/
def State.scanned {n : Nat} (s : State) (v : BitVec n) : State :=
  s.drawn.withFlags { s.flags.undefined s.fresh with zf := decide (v = 0) }

theorem bitScan_of_readRm {e : Rm Reg} {s s1 : State} {v : BitVec s.osBits} (h : readRm s.osBits e s = .ok v s1)
    (reverse : Bool) (g : Reg) :
    bitScan reverse g e s =
      let n := s.osBits
      let t := s1.scanned v
      .ok () (if v = 0 then t.drawn.setRegN g (t.fresh.setWidth n)
        else t.setRegN g (BitVec.ofNat n (if reverse then highestBit v n else lowestBit v n 0))) := by
  have hflags (u : Word32) (t : State) : setFlags (fun f => { f.undefined u with zf := v == 0 }) t =
      .ok () (t.withFlags { t.flags.undefined u with zf := decide (v = 0) }) := rfl
  rw [bitScan, bySize_apply, bind_of_ok h, bind_of_ok (draw_apply s1), bind_of_ok (hflags _ _), ite_apply]
  split <;> rfl

/-- Settles O13: the scan stops at the bit that has no 1 before it in its direction. -/
theorem bitScanFormsComplete : Obligations.BitScanFormsComplete := by
  intro g e s s1 v h n t
  have hscan (reverse : Bool) := bitScan_of_readRm h reverse g
  refine ⟨fun h0 => ?_, fun k hk hbelow => ?_, fun k hk habove => ?_⟩
  · simp only [if_pos h0] at hscan
    exact ⟨runInstr_of_ok (hscan false), runInstr_of_ok (hscan true)⟩
  · have hlow : lowestBit v n 0 = k := lowestBit_eq hk hbelow (Nat.zero_le k) (by simpa using BitVec.lt_of_getLsbD hk)
    simp only [if_neg (ne_zero_of_bitAt hk)] at hscan
    rw [← hlow]
    exact runInstr_of_ok (hscan false)
  · have hhigh : highestBit v n = k := highestBit_eq hk habove (BitVec.lt_of_getLsbD hk)
    simp only [if_neg (ne_zero_of_bitAt hk)] at hscan
    rw [← hhigh]
    exact runInstr_of_ok (hscan true)

end Sys2Proof.Machine

/-! Near jumps, calls and returns (45_control_transfer.md R480, R484, R485, R487, R488, R490, R497 to R501): a near transfer is
tested in the code segment, which no access to the stack or to an operand changes. -/

namespace Sys2Proof.Machine

/-! ### What the stack and the operands leave as it is -/

/-- `t` is `s` but for the general registers and what an access to memory can change: the segment registers, the flags, the
modes and the prefixes of the instruction are those of `s`. -/
def SameMode (s t : State) : Prop :=
  t = { s with gpr := t.gpr, mem := t.mem, tlb := t.tlb, stale := t.stale, ioTrace := t.ioTrace, dr6 := t.dr6,
               draws := t.draws, dbgPending := t.dbgPending, cur := { s.cur with walk := t.cur.walk } }

theorem stackRel_sameMode : StackRel SameMode where
  refl _ := rfl
  trans h k := k.trans (by rw [h])
  draws _ := rfl
  device _ _ := rfl
  store _ _ _ := rfl
  walk _ _ := rfl
  tlb _ _ := rfl
  data _ _ _ _ := rfl
  sp s v := by unfold State.withSp; split <;> rfl

theorem sameMode_withIndexReg (s : State) (r : Reg) (v : Word32) : SameMode s (s.withIndexReg r v) := by
  unfold State.withIndexReg
  split <;> rfl

theorem Accessed.sameMode {s t : State} (h : Accessed s t) : SameMode s t := by rw [h]; rfl

section SameMode

variable {s t : State} (h : SameMode s t)
include h

theorem SameMode.flags : t.flags = s.flags := by rw [h]
theorem SameMode.npc : t.cur.npc = s.cur.npc := by rw [h]
theorem SameMode.level : t.level = s.level := by rw [h]; rfl
theorem SameMode.nmiInService : t.nmiInService = s.nmiInService := by rw [h]

theorem SameMode.inSegment (r : SegReg) (off : Word32) (n : Nat) : t.inSegment r off n = s.inSegment r off n := by
  rw [h]; rfl

theorem SameMode.relativeTarget (rel : Word32) : t.relativeTarget rel = s.relativeTarget rel := by rw [h]; rfl

end SameMode

theorem pop_sameMode {n v : Nat} {s t : State} (h : pop n s = .ok v t) : SameMode s t :=
  (within_pop stackRel_sameMode n).of_ok h

/-! ### The code segment -/

theorem jumpTo_of_inside {s : State} {off : Word32} (h : s.inSegment .cs off 1 = true) :
    jumpTo off s = .ok () (s.jumped off) := by
  rw [jumpTo, bind_of_ok (get_apply s), raiseIf_bind_of_false (by rw [h]; rfl)]; rfl

theorem jumpTo_of_outside {s : State} {off : Word32} (h : s.inSegment .cs off 1 = false) :
    jumpTo off s = .error (.gp 0) s := by
  rw [jumpTo, bind_of_ok (get_apply s), raiseIf_bind_of_true (by rw [h]; rfl)]

/-! ### The target of a relative jump -/

/-- The address of the next instruction plus the displacement, modulo the operand size (30_encoding.md R287). -/
theorem State.toNat_relativeTarget (s : State) (rel : Word32) :
    (s.relativeTarget rel).toNat = (s.cur.npc.toNat + rel.toNat) % 2 ^ s.osBits := by
  rw [State.relativeTarget, State.osBits]
  cases s.os32 with
  | true => exact BitVec.toNat_add _ _
  | false =>
    rw [toNat_sized_16, BitVec.toNat_add]
    simp only [Bool.false_eq_true, if_false]
    omega

theorem State.toNat_relativeTarget_byte (s : State) (rel : Byte) :
    ((s.relativeTarget (rel.signExtend 32)).toNat : Int) = (s.cur.npc.toNat + rel.toInt) % 2 ^ s.osBits := by
  have hrel : (rel.signExtend 32 : Word32).toInt = rel.toInt := BitVec.toInt_signExtend_of_le (by decide)
  rw [BitVec.toInt_eq_toNat_cond] at hrel
  rw [State.toNat_relativeTarget]
  rcases s.osBits_cases with h | h <;> rw [h] <;> split at hrel <;> omega

/-! ### Jumps -/

/-- `i`, begun in `s`, jumps from `u` to the offset `off` in the code segment if `taken`, and else goes on there; a target
outside the segment raises GP(0). -/
structure JumpsIf (i : Instr) (s u : State) (taken : Prop) (off : Word32) : Prop where
  inside : taken → s.inSegment .cs off 1 = true → exec i s = .next ((u.jumped off).complete s.flags.tf)
  outside : taken → s.inSegment .cs off 1 = false → exec i s = takeExc s u (.gp 0)
  stay : ¬ taken → exec i s = .next (u.complete s.flags.tf)

theorem JumpsIf.of_meaning {i : Instr} {s u : State} {taken : Prop} {test : Bool} {off : Word32} {m : M Unit}
    (ht : test = true ↔ taken) (hi : exec i s = runInstr m s)
    (hm : m s = (if test then jumpTo off else pure () : M Unit) u) (hu : SameMode s u) : JumpsIf i s u taken off where
  inside h hin := by
    have hjump := jumpTo_of_inside ((hu.inSegment .cs off 1).trans hin)
    exact hi.trans (runInstr_of_ok (hm.trans (by rw [if_pos (ht.2 h), hjump])))
  outside h hout := by
    have hjump := jumpTo_of_outside ((hu.inSegment .cs off 1).trans hout)
    exact hi.trans (runInstr_of_error (hm.trans (by rw [if_pos (ht.2 h), hjump])))
  stay h := hi.trans (runInstr_of_ok (hm.trans (by rw [if_neg (mt ht.1 h), pure_apply])))

/-- A jump that tests its condition and finds its target in the state it began in. -/
theorem JumpsIf.of_jumpIf {i : Instr} {s : State} {taken : Prop} {c : State → Bool} {rel : Word32}
    (hc : c s = true ↔ taken) (hi : exec i s = runInstr (jumpIf c rel) s) :
    JumpsIf i s s taken (s.relativeTarget rel) :=
  .of_meaning hc hi rfl (stackRel_sameMode.refl s)

/-- The state after LOOP counted eCX (45_control_transfer.md R499). -/
def State.counted (s : State) : State := s.withIndexReg .ecx (s.indexReg .ecx - 1)

section Jumps

variable (s : State) (cc : Cond) (rel : Word32) (rel8 : Byte)

theorem jumpsIf_jmpRel : JumpsIf (.jmpRel rel) s s True (s.relativeTarget rel) :=
  .of_meaning (iff_of_true rfl trivial) rfl rfl (stackRel_sameMode.refl s)

theorem jumpsIf_jmpRel8 : JumpsIf (.jmpRel8 rel8) s s True (s.relativeTarget (rel8.signExtend 32)) :=
  .of_meaning (iff_of_true rfl trivial) rfl rfl (stackRel_sameMode.refl s)

theorem jumpsIf_jccRel : JumpsIf (.jccRel cc rel) s s (s.flags.holds cc = true) (s.relativeTarget rel) :=
  .of_jumpIf (c := fun u => u.flags.holds cc) Iff.rfl rfl

theorem jumpsIf_jccRel8 :
    JumpsIf (.jccRel8 cc rel8) s s (s.flags.holds cc = true) (s.relativeTarget (rel8.signExtend 32)) :=
  .of_jumpIf (c := fun u => u.flags.holds cc) Iff.rfl rfl

theorem jumpsIf_jcxzRel8 : JumpsIf (.jcxzRel8 rel8) s s (s.indexReg .ecx = 0) (s.relativeTarget (rel8.signExtend 32)) :=
  .of_jumpIf (c := fun u => u.indexReg .ecx == 0) beq_iff_eq rfl

/-- LOOP and its forms test their condition after eCX was counted, which leaves the flags as they were. -/
theorem jumpsIf_loopIf {i : Instr} {c : Flags → Bool} (hi : exec i s = runInstr (loopIf (fun u => c u.flags) rel8) s) :
    JumpsIf i s s.counted (s.counted.indexReg .ecx ≠ 0 ∧ c s.flags = true)
      (s.relativeTarget (rel8.signExtend 32)) := by
  have hmode : SameMode s s.counted := sameMode_withIndexReg s .ecx _
  have hflags : s.counted.flags = s.flags := s.withIndexReg_flags .ecx _
  rw [← hmode.relativeTarget]
  exact .of_meaning (test := s.counted.indexReg .ecx != 0 && c s.counted.flags)
    (by rw [hflags, Bool.and_eq_true, bne_iff_ne]) hi rfl hmode

end Jumps

theorem jumpsIf_jmpNearEv {e : Rm Reg} {s u : State} {v : BitVec s.osBits} (h : readRm s.osBits e s = .ok v u) :
    JumpsIf (.jmpNearEv e) s u True (v.setWidth 32) :=
  .of_meaning (iff_of_true rfl trivial) rfl ((bySize_apply _ s).trans (bind_of_ok h)) (readRm_accessed h).sameMode

theorem exec_setccEb_of_openRm {e : Rm Reg8} {s t : State} {p : Place Reg8} (h : openRm 8 e s = .ok p t) (cc : Cond)
    (x : BitVec 3) :
    exec (.setccEb cc x e) s = .next ((p.putByte (if s.flags.holds cc then 1 else 0) t).complete s.flags.tf) :=
  runInstr_of_ok ((bind_of_ok (get_apply s)).trans (writeRm8_of_open _ h))

/-- Settles O29: each form by the condition on which it jumps and the state in which it tests it. -/
theorem jumpFormsComplete : Obligations.JumpFormsComplete := by
  intro s rel8 rel cc far near go stay t trap
  have hjmp := jumpsIf_jmpRel s rel
  have hjmp8 := jumpsIf_jmpRel8 s rel8
  have hjcc := jumpsIf_jccRel s cc rel
  have hjcc8 := jumpsIf_jccRel8 s cc rel8
  have hjcxz := jumpsIf_jcxzRel8 s rel8
  have hloop := jumpsIf_loopIf s rel8 (i := .loopRel8 rel8) (c := fun _ => true) rfl
  have hloope := jumpsIf_loopIf s rel8 (i := .loopeRel8 rel8) (c := Flags.zf) rfl
  have hloopne := jumpsIf_loopIf s rel8 (i := .loopneRel8 rel8) (c := fun f => !f.zf) rfl
  refine ⟨fun hin => ⟨hjmp.inside trivial hin, fun hc => hjcc.inside hc hin⟩,
    fun hout => ⟨hjmp.outside trivial hout, fun hc => hjcc.outside hc hout⟩,
    fun hc => ⟨hjcc.stay (by simp [hc]), hjcc8.stay (by simp [hc])⟩,
    fun hin => ⟨hjmp8.inside trivial hin, fun hc => hjcc8.inside hc hin, fun h0 => hjcxz.inside h0 hin,
      fun h0 => ⟨hloop.inside ⟨h0, rfl⟩ hin, fun hz => hloope.inside ⟨h0, hz⟩ hin,
        fun hz => hloopne.inside ⟨h0, by rw [hz]; rfl⟩ hin⟩⟩,
    fun hout => ⟨hjmp8.outside trivial hout, fun hc => hjcc8.outside hc hout, fun h0 => hjcxz.outside h0 hout,
      fun h0 => ⟨hloop.outside ⟨h0, rfl⟩ hout, fun hz => hloope.outside ⟨h0, hz⟩ hout,
        fun hz => hloopne.outside ⟨h0, by rw [hz]; rfl⟩ hout⟩⟩,
    fun h0 => hjcxz.stay h0, fun h0 => hloop.stay fun ⟨hcount, _⟩ => hcount h0,
    fun h => hloope.stay fun ⟨hcount, hz⟩ => ?_, fun h => hloopne.stay fun ⟨hcount, hz⟩ => ?_,
    fun e s1 v hread => ⟨(jumpsIf_jmpNearEv hread).inside trivial, (jumpsIf_jmpNearEv hread).outside trivial⟩,
    fun x e s1 p hopen => exec_setccEb_of_openRm hopen cc x,
    s.toNat_relativeTarget rel, s.toNat_relativeTarget_byte rel8⟩
  · exact h.elim hcount (by simp [hz])
  · exact h.elim hcount (by simpa using hz)

/-! ### Near calls and returns -/

theorem callNear_of_push {n : Nat} {target : Word32} {s t : State} (hin : s.inSegment .cs target 1 = true)
    (h : push (n / 8) s.cur.npc.toNat s = .ok () t) : callNear n target s = .ok () (t.jumped target) := by
  have hmode : SameMode s t := (within_push stackRel_sameMode _ _).of_ok h
  have hjump := jumpTo_of_inside ((hmode.inSegment .cs target 1).trans hin)
  rw [callNear, bind_of_ok (get_apply s), raiseIf_bind_of_false (by rw [hin]; rfl), bind_of_ok h, hjump]

theorem returnNear_of_pop {imm : Word16} {s t : State} {v : Nat} (h : pop (s.osBits / 8) s = .ok v t)
    (hin : s.inSegment .cs (BitVec.ofNat 32 v) 1 = true) :
    returnNear imm s =
      let u := t.jumped (BitVec.ofNat 32 v)
      .ok () (u.withSp (u.stackOffset (u.sp + imm.setWidth 32))) := by
  have hmode : SameMode s t := pop_sameMode h
  have hjump := jumpTo_of_inside ((hmode.inSegment .cs _ 1).trans hin)
  rw [returnNear, bySize_apply, bind_of_ok h, bind_of_ok hjump, update_apply]

/-- Settles O30: a call pushes in the state in which its target was found, and a return is the jump after the pop. -/
theorem nearCallsAndReturnsComplete : Obligations.NearCallsAndReturnsComplete := by
  refine ⟨fun rel s t hin hpush => ?_, fun e s s1 t v hread hin hpush => ?_, fun imm s t v hpop hin =>
    ⟨runInstr_of_ok (returnNear_of_pop hpop hin), runInstr_of_ok (returnNear_of_pop hpop hin)⟩⟩
  · exact runInstr_bySize_of_ok ((bind_of_ok (get_apply s)).trans (callNear_of_push hin hpush))
  · have hmode := (readRm_accessed hread).sameMode
    rw [← hmode.inSegment] at hin
    rw [← hmode.npc] at hpush
    exact runInstr_bySize_of_ok ((bind_of_ok hread).trans (callNear_of_push hin hpush))

end Sys2Proof.Machine

/-! Far jumps, calls and returns (45_control_transfer.md R482, R483, R486, R489, R491, R505, R506): what reads the far pointer,
the load of CS in each mode, the tests on a code segment and on a call gate, and the return to the same or an outer level. -/

namespace Sys2Proof.Machine

/-! ### What a descriptor access leaves as it is -/

theorem markAccessed_accessed {sel : Word16} {d : Desc} {s t : State} (h : markAccessed sel d s = .ok () t) :
    Accessed s t := by
  obtain ⟨_, _, ⟨⟩, h⟩ := bind_eq_ok.1 h
  cases ha : s.descAddress sel with
  | none => rw [ha] at h; cases h; rfl
  | some a =>
    simp only [ha] at h
    split at h
    · cases h; rfl
    · exact (within_sysWrite accessRel_accessed _ _ _).of_ok h

section Accessed

variable {s t : State} (h : Accessed s t)
include h

theorem Accessed.segs : t.segs = s.segs := by rw [h]
theorem Accessed.npc : t.cur.npc = s.cur.npc := by rw [h]
theorem Accessed.reg (r : Reg) : t.reg r = s.reg r := by rw [h]; rfl
theorem Accessed.os32 : t.os32 = s.os32 := by rw [h]; rfl
theorem Accessed.stack32 : t.stack32 = s.stack32 := h.sameStack.stack32
theorem Accessed.sp : t.sp = s.sp := h.sameStack.sp

end Accessed

/-! ### The far pointer -/

/-- `i`, begun in `s`, does a far JMP or CALL to `sel:off` in the state `u` that reading this pointer led to. -/
structure TransfersFar (call : Bool) (i : Instr) (sel : Word16) (off : Word32) (s u : State) : Prop where
  accessed : Accessed s u
  ok : ∀ {t : State}, farTransfer call sel off u = .ok () t → exec i s = .next (t.complete s.flags.tf)
  error : ∀ {x : Exc} {t : State}, farTransfer call sel off u = .error x t → exec i s = takeExc s t x

theorem TransfersFar.of_meaning {call : Bool} {i : Instr} {sel : Word16} {off : Word32} {s u : State} {m : M Unit}
    (ha : Accessed s u) (hi : exec i s = runInstr m s) (hm : m s = farTransfer call sel off u) :
    TransfersFar call i sel off s u where
  accessed := ha
  ok h := hi.trans (runInstr_of_ok (hm.trans h))
  error h := hi.trans (runInstr_of_error (hm.trans h))

/-- A far pointer in memory is read whole before anything is done with it. -/
theorem farIndirect_of_segRead {call : Bool} {m : Mem} {s s1 u : State} {o v : Nat}
    (hoff : segRead (s.memSegment m) (s.ea m) (s.osBits / 8) s = .ok o s1)
    (hsel : segRead (s.memSegment m) (sized s.as32 (s.ea m + BitVec.ofNat 32 (s.osBits / 8))) 2 s1 = .ok v u) :
    farIndirect call m s = farTransfer call (BitVec.ofNat 16 v) (BitVec.ofNat 32 o) u :=
  (bySize_apply _ s).trans ((bind_of_ok (get_apply s)).trans ((bind_of_ok hoff).trans (bind_of_ok hsel)))

theorem FarOperand.transfersFar {call : Bool} {i : Instr} {sel : Word16} {off : Word32} {s u : State}
    (h : FarOperand call i sel off s u) : TransfersFar call i sel off s u := by
  obtain ⟨rfl, rfl⟩ | ⟨m, s1, o, v, rfl, hoff, hsel, rfl, rfl⟩ := h
  · cases call <;> exact .of_meaning (accessRel_accessed.refl _) rfl rfl
  · have ha := accessRel_accessed.trans (segRead_accessed hoff) (segRead_accessed hsel)
    cases call <;> exact .of_meaning ha rfl (farIndirect_of_segRead hoff hsel)

/-! ### Real mode and V86 mode -/

theorem enterRealCode_of_le {off : Word32} (h : off.toNat ≤ 0xFFFF) (sel : Word16) (s : State) :
    enterRealCode sel off s = .ok () (s.farJumped sel off) :=
  raiseIf_bind_of_false (decide_eq_false (Nat.not_lt.2 h))

theorem enterRealCode_of_gt {off : Word32} (h : 0xFFFF < off.toNat) (sel : Word16) (s : State) :
    enterRealCode sel off s = .error (.gp 0) s :=
  raiseIf_bind_of_true (decide_eq_true h)

theorem toNat_ofNat_of_le_word {n : Nat} (h : n ≤ 0xFFFF) : (BitVec.ofNat 32 n).toNat ≤ 0xFFFF := by
  rw [BitVec.toNat_ofNat]; omega

section Real

variable {s u : State} (hu : Accessed s u) (hp : s.protected = false)
include hu hp

theorem farTransfer_of_not_protected (call : Bool) (sel : Word16) (off : Word32) :
    farTransfer call sel off u = (do
      whenever call (pushAll (s.osBits / 8) [s.segs.cs.sel.toNat, s.cur.npc.toNat])
      enterRealCode sel off) u := by
  rw [farTransfer, bind_of_ok (get_apply u), ite_apply, if_neg (by simp [hu.protected, hp]), hu.os32, hu.segs, hu.npc,
    s.osBits_div]

theorem farTransfer_jmp_of_not_protected (sel : Word16) (off : Word32) :
    farTransfer false sel off u = enterRealCode sel off u :=
  (farTransfer_of_not_protected hu hp false sel off).trans (bind_of_ok rfl)

theorem farTransfer_call_of_not_protected {t : State} (sel : Word16) (off : Word32)
    (h : pushAll (s.osBits / 8) [s.segs.cs.sel.toNat, s.cur.npc.toNat] u = .ok () t) :
    farTransfer true sel off u = enterRealCode sel off t :=
  (farTransfer_of_not_protected hu hp true sel off).trans (bind_of_ok h)

end Real

/-! ### What a far return takes from the stack -/

section ReturnFar

variable {s s1 s2 : State} {off sel : Nat} (hoff : stackRead 0 (s.osBits / 8) s = .ok off s1)
  (hsel : stackRead (s.osBits / 8) (s.osBits / 8) s1 = .ok sel s2)
include hoff hsel

theorem returnFar_of_not_protected (hp : s.protected = false) (hle : off ≤ 0xFFFF) (imm : Word16) :
    returnFar imm s =
      let u := s2.farJumped (BitVec.ofNat 16 sel) (BitVec.ofNat 32 off)
      .ok () (u.withSp (u.stackOffset (u.sp + BitVec.ofNat 32 (s.osBits / 4) + imm.setWidth 32))) := by
  have hacc := accessRel_accessed.trans (stackRead_accessed hoff) (stackRead_accessed hsel)
  rw [returnFar, bySize_apply, bind_of_ok hoff, bind_of_ok hsel, bind_of_ok (get_apply s2), ite_apply,
    if_neg (by simp [hacc.protected, hp]), bind_of_ok (enterRealCode_of_le (toNat_ofNat_of_le_word hle) _ s2)]
  rfl

theorem returnFar_of_protected (hp : s.protected = true) (imm : Word16) :
    returnFar imm s =
      returnProtected (BitVec.ofNat 16 sel) (BitVec.ofNat 32 off) (s.osBits / 8) (s.osBits / 4) (imm.setWidth 32) s2 := by
  have hacc := accessRel_accessed.trans (stackRead_accessed hoff) (stackRead_accessed hsel)
  rw [returnFar, bySize_apply, bind_of_ok hoff, bind_of_ok hsel, bind_of_ok (get_apply s2), ite_apply,
    if_pos (hacc.protected.trans hp)]

end ReturnFar

/-! ### The return through the stack in protected mode -/

theorem enterCode_of_markAccessed {sel : Word16} {d : Desc} {s t : State} (h : markAccessed sel d s = .ok () t)
    (level : BitVec 2) (off : Word32) : enterCode sel d level off s = .ok () (t.inCode sel d level off) :=
  bind_of_ok h

theorem SegCache.leftBy_eq (c : SegCache) (level : BitVec 2) : c.leftBy level = c.droppedAt level := by
  have hleft : (c.valid && !(c.executable && c.conforming) && decide (c.dpl < level)) = true ↔
      c.valid = true ∧ ¬ (c.executable = true ∧ c.conforming = true) ∧ c.dpl < level := by
    simp only [Bool.and_eq_true, Bool.not_eq_true', ← Bool.not_eq_true, decide_eq_true_eq, and_assoc]
  rw [SegCache.leftBy, SegCache.droppedAt]
  simp only [hleft]
  rfl

/-- What a return to an outer level does to the segment registers that hold data. -/
theorem State.dropSegments_eq (s : State) (level : BitVec 2) :
    s.dropSegments level =
      { s with segs := { s.segs with ds := s.segs.ds.leftBy level, es := s.segs.es.leftBy level,
                                     fs := s.segs.fs.leftBy level, gs := s.segs.gs.leftBy level } } := by
  simp only [SegCache.leftBy_eq]; rfl

theorem setSegment_apply (r : SegReg) (c : SegCache) (s : State) : setSegment r c s = .ok () (s.setSeg r c) := rfl

theorem checkStackSegment_of_fits {sel : Word16} {level : BitVec 2} {sd : Desc} {s t : State}
    (h : readDesc sel .gp s = .ok sd t) (hfits : StackFits sel sd level) :
    checkStackSegment sel level .gp s = .ok sd t := by
  obtain ⟨-, hw, hrpl, hdpl, hpres⟩ := hfits
  exact (bind_of_ok h).trans (checkStackDesc_of_present ⟨hw, hrpl, hdpl⟩ hpres .gp t)

theorem returnProtected_of_returnsTo {sel : Word16} {off : Word32} {n frame : Nat} {imm : Word32} {s t : State}
    (h : ReturnsTo sel off n frame imm s t) : returnProtected sel off n frame imm s = .ok () t := by
  obtain ⟨d, s1, hnull, hread, hcode, hpres, hdpl, hlimit, hreturn⟩ := h
  have hacc := readDesc_accessed hread
  have hlevel : decide (rpl sel < s.level) = false := by
    rcases hreturn with ⟨heq, -⟩ | ⟨hlt, -⟩
    · simp [heq]
    · exact decide_eq_false (BitVec.not_lt.2 (BitVec.le_of_lt hlt))
  have hright : (!(d.isCode && (if d.isConforming then decide (d.dpl ≤ rpl sel) else d.dpl == rpl sel))) = false := by
    rw [hcode]
    split at hdpl <;> simp [*]
  rw [returnProtected, raiseIf_bind_of_false hnull, bind_of_ok (get_apply s), raiseIf_bind_of_false hlevel,
    bind_of_ok hread, raiseIf_bind_of_false hright, raiseIf_bind_of_false (by rw [hpres]; rfl),
    raiseIf_bind_of_false (decide_eq_false (BitVec.not_lt.2 hlimit)), ite_apply]
  rcases hreturn with ⟨heq, s2, hmark, rfl⟩ |
    ⟨hlt, nsp, nss, sd, s2, s3, s4, s5, s6, hsp, hss, hsd, hfits, hmark, hmark', rfl⟩
  · rw [if_pos heq, returnSame, bind_of_ok (enterCode_of_markAccessed hmark _ _), update_apply]
  · have ⟨hnull', _⟩ := hfits
    rw [if_neg (BitVec.ne_of_lt hlt).symm, returnOuter, bind_of_ok (get_apply s1), bind_of_ok hsp, bind_of_ok hss,
      raiseIf_bind_of_false hnull', bind_of_ok (checkStackSegment_of_fits hsd hfits),
      bind_of_ok (enterCode_of_markAccessed hmark _ _), bind_of_ok hmark', bind_of_ok (setSegment_apply _ _ _),
      bind_of_ok (update_apply _ _), update_apply, State.dropSegments_eq]

/-! ### A code segment -/

/-- A far JMP or CALL at a level may go to a code segment through a selector (45_control_transfer.md R483). -/
def Desc.entersFrom (d : Desc) (sel : Word16) (level : BitVec 2) : Prop :=
  if d.isConforming then d.dpl ≤ level else d.dpl = level ∧ rpl sel ≤ level

theorem Desc.entersFrom_iff (d : Desc) (sel : Word16) (level : BitVec 2) :
    d.entersFrom sel level ↔
      (if d.isConforming then decide (level < d.dpl) else d.dpl != level || decide (level < rpl sel)) = false := by
  unfold Desc.entersFrom
  split <;> simp

section Protected

variable {s u : State} (hu : Accessed s u) (hp : s.protected = true) {call : Bool} {sel : Word16} {off : Word32}

include hu hp in
theorem farTransfer_of_protected (call : Bool) (sel : Word16) (off : Word32) :
    farTransfer call sel off u = farProtected call sel off u := by
  rw [farTransfer, bind_of_ok (get_apply u), ite_apply, if_pos (hu.protected.trans hp)]

include hu hp in
theorem farTransfer_of_null (hn : isNull sel = true) : farTransfer call sel off u = .error (.gp 0) u :=
  (farTransfer_of_protected hu hp call sel off).trans (raiseIf_bind_of_true hn)

section Code

variable (hn : isNull sel = false) {d : Desc} {t : State} (hd : readDesc sel .gp u = .ok d t) (hcode : d.isCode = true)
include hu hp hn hd hcode

theorem farTransfer_of_isCode : farTransfer call sel off u = farCode call sel d off t := by
  rw [farTransfer_of_protected hu hp, farProtected, raiseIf_bind_of_false hn, bind_of_ok hd, bind_of_ok (get_apply t),
    ite_apply, if_pos hcode]

theorem farTransfer_of_code :
    farTransfer call sel off u = (do
      raiseIf (if d.isConforming then decide (s.level < d.dpl) else d.dpl != s.level || decide (s.level < rpl sel))
        (.gp (selectorCode sel))
      raiseIf (!d.present) (.np (selectorCode sel))
      raiseIf (decide (d.limit < off)) (.gp 0)
      whenever call (do
        raiseIf (!s.segs.ss.hasRoom s.stack32 s.sp 2 (s.osBits / 8)) (.ss 0)
        pushAll (s.osBits / 8) [s.segs.cs.sel.toNat, s.cur.npc.toNat])
      enterCode sel d s.level off) t := by
  have ht := accessRel_accessed.trans hu (readDesc_accessed hd)
  rw [farTransfer_of_isCode hu hp hn hd hcode, farCode, bind_of_ok (get_apply t)]
  simp only [ht.level, ht.segs, ht.stack32, ht.sp, ht.npc, ht.os32, s.osBits_div]

theorem farTransfer_of_forbidden (h : ¬ d.entersFrom sel s.level) :
    farTransfer call sel off u = .error (.gp (selectorCode sel)) t := by
  rw [d.entersFrom_iff, Bool.not_eq_false] at h
  exact (farTransfer_of_code hu hp hn hd hcode).trans (raiseIf_bind_of_true h)

variable (henters : d.entersFrom sel s.level)
include henters

theorem farTransfer_of_absent (h : d.present = false) : farTransfer call sel off u = .error (.np (selectorCode sel)) t := by
  rw [farTransfer_of_code hu hp hn hd hcode, raiseIf_bind_of_false ((d.entersFrom_iff sel _).1 henters),
    raiseIf_bind_of_true (by rw [h]; rfl)]

variable (hpres : d.present = true)
include hpres

theorem farTransfer_of_beyond (h : d.limit.toNat < off.toNat) : farTransfer call sel off u = .error (.gp 0) t := by
  rw [farTransfer_of_code hu hp hn hd hcode, raiseIf_bind_of_false ((d.entersFrom_iff sel _).1 henters),
    raiseIf_bind_of_false (by rw [hpres]; rfl), raiseIf_bind_of_true (decide_eq_true (BitVec.lt_def.2 h))]

variable (hinside : off.toNat ≤ d.limit.toNat)
include hinside

theorem farTransfer_of_inside :
    farTransfer call sel off u = (do
      whenever call (do
        raiseIf (!s.segs.ss.hasRoom s.stack32 s.sp 2 (s.osBits / 8)) (.ss 0)
        pushAll (s.osBits / 8) [s.segs.cs.sel.toNat, s.cur.npc.toNat])
      enterCode sel d s.level off) t := by
  rw [farTransfer_of_code hu hp hn hd hcode, raiseIf_bind_of_false ((d.entersFrom_iff sel _).1 henters),
    raiseIf_bind_of_false (by rw [hpres]; rfl), raiseIf_bind_of_false (decide_eq_false (BitVec.not_lt.2 hinside))]

theorem farTransfer_jmp_of_inside {v : State} (h : markAccessed sel d t = .ok () v) :
    farTransfer false sel off u = .ok () (v.inCode sel d s.level off) :=
  (farTransfer_of_inside hu hp hn hd hcode henters hpres hinside).trans
    ((bind_of_ok rfl).trans (enterCode_of_markAccessed h _ _))

theorem farTransfer_call_of_no_room (h : s.segs.ss.hasRoom s.stack32 s.sp 2 (s.osBits / 8) = false) :
    farTransfer true sel off u = .error (.ss 0) t :=
  (farTransfer_of_inside hu hp hn hd hcode henters hpres hinside).trans
    (bind_of_error (raiseIf_bind_of_true (by rw [h]; rfl)))

theorem farTransfer_call_of_room (h : s.segs.ss.hasRoom s.stack32 s.sp 2 (s.osBits / 8) = true) {v w : State}
    (hpush : pushAll (s.osBits / 8) [s.segs.cs.sel.toNat, s.cur.npc.toNat] t = .ok () v)
    (hmark : markAccessed sel d v = .ok () w) :
    farTransfer true sel off u = .ok () (w.inCode sel d s.level off) :=
  (farTransfer_of_inside hu hp hn hd hcode henters hpres hinside).trans
    ((bind_of_ok ((raiseIf_bind_of_false (by rw [h]; rfl)).trans hpush)).trans (enterCode_of_markAccessed hmark _ _))

end Code

end Protected

/-! ### Call gates -/

theorem Desc.isSegment_of_isSystem {g : Desc} {t : Nat} (h : g.isSystem t = true) : g.isSegment = false := by
  simp only [Desc.isSystem, Bool.and_eq_true, Bool.not_eq_true'] at h
  exact h.1

/-- A call gate is a gate of the 80386 where its type is that of one. -/
theorem Desc.type_of_callGate {g : Desc} (h : g.isSystem 4 = true ∨ g.isSystem 0xC = true) :
    (g.type == 0xC) = g.isSystem 0xC := by
  have hseg : g.isSegment = false := h.elim Desc.isSegment_of_isSystem Desc.isSegment_of_isSystem
  rw [Desc.isSystem, hseg]; rfl

section Gate

/-- A call gate that the program may use, and the code segment that it names, both read from `u` on
(45_control_transfer.md R505). -/
structure PassesGate (gsel : Word16) (g d : Desc) (s u s1 s2 : State) : Prop where
  accessed : Accessed s u
  mode : s.protected = true
  gselNotNull : isNull gsel = false
  readGate : readDesc gsel .gp u = .ok g s1
  isCallGate : g.isSystem 4 = true ∨ g.isSystem 0xC = true
  gateDpl : weaker s.level (rpl gsel) ≤ g.dpl
  gatePresent : g.present = true
  cselNotNull : isNull g.gateSelector = false
  readCode : readDesc g.gateSelector .gp s1 = .ok d s2
  isCode : d.isCode = true
  codeDpl : d.dpl ≤ s.level
  codePresent : d.present = true

variable {gsel : Word16} {g d : Desc} {s u s1 s2 : State} (h : PassesGate gsel g d s u s1 s2)
include h

theorem PassesGate.accessed1 : Accessed s s1 := accessRel_accessed.trans h.accessed (readDesc_accessed h.readGate)

theorem PassesGate.accessed2 : Accessed s s2 := accessRel_accessed.trans h.accessed1 (readDesc_accessed h.readCode)

theorem PassesGate.checkCallGate_eq : checkCallGate gsel g s1 = .ok d s2 := by
  have hgate : decide (g.dpl < weaker s1.level (rpl gsel)) = false := by
    rw [h.accessed1.level]; exact decide_eq_false (BitVec.not_lt.2 h.gateDpl)
  have hright : (!(d.isCode && decide (d.dpl ≤ s1.level))) = false := by
    rw [h.accessed1.level, h.isCode, decide_eq_true h.codeDpl]; rfl
  rw [checkCallGate, bind_of_ok (get_apply s1), raiseIf_bind_of_false hgate,
    raiseIf_bind_of_false (by rw [h.gatePresent]; rfl), raiseIf_bind_of_false h.cselNotNull, bind_of_ok h.readCode,
    raiseIf_bind_of_false hright, raiseIf_bind_of_false (by rw [h.codePresent]; rfl), pure_apply]

theorem PassesGate.farTransfer_eq (call : Bool) (off : Word32) :
    farTransfer call gsel off u = if call then callGate gsel g s1 else jumpGate gsel g s1 := by
  have hsystem : (g.isSystem 4 || g.isSystem 0xC) = true := by simpa using h.isCallGate
  have hnotCode : g.isCode = false := by
    rw [Desc.isCode, h.isCallGate.elim Desc.isSegment_of_isSystem Desc.isSegment_of_isSystem]; rfl
  rw [farTransfer_of_protected h.accessed h.mode, farProtected, raiseIf_bind_of_false h.gselNotNull,
    bind_of_ok h.readGate, bind_of_ok (get_apply s1), ite_apply, if_neg (by simp [hnotCode]), ite_apply, if_pos hsystem,
    ite_apply]

theorem PassesGate.jumpGate_eq :
    jumpGate gsel g s1 = (do
      raiseIf (!d.isConforming && d.dpl != s.level) (.gp (selectorCode g.gateSelector))
      raiseIf (decide (d.limit < g.gateOffset (g.isSystem 0xC))) (.gp 0)
      enterCode g.gateSelector d s.level (g.gateOffset (g.isSystem 0xC))) s2 := by
  rw [jumpGate, bind_of_ok h.checkCallGate_eq, bind_of_ok (get_apply s2), Desc.type_of_callGate h.isCallGate,
    h.accessed2.level]

theorem PassesGate.callGate_eq :
    callGate gsel g s1 =
      (if !d.isConforming && d.dpl < s.level then
        callInner (if g.isSystem 0xC then 4 else 2) g.gateCount g.gateSelector d (g.gateOffset (g.isSystem 0xC))
      else callSame (if g.isSystem 0xC then 4 else 2) g.gateSelector d (g.gateOffset (g.isSystem 0xC))) s2 := by
  rw [callGate, bind_of_ok h.checkCallGate_eq, bind_of_ok (get_apply s2), Desc.type_of_callGate h.isCallGate,
    h.accessed2.level]

section Same

variable (hsame : d.isConforming = true ∨ d.dpl = s.level)
  (hinside : (g.gateOffset (g.isSystem 0xC)).toNat ≤ d.limit.toNat)
include hsame hinside

theorem PassesGate.jmp_same {s3 : State} (off : Word32) (hmark : markAccessed g.gateSelector d s2 = .ok () s3) :
    farTransfer false gsel off u = .ok () (s3.inCode g.gateSelector d s.level (g.gateOffset (g.isSystem 0xC))) := by
  have hlevel : (!d.isConforming && d.dpl != s.level) = false := by rcases hsame with hc | hl <;> simp [*]
  rw [h.farTransfer_eq, if_neg (by simp), h.jumpGate_eq, raiseIf_bind_of_false hlevel,
    raiseIf_bind_of_false (decide_eq_false (BitVec.not_lt.2 hinside)), enterCode_of_markAccessed hmark]

theorem PassesGate.call_same {s3 s4 : State} (off : Word32)
    (hroom : s.segs.ss.hasRoom s.stack32 s.sp 2 (if g.isSystem 0xC then 4 else 2) = true)
    (hpush : pushAll (if g.isSystem 0xC then 4 else 2) [s.segs.cs.sel.toNat, s.cur.npc.toNat] s2 = .ok () s3)
    (hmark : markAccessed g.gateSelector d s3 = .ok () s4) :
    farTransfer true gsel off u = .ok () (s4.inCode g.gateSelector d s.level (g.gateOffset (g.isSystem 0xC))) := by
  have hlevel : ¬ (!d.isConforming && decide (d.dpl < s.level)) = true := by rcases hsame with hc | hl <;> simp [*]
  have hs2 := h.accessed2
  rw [h.farTransfer_eq, if_pos rfl, h.callGate_eq, ite_apply, if_neg hlevel, callSame, bind_of_ok (get_apply s2), hs2.segs,
    hs2.stack32, hs2.sp, hs2.npc, hs2.level, raiseIf_bind_of_false (by rw [hroom]; rfl),
    raiseIf_bind_of_false (decide_eq_false (BitVec.not_lt.2 hinside)), bind_of_ok hpush, enterCode_of_markAccessed hmark]

end Same

section Inner

variable (hconf : d.isConforming = false) (hinner : d.dpl < s.level)
include hconf hinner

theorem PassesGate.jmp_inner (off : Word32) :
    farTransfer false gsel off u = .error (.gp (selectorCode g.gateSelector)) s2 := by
  have hlevel : (!d.isConforming && d.dpl != s.level) = true := by simp [hconf, BitVec.ne_of_lt hinner]
  rw [h.farTransfer_eq, if_neg (by simp), h.jumpGate_eq, raiseIf_bind_of_true hlevel]

theorem PassesGate.call_inner {nss : Word16} {nesp : Word32} {sd : Desc} {ps : List Nat} {s3 s4 s5 s6 s7 s8 : State}
    (off : Word32) (hstack : innerStack d.dpl s2 = .ok (nss, nesp) s3) (hsd : readDesc nss .gp s3 = .ok sd s4)
    (hfits : StackFits nss sd d.dpl)
    (hroom : (sd.cache nss).hasRoom (sd.cache nss).big nesp (4 + g.gateCount) (if g.isSystem 0xC then 4 else 2) = true)
    (hinside : (g.gateOffset (g.isSystem 0xC)).toNat ≤ d.limit.toNat)
    (hparams : readParameters (if g.isSystem 0xC then 4 else 2) g.gateCount 0 s4 = .ok ps s5)
    (hmark : markAccessed nss sd s5 = .ok () s6)
    (hpush : pushAll (if g.isSystem 0xC then 4 else 2)
      ([s.segs.ss.sel.toNat, (s.reg .esp).toNat] ++ ps.reverse ++ [s.segs.cs.sel.toNat, s.cur.npc.toNat])
      (({ s6.setSeg .ss (sd.cache nss) with cpl := d.dpl } : State).withSp nesp) = .ok () s7)
    (hmark' : markAccessed g.gateSelector d s7 = .ok () s8) :
    farTransfer true gsel off u = .ok () (s8.inCode g.gateSelector d d.dpl (g.gateOffset (g.isSystem 0xC))) := by
  have hlevel : (!d.isConforming && decide (d.dpl < s.level)) = true := by simp [hconf, hinner]
  have hs2 := h.accessed2
  rw [h.farTransfer_eq, if_pos rfl, h.callGate_eq, ite_apply, if_pos hlevel, callInner, bind_of_ok (get_apply s2),
    bind_of_ok hstack]
  dsimp only
  rw [bind_of_ok (innerStackSegment_eq_ok.2 ⟨hsd, hfits⟩),
    raiseIf_bind_of_false (by rw [show bitAt sd 54 = (sd.cache nss).big from rfl, hroom]; rfl),
    raiseIf_bind_of_false (decide_eq_false (BitVec.not_lt.2 hinside)), bind_of_ok hparams, bind_of_ok hmark,
    bind_of_ok (update_apply _ _), bind_of_ok (update_apply _ _), hs2.segs, hs2.reg, hs2.npc, bind_of_ok hpush,
    enterCode_of_markAccessed hmark']

end Inner

end Gate

/-- Settles O31: the far pointer leads to one far transfer, whose outcome is that of the mode, of the code segment or of the
gate; a far return is what the stack gives. -/
theorem farTransfersComplete : Obligations.FarTransfersComplete := by
  refine ⟨⟨fun call i sel off s s0 hp hop => ?_, fun imm s s1 s2 off sel hp hle hoff hsel => ?_⟩,
    fun call i sel off s s0 hp hop => ?_, fun imm s s1 s2 t off sel hp hoff hsel => ?_,
    ?_⟩
  · have hi := hop.transfersFar
    refine ⟨?_, ?_, ?_⟩
    · rintro rfl hle
      exact hi.ok ((farTransfer_jmp_of_not_protected hi.accessed hp _ _).trans (enterRealCode_of_le hle _ _))
    · rintro rfl hgt
      exact hi.error ((farTransfer_jmp_of_not_protected hi.accessed hp _ _).trans (enterRealCode_of_gt hgt _ _))
    · rintro rfl hle t hpush
      exact hi.ok ((farTransfer_call_of_not_protected hi.accessed hp _ _ hpush).trans (enterRealCode_of_le hle _ _))
  · exact ⟨runInstr_of_ok (returnFar_of_not_protected hoff hsel hp hle imm),
      runInstr_of_ok (returnFar_of_not_protected hoff hsel hp hle 0)⟩
  · have hi := hop.transfersFar
    have ha := hi.accessed
    refine ⟨fun hn => hi.error (farTransfer_of_null ha hp hn), ?_⟩
    intro d s1 hn hd hcode allowed
    refine ⟨fun hf => hi.error (farTransfer_of_forbidden ha hp hn hd hcode hf),
      fun hal hpres => hi.error (farTransfer_of_absent ha hp hn hd hcode hal hpres),
      fun hal hpres hb => hi.error (farTransfer_of_beyond ha hp hn hd hcode hal hpres hb),
      fun hal hpres hin => ⟨?_, ?_, ?_⟩⟩
    · rintro rfl s2 hmark
      exact hi.ok (farTransfer_jmp_of_inside ha hp hn hd hcode hal hpres hin hmark)
    · rintro rfl hroom
      exact hi.error (farTransfer_call_of_no_room ha hp hn hd hcode hal hpres hin hroom)
    · rintro rfl hroom s2 s3 hpush hmark
      exact hi.ok (farTransfer_call_of_room ha hp hn hd hcode hal hpres hin hroom hpush hmark)
  · have hreturn (n : Word16) (h : ReturnsTo (BitVec.ofNat 16 sel) (BitVec.ofNat 32 off) (s.osBits / 8) (s.osBits / 4)
        (n.setWidth 32) s2 t) : returnFar n s = .ok () t :=
      (returnFar_of_protected hoff hsel hp n).trans (returnProtected_of_returnsTo h)
    exact ⟨fun h => runInstr_of_ok (hreturn imm h), fun h => runInstr_of_ok (hreturn 0 h)⟩
  · intro call i o gsel s s0 s1 s2 g d hp hop hgn hg hcall hgdpl hgpres csel hcn hd hcode hdpl hpres isz off
    have hi := hop.transfersFar
    have hgate : PassesGate gsel g d s s0 s1 s2 :=
      ⟨hi.accessed, hp, hgn, hg, hcall, hgdpl, hgpres, hcn, hd, hcode, hdpl, hpres⟩
    refine ⟨fun hsame hin => ⟨?_, ?_⟩, fun hconf hinner => ⟨?_, ?_⟩⟩
    · rintro rfl s3 hmark
      exact hi.ok (hgate.jmp_same hsame hin o hmark)
    · rintro rfl hroom s3 s4 hpush hmark
      exact hi.ok (hgate.call_same hsame hin o hroom hpush hmark)
    · rintro rfl
      exact hi.error (hgate.jmp_inner hconf hinner o)
    · rintro rfl nss nesp sd ps s3 s4 s5 s6 s7 s8 hstack hsd hfits hroom hin hparams hmark hpush hmark'
      exact hi.ok (hgate.call_inner hconf hinner o hstack hsd hfits hroom hin hparams hmark hpush hmark')

end Sys2Proof.Machine

/-! INT n, INT 3, INTO and IRET (45_control_transfer.md R493 to R496, 60_exceptions.md R630, R631, 62_virtual_8086.md R714), and
the real-mode delivery of a vector inside the table (60_exceptions.md R641). -/

namespace Sys2Proof.Machine

/-! ### Software interrupts -/

/-- The event of INT n, which saves the address of the next instruction (60_exceptions.md R631). -/
def State.softwareEvent (s : State) (v : Byte) : Event :=
  { vec := v, kind := .software, err := none, ret := s.cur.npc, rf := some false }

theorem softwareInterrupt_apply (v : Byte) (s : State) : softwareInterrupt v s = deliver (s.softwareEvent v) s := rfl

theorem exec_intIb_of_allowed {s : State} (h : s.v86 = true → s.flags.iopl = 3) (v : Byte) :
    exec (.intIb v) s = runInstr (softwareInterrupt v) s := by
  have hc : (s.v86 && s.flags.iopl != 3) = false := by simpa using h
  exact runInstr_congr ((bind_of_ok (get_apply s)).trans (raiseIf_bind_of_false hc))

theorem exec_into (s : State) :
    exec .into s = runInstr (if s.flags.ovf then softwareInterrupt 4 else pure ()) s :=
  runInstr_congr (bind_of_ok (get_apply s))

/-- `i`, begun in `s`, is a software interrupt with the vector `v`. -/
theorem exec_eq_softwareInterrupt {i : Instr} {v : Byte} {s : State}
    (h : (i = .intIb v ∧ (s.v86 = true → s.flags.iopl = 3)) ∨ (i = .int3 ∧ v = 3)
      ∨ (i = .into ∧ v = 4 ∧ s.flags.ovf = true)) : exec i s = runInstr (softwareInterrupt v) s := by
  rcases h with ⟨rfl, h⟩ | ⟨rfl, rfl⟩ | ⟨rfl, rfl, hovf⟩
  · exact exec_intIb_of_allowed h v
  · rfl
  · rw [exec_into, if_pos hovf]

theorem State.v86_of_not_pe {s : State} (h : s.cr0.pe = false) : s.v86 = false := by rw [State.v86, h]; rfl

theorem State.v86_of_protected {s : State} (h : s.protected = true) : s.v86 = false := by
  simp only [State.protected, Bool.and_eq_true, Bool.not_eq_true'] at h
  obtain ⟨-, hvm⟩ := h
  rw [State.v86, hvm, Bool.and_false]

/-! ### Delivery in real mode -/

/-- Four times a vector fits in a double word. -/
theorem four_mul_vector (v : Byte) : (4 * v.setWidth 32 : Word32) = BitVec.ofNat 32 (4 * v.toNat) := by
  have hv := v.isLt
  apply BitVec.eq_of_toNat_eq
  rw [BitVec.toNat_mul, BitVec.toNat_setWidth_of_le (by decide), BitVec.toNat_ofNat]
  rfl

theorem deliver_of_real {e : Event} {s s1 s2 s3 : State} {off sel : Nat} (hpe : s.cr0.pe = false)
    (hinside : 4 * e.vec.toNat + 3 ≤ s.idtr.limit.toNat)
    (hpush : pushAll 2 [(s.flags.image 0).toNat, s.segs.cs.sel.toNat, e.ret.toNat] s = .ok () s1)
    (hoff : sysRead (s.idtr.base + BitVec.ofNat 32 (4 * e.vec.toNat)) 2 s1 = .ok off s2)
    (hsel : sysRead (s.idtr.base + BitVec.ofNat 32 (4 * e.vec.toNat + 2)) 2 s2 = .ok sel s3) :
    deliver e s = .ok () (s3.inHandler (BitVec.ofNat 16 sel) (BitVec.ofNat 32 off)) := by
  have hin : decide (s.idtr.limit.toNat < 4 * e.vec.toNat + 3) = false := decide_eq_false (Nat.not_lt.2 hinside)
  have hsecond : s.idtr.base + BitVec.ofNat 32 (4 * e.vec.toNat + 2) = s.idtr.base + 4 * e.vec.setWidth 32 + 2 := by
    rw [four_mul_vector, BitVec.ofNat_add, BitVec.add_assoc]; rfl
  rw [hsecond] at hsel
  rw [← four_mul_vector] at hoff
  rw [deliver, bind_of_ok (get_apply s), ite_apply, if_neg (by simp [hpe]), deliverReal, bind_of_ok (get_apply s)]
  simp only [hin, Bool.false_and, Bool.false_eq_true, if_false]
  rw [raiseIf_bind_of_false rfl, bind_of_ok hpush, bind_of_ok hoff, bind_of_ok hsel, update_apply]
  rfl

/-! ### IRET in real mode and V86 mode -/

/-- IRET past its IOPL test: the NMI handler is over, and RF is loaded from the image (60_exceptions.md R630). -/
def State.returning (s : State) : State := { s with nmiInService := false, cur := { s.cur with keepRf := true } }

theorem interruptReturn_of_allowed {s : State} (h : s.v86 = true → s.flags.iopl = 3) :
    interruptReturn s = iretByMode (s.osBits / 8) s.returning := by
  have hc : (s.v86 && s.flags.iopl != 3) = false := by simpa using h
  rw [interruptReturn, bind_of_ok (get_apply s), raiseIf_bind_of_false hc, bind_of_ok (update_apply _ s), s.osBits_div]
  rfl

/-- An item of four bytes is one of a 32-bit operand size. -/
theorem State.osBits_div_beq (s : State) : (s.osBits / 8 == 4) = s.os32 := by
  rw [s.osBits_div]; cases s.os32 <;> rfl

theorem iretByMode_of_not_protected {s s1 s2 s3 : State} {off sel img n : Nat} (hp : s.protected = false)
    (hle : off ≤ 0xFFFF) (hoff : pop n s = .ok off s1) (hsel : pop n s1 = .ok sel s2) (himg : pop n s2 = .ok img s3) :
    let t := s3.farJumped (BitVec.ofNat 16 sel) (BitVec.ofNat 32 off)
    iretByMode n s = .ok () (t.withFlags (s.flags.load s.level (n == 4) (BitVec.ofNat 32 img)))
      ∧ t.nmiInService = s.nmiInService := by
  have hmode := stackRel_sameMode.trans (stackRel_sameMode.trans (pop_sameMode hoff) (pop_sameMode hsel)) (pop_sameMode himg)
  refine ⟨?_, hmode.nmiInService⟩
  rw [iretByMode, bind_of_ok (get_apply s), ite_apply, if_neg (by simp [hp]), iretReal, bind_of_ok hoff, bind_of_ok hsel,
    bind_of_ok himg, bind_of_ok (enterRealCode_of_le (toNat_ofNat_of_le_word hle) _ s3), update_apply, ← hmode.flags,
    ← hmode.level]
  rfl

/-! ### IRET in protected mode -/

/-- A return through the stack loads no flags. -/
theorem ReturnsTo.flags {sel : Word16} {off : Word32} {n frame : Nat} {imm : Word32} {s t : State}
    (h : ReturnsTo sel off n frame imm s t) : t.flags = s.flags := by
  have hmarked {sel : Word16} {d : Desc} {u v : State} (h : markAccessed sel d u = .ok () v) : v.flags = u.flags :=
    (markAccessed_accessed h).sameMode.flags
  obtain ⟨d, s1, -, hread, -, -, -, -, ⟨-, s2, hmark, rfl⟩ |
    ⟨-, nsp, nss, sd, s2, s3, s4, s5, s6, hsp, hss, hsd, -, hmark, hmark', rfl⟩⟩ := h
  · have h2 : s2.flags = s.flags := (hmarked hmark).trans (readDesc_accessed hread).sameMode.flags
    exact (State.withSp_flags _ _).trans h2
  · have h1 := accessRel_accessed.trans (readDesc_accessed hread) (segRead_accessed hsp)
    have h4 := accessRel_accessed.trans (accessRel_accessed.trans h1 (segRead_accessed hss)) (readDesc_accessed hsd)
    have h5 := accessRel_accessed.trans h4 (markAccessed_accessed hmark)
    exact (State.withSp_flags _ _).trans ((hmarked hmark').trans h5.sameMode.flags)

section Protected

variable {s s1 s2 s3 : State} {off sel img n : Nat}

theorem iretByMode_of_protected (hp : s.protected = true) (hnt : s.flags.nt = false) (n : Nat) :
    iretByMode n s = iretProtected n s := by
  rw [iretByMode, bind_of_ok (get_apply s), ite_apply, if_pos hp, iretTask, bind_of_ok (get_apply s), ite_apply,
    if_neg (by simp [hnt])]

variable (hoff : stackRead 0 n s = .ok off s1) (hsel : stackRead n n s1 = .ok sel s2)
  (himg : stackRead (2 * n) n s2 = .ok img s3)
include hoff hsel himg

/-- The image of the flags tells the two returns apart. -/
theorem iretProtected_of_stackRead :
    iretProtected n s =
      (if n = 4 ∧ bitAt (BitVec.ofNat 32 img : Word32) 17 ∧ s.level = 0 then
        iretToV86 (BitVec.ofNat 16 sel) (BitVec.ofNat 32 off) (BitVec.ofNat 32 img)
      else do
        returnProtected (BitVec.ofNat 16 sel) (BitVec.ofNat 32 off) n (3 * n) 0
        update fun t => { t with flags := t.flags.load s.level (n == 4) (BitVec.ofNat 32 img) }) s3 := by
  rw [iretProtected, bind_of_ok (get_apply s), bind_of_ok hoff, bind_of_ok hsel, bind_of_ok himg]

theorem iretProtected_of_returnsTo {t : State}
    (hv86 : ¬ (n = 4 ∧ bitAt (BitVec.ofNat 32 img : Word32) 17 = true ∧ s.level = 0))
    (h : ReturnsTo (BitVec.ofNat 16 sel) (BitVec.ofNat 32 off) n (3 * n) 0 s3 t) :
    iretProtected n s = .ok () (t.withFlags (s.flags.load s.level (n == 4) (BitVec.ofNat 32 img))) := by
  have hacc := accessRel_accessed.trans (accessRel_accessed.trans (stackRead_accessed hoff) (stackRead_accessed hsel))
    (stackRead_accessed himg)
  have hflags : t.flags = s.flags := h.flags.trans hacc.sameMode.flags
  rw [iretProtected_of_stackRead hoff hsel himg, ite_apply, if_neg hv86, bind_of_ok (returnProtected_of_returnsTo h),
    update_apply, hflags]
  rfl

end Protected

/-- The state of a V86 program after IRET from level 0, by the items above the image (62_virtual_8086.md R714). -/
def State.enterV86 (s : State) (sel : Word16) (off img : Word32) (esp ss es ds fs gs : Nat) : State :=
  let w (v : Nat) : SegCache := SegCache.real (BitVec.ofNat 16 v) 3
  { s.jumped (off &&& 0xFFFF) with
    flags := Flags.ofImage img, cpl := 3, gpr := { s.gpr with esp := BitVec.ofNat 32 esp }
    segs := { cs := SegCache.real sel 3, ss := w ss, es := w es, ds := w ds, fs := w fs, gs := w gs } }

theorem iretToV86_of_stackRead {s u1 u2 u3 u4 u5 u6 : State} {esp ss es ds fs gs : Nat}
    (h1 : stackRead 12 4 s = .ok esp u1) (h2 : stackRead 16 4 u1 = .ok ss u2) (h3 : stackRead 20 4 u2 = .ok es u3)
    (h4 : stackRead 24 4 u3 = .ok ds u4) (h5 : stackRead 28 4 u4 = .ok fs u5) (h6 : stackRead 32 4 u5 = .ok gs u6)
    (sel : Word16) (off img : Word32) :
    iretToV86 sel off img s = .ok () (u6.enterV86 sel off img esp ss es ds fs gs) := by
  rw [iretToV86, bind_of_ok h1, bind_of_ok h2, bind_of_ok h3, bind_of_ok h4, bind_of_ok h5, bind_of_ok h6]
  rfl

/-- Settles O33: a software interrupt completes where its event is delivered, and IRET by the mode and by the image. -/
theorem interruptsAndReturnsComplete : Obligations.InterruptsAndReturnsComplete := by
  refine ⟨⟨fun v i s s1 s2 s3 off sel hi hpe hinside hpush hoff hsel => ?_, fun s hovf => ?_, fun v i s t hi h => ?_⟩,
    fun s s1 s2 s3 off sel img hp hiopl hle => ?_, fun s s1 s2 s3 off sel img hp hnt => ?_⟩
  · have hallowed : s.v86 = true → s.flags.iopl = 3 := by simp [State.v86_of_not_pe hpe]
    rw [exec_eq_softwareInterrupt (hi.imp_left fun h => ⟨h, hallowed⟩)]
    exact runInstr_of_ok ((softwareInterrupt_apply v s).trans (deliver_of_real hpe hinside hpush hoff hsel))
  · rw [exec_into, if_neg (by simp [hovf])]
    exact runInstr_of_ok (pure_apply () s)
  · rw [exec_eq_softwareInterrupt hi]
    exact runInstr_of_ok ((softwareInterrupt_apply v s).trans h)
  · intro n hoff hsel himg t
    obtain ⟨hreturn, hnmi⟩ := iretByMode_of_not_protected (s := s.returning) hp hle hoff hsel himg
    rw [s.osBits_div_beq] at hreturn
    exact ⟨runInstr_of_ok ((interruptReturn_of_allowed hiopl).trans hreturn), hnmi⟩
  · intro n image hoff hsel himg
    have hmode : interruptReturn s = iretProtected n s.returning :=
      (interruptReturn_of_allowed fun hv => absurd hv (by simp [State.v86_of_protected hp])).trans
        (iretByMode_of_protected (s := s.returning) hp hnt _)
    have hsize : n = 4 ↔ s.os32 = true := by rw [← s.osBits_div_beq, beq_iff_eq]
    refine ⟨fun hv86 t h => ?_, fun hos hvm hlevel esp ss es ds fs gs u1 u2 u3 u4 u5 u6 h1 h2 h3 h4 h5 h6 => ?_⟩
    · rw [← hsize] at hv86
      have hreturn := iretProtected_of_returnsTo (s := s.returning) hoff hsel himg hv86 h
      rw [s.osBits_div_beq] at hreturn
      exact runInstr_of_ok (hmode.trans hreturn)
    · have hreturn := iretProtected_of_stackRead (s := s.returning) hoff hsel himg
      rw [ite_apply, if_pos ⟨hsize.2 hos, hvm, hlevel⟩, iretToV86_of_stackRead h1 h2 h3 h4 h5 h6] at hreturn
      exact runInstr_of_ok (hmode.trans hreturn)

end Sys2Proof.Machine

/-! The tests that stand before an operating-system instruction (47_os_support.md R570, R571): where one fails nothing of the
instruction is done, so no step above level 0 loads a system register (10_state.md R61 to R85). -/

namespace Sys2Proof.Machine

/-! ### The tests of level and mode -/

section Forbidden

variable {α : Type} {s : State}

theorem privileged_of_forbidden (h : s.privilegedOk = false) : privileged s = .error (.gp 0) s := by
  rw [privileged, bind_of_ok (get_apply s), raiseIf_apply, if_pos (by simpa only [State.privilegedOk, Bool.not_eq_false'] using h)]

theorem protectedOnly_of_not_protected (h : s.protected = false) : protectedOnly s = .error .ud s := by
  rw [protectedOnly, bind_of_ok (get_apply s), raiseIf_apply, if_pos (by rw [h]; rfl)]

theorem protectedOnly_of_protected (h : s.protected = true) : protectedOnly s = .ok () s := by
  rw [protectedOnly, bind_of_ok (get_apply s), raiseIf_apply, if_neg (by rw [h]; decide)]

theorem level0_of_level_ne (h : s.level ≠ 0) : level0 s = .error (.gp 0) s := by
  rw [level0, bind_of_ok (get_apply s), raiseIf_apply, if_pos (by simpa using h)]

theorem State.privilegedOk_eq_false_iff (s : State) :
    s.privilegedOk = false ↔ s.cr0.pe = true ∧ (s.flags.vm = true ∨ s.cpl ≠ 0) := by
  simp only [State.privilegedOk, Bool.not_eq_false', Bool.and_eq_true, Bool.or_eq_true, bne_iff_ne]

/-- Code above level 0, V86 code too, is not privileged. -/
theorem State.privilegedOk_of_level_ne (h : s.level ≠ 0) : s.privilegedOk = false := by
  rw [State.privilegedOk_eq_false_iff]
  unfold State.level at h
  split at h
  · exact absurd rfl h
  · next hpe =>
    refine ⟨by simpa using hpe, ?_⟩
    split at h
    · next hvm => exact .inl hvm
    · exact .inr h

end Forbidden

/-! ### Privileged instructions -/

section Privileged

variable {s : State} (h : s.privilegedOk = false)
include h

theorem exec_loadTable_of_forbidden (m : Mem) :
    exec (.lgdtMs m) s = takeExc s s (.gp 0) ∧ exec (.lidtMs m) s = takeExc s s (.gp 0) :=
  have ht : loadTable m s = .error (.gp 0) s := bind_of_error (privileged_of_forbidden h)
  ⟨runInstr_of_error (bind_of_error ht), runInstr_of_error (bind_of_error ht)⟩

theorem exec_lmsw_of_forbidden (e : Rm Reg) : exec (.lmswEw e) s = takeExc s s (.gp 0) :=
  runInstr_of_error (bind_of_error (privileged_of_forbidden h))

/-- The moves to and from the control, debug and test registers. -/
theorem exec_moveSpecial_of_forbidden (md : BitVec 2) (n : BitVec 3) (r : Reg) :
    exec (.movRCr md n r) s = takeExc s s (.gp 0) ∧ exec (.movCrR md n r) s = takeExc s s (.gp 0)
      ∧ exec (.movRDr md n r) s = takeExc s s (.gp 0) ∧ exec (.movDrR md n r) s = takeExc s s (.gp 0)
      ∧ exec (.movRTr md n r) s = takeExc s s (.gp 0) ∧ exec (.movTrR md n r) s = takeExc s s (.gp 0) :=
  have ht := privileged_of_forbidden h
  ⟨runInstr_of_error (bind_of_error ht), runInstr_of_error (bind_of_error ht), runInstr_of_error (bind_of_error ht),
    runInstr_of_error (bind_of_error ht), runInstr_of_error (bind_of_error ht), runInstr_of_error (bind_of_error ht)⟩

/-- Every instruction that loads a system register is privileged. -/
theorem exec_of_loadsSystem {i : Instr} (hi : loadsSystem i = true) : exec i s = takeExc s s (.gp 0) := by
  unfold loadsSystem at hi
  split at hi
  · next m => exact (exec_loadTable_of_forbidden h m).1
  · next m => exact (exec_loadTable_of_forbidden h m).2
  · next e => exact exec_lmsw_of_forbidden h e
  · next md n r =>
    obtain ⟨-, hcr, -⟩ := exec_moveSpecial_of_forbidden h md n r
    exact hcr
  · next md n r =>
    obtain ⟨-, -, -, hdr, -⟩ := exec_moveSpecial_of_forbidden h md n r
    exact hdr
  · next md n r =>
    obtain ⟨-, -, -, -, -, htr⟩ := exec_moveSpecial_of_forbidden h md n r
    exact htr
  · exact absurd hi Bool.false_ne_true

end Privileged

/-! ### What fetching and prefixes leave as it is -/

/-- A relation that allows what the fetch of an instruction and the noting of its prefixes can change. -/
structure FetchRel (R : State → State → Prop) : Prop extends AccessRel R where
  cur : ∀ (s : State) (c : Latch), R s { s with cur := c }

theorem AccessRel.fetchByte {R : State → State → Prop} (h : AccessRel R)
    (hcount : ∀ (s : State) (p : Word32) (k : Nat), R s { s with cur := { s.cur with npc := p, count := k } }) :
    Within R fetchByte := by
  have hs := h.toSteps
  have hmemory : Within R fetchMemory :=
    within_bind hs (within_get hs) fun _ => within_bind hs (within_linear hs _ _ _ _) fun _ =>
      within_bind hs (within_reads hs _) fun _ => within_bind hs (within_translate h _ _ _) fun _ =>
        within_readByte h _
  have hstream : Within R streamByte := by
    refine within_bind hs (within_get hs) fun s => within_ite hmemory (within_bind hs (within_draw h) fun d => ?_)
    split
    · exact within_pure hs _
    · exact hmemory
  exact within_bind hs (within_get hs) fun _ => within_bind hs (within_raiseIf hs _ _) fun _ =>
    within_bind hs hstream fun _ => within_bind hs (within_update fun s => hcount s _ _) fun _ => within_pure hs _

section FetchRel

variable {R : State → State → Prop} (h : FetchRel R)
include h

theorem FetchRel.fetchByte : Within R fetchByte := h.toAccessRel.fetchByte fun s _ _ => h.cur s _

theorem FetchRel.feed (d : Dec) : Within R (feed d) := by
  induction d with
  | done i => exact within_pure h.toSteps _
  | need k ih => exact within_bind h.toSteps h.fetchByte ih
  | bad => exact within_pure h.toSteps _

theorem FetchRel.drive (d : Dec) : Within R (drive d) := by
  have hs := h.toSteps
  refine within_bind hs ?_ fun i => ?_
  · cases d with
    | done i => exact within_pure hs _
    | need k =>
      exact within_bind hs h.fetchByte fun b =>
        within_bind hs (within_bind hs (within_get hs) fun _ => within_raiseIf hs _ _) fun _ => h.feed (k b)
    | bad => exact within_pure hs _
  · cases i with
    | some i => exact within_pure hs i
    | none => exact within_raise hs _

theorem FetchRel.fetchRest (fuel : Nat) : Within R (fetchRest fuel) := by
  have hs := h.toSteps
  induction fuel with
  | zero => exact within_pure hs _
  | succ k ih =>
    refine within_bind hs (within_get hs) fun _ => within_bind hs (h.feed _) fun i => ?_
    cases i with
    | none => exact within_pure hs _
    | some i =>
      refine within_bind hs (within_update fun s => ?_) fun _ => within_ite ih (within_pure hs _)
      unfold State.noteSizes
      split
      · exact h.cur s _
      · exact h.cur s _
      · exact h.refl s

theorem FetchRel.fetchItem : Within R fetchItem := by
  have hs := h.toSteps
  exact within_bind hs (within_get hs) fun _ => within_bind hs (h.drive _) fun i =>
    within_bind hs (within_raiseIf hs _ _) fun _ =>
      within_bind hs (within_bind hs (within_get hs) fun _ =>
        within_whenever hs (within_bind hs (h.fetchRest _) fun _ => within_update fun s => h.cur s _)) fun _ =>
          within_pure hs _

end FetchRel

/-- The test of privilege comes out alike. -/
def SamePrivilege (s t : State) : Prop := t.privilegedOk = s.privilegedOk

theorem fetchRel_samePrivilege : FetchRel SamePrivilege where
  refl _ := rfl
  trans h k := k.trans h
  draws _ := rfl
  device _ _ := rfl
  store _ _ _ := rfl
  walk _ _ := rfl
  tlb _ _ := rfl
  data _ _ _ _ := rfl
  cur _ _ := rfl

/-- Only the latch is different. -/
def LatchOnly (s t : State) : Prop := t = { s with cur := t.cur }

theorem steps_latchOnly : Steps LatchOnly where
  refl _ := rfl
  trans h k := k.trans (by rw [h])

/-- Each of these bytes notes itself in the latch; LOCK tests the level before. -/
theorem exec_of_isPrefix {i : Instr} (hi : isPrefix i = true) (s : State) :
    ∃ m, exec i s = runPrefix m s ∧ Within LatchOnly m := by
  have hs := steps_latchOnly
  have hnote (f : Latch → Latch) : Within LatchOnly (notePrefix f) := fun _ => rfl
  have hlock : Within LatchOnly ioSensitive := within_bind hs (within_get hs) fun _ => within_raiseIf hs _ _
  unfold isPrefix at hi
  split at hi
  · exact ⟨notePrefix fun c => { c with seg := some .es }, rfl, hnote _⟩
  · exact ⟨notePrefix fun c => { c with seg := some .cs }, rfl, hnote _⟩
  · exact ⟨notePrefix fun c => { c with seg := some .ss }, rfl, hnote _⟩
  · exact ⟨notePrefix fun c => { c with seg := some .ds }, rfl, hnote _⟩
  · exact ⟨notePrefix fun c => { c with seg := some .fs }, rfl, hnote _⟩
  · exact ⟨notePrefix fun c => { c with seg := some .gs }, rfl, hnote _⟩
  · exact ⟨notePrefix fun c => { c with opSize := true }, rfl, hnote _⟩
  · exact ⟨notePrefix fun c => { c with adSize := true }, rfl, hnote _⟩
  · exact ⟨_, rfl, within_bind hs hlock fun _ => hnote _⟩
  · exact ⟨notePrefix fun c => { c with rep := some .repne }, rfl, hnote _⟩
  · exact ⟨notePrefix fun c => { c with rep := some .rep }, rfl, hnote _⟩
  · exact absurd hi Bool.false_ne_true

/-- What an item of an instruction leaves where more of the instruction follows. -/
theorem latchOnly_of_inPrefix {i : Instr} {s t : State} (h : exec i s = .next t) (ht : t.cur.inPrefix = true) :
    LatchOnly s t := by
  have hnot : ¬ Settled t := fun hidle => by
    rw [show t.cur = Latch.idle from hidle] at ht
    exact Bool.false_ne_true ht
  cases hi : isPrefix i with
  | false =>
    obtain ⟨m, hm⟩ := exec_eq_run i s
    rw [hi, if_neg Bool.false_ne_true] at hm
    exact absurd (settled_runInstr m s t (hm ▸ h)) hnot
  | true =>
    obtain ⟨m, hm, hlatch⟩ := exec_of_isPrefix hi s
    rw [hm, runPrefix] at h
    split at h
    · next u hu => cases h; exact hlatch.of_ok hu ▸ rfl
    · next x u _ => exact absurd (settled_takeExc s u x t h) hnot

/-! ### A step above level 0 -/

/-- The registers that only privileged instructions load, CR0 but for TS, and the platform's memory map. -/
def State.systemRegisters (s : State) :
    (TableReg × TableReg) × (Word32 × Word32 × Word32 × Word32) × (Word32 × Word32) × Cr0 × List Region :=
  ((s.gdtr, s.idtr), (s.dr0, s.dr1, s.dr2, s.dr3), (s.tr6, s.tr7), { s.cr0 with ts := false }, s.memMap)

def SameSystem (s t : State) : Prop := t.systemRegisters = s.systemRegisters

theorem machineRel_sameSystem : MachineRel SameSystem where
  refl _ := rfl
  trans h k := k.trans h
  pe h := congrArg (fun r => r.2.2.2.1.pe) h
  gpr _ _ := rfl
  pc _ _ := rfl
  cur _ _ := rfl
  segs _ _ := rfl
  stale _ _ := rfl
  tlb _ _ := rfl
  draws _ _ := rfl
  ioTrace _ _ := rfl
  dbgPending _ _ := rfl
  repActive _ _ := rfl
  unrestartable _ _ := rfl
  run _ _ := rfl
  nmiInService _ _ := rfl
  nmiPending _ _ := rfl
  intr _ _ := rfl
  cr2 _ _ := rfl
  ldtr _ _ := rfl
  tr _ _ := rfl
  ts _ _ := rfl
  mem _ _ _ := rfl
  dr6 _ _ _ := rfl
  dr7 _ := rfl
  cr3 _ _ := rfl
  flags _ _ _ := rfl
  mode _ _ _ _ := rfl

theorem next_exec_sameSystem (i : Instr) {s : State} (h : s.privilegedOk = false) :
    NextWithin SameSystem s (exec i s) := by
  have hR := machineRel_sameSystem
  cases hi : loadsSystem i with
  | false => exact next_exec hR i hi s
  | true => rw [exec_of_loadsSystem h hi]; exact next_takeExc hR (hR.refl s) _

theorem next_runItems_sameSystem (fuel : Nat) {s : State} (h : s.privilegedOk = false) :
    NextWithin SameSystem s (runItems fuel s) := by
  have hR := machineRel_sameSystem
  induction fuel generalizing s with
  | zero => exact next_takeExc hR (hR.refl s) _
  | succ fuel ih =>
    have hf := within_fetchItem hR s
    rw [runItems]
    cases hr : fetchItem s with
    | error x s1 => rw [hr] at hf; exact next_takeExc hR hf x
    | ok i s1 =>
      rw [hr] at hf
      have h1 : s1.privilegedOk = false := (fetchRel_samePrivilege.fetchItem.of_ok hr).trans h
      have hx := next_exec_sameSystem i h1
      dsimp only
      cases he : exec i s1 with
      | fault r => exact .fault
      | refused r => exact .refused
      | next t =>
        have ht := hR.trans hf (hx t he)
        dsimp only
        split
        · next hp =>
          have h2 : t.privilegedOk = false := by rw [latchOnly_of_inPrefix he hp]; exact h1
          exact .after hR.toSteps ht (ih h2)
        · exact .next ht

theorem sameSystem_boundaryEvent {s t : State} {e : Event} (h : boundaryEvent s = some (t, e)) : SameSystem s t := by
  unfold boundaryEvent at h
  split at h
  · cases h; rfl
  · split at h
    · cases h; rfl
    · split at h
      · cases h; rfl
      · split at h <;> cases h
        rfl

theorem next_runningStep_sameSystem {s : State} (h : s.privilegedOk = false) :
    NextWithin SameSystem s (runningStep s) := by
  have hR := machineRel_sameSystem
  unfold runningStep
  split
  · next t e hb => exact .after hR.toSteps (sameSystem_boundaryEvent hb) (next_deliverFrom hR _ t e)
  · have hbegin : SameSystem s s.noteBreaks.begin := rfl
    exact .after hR.toSteps hbegin (next_runItems_sameSystem _ h)

theorem next_shutdownStep_sameSystem (s : State) : NextWithin SameSystem s (shutdownStep s) := by
  have hR := machineRel_sameSystem
  have hd : SameSystem s _ := within_deliver hR (externalEvent s 2) { s.takeNmi with run := .running }
  unfold shutdownStep
  dsimp only
  split
  · exact .next rfl
  · split
    · exact .next rfl
    · split
      · next t hr => rw [hr] at hd; exact .next (hR.trans hd (rel_settle hR t))
      · exact .next rfl

theorem next_step_sameSystem {s : State} (h : s.privilegedOk = false) : NextWithin SameSystem s (step s) := by
  unfold step
  split
  · exact next_shutdownStep_sameSystem s
  · split
    · have hwoken : SameSystem s { s with run := .running } := rfl
      exact .after machineRel_sameSystem.toSteps hwoken (next_runningStep_sameSystem h)
    · exact .next rfl
  · exact next_runningStep_sameSystem h

/-- Settles O60: an instruction that would load a system register traps before, and nothing else that a step is made of loads
one. -/
theorem userStepsKeepSystemRegisters : Obligations.UserStepsKeepSystemRegisters := by
  intro s t _ hlevel ht
  have h : SameSystem s t := next_step_sameSystem (State.privilegedOk_of_level_ne hlevel) t ht
  simp only [SameSystem, State.systemRegisters, Prod.mk.injEq] at h
  obtain ⟨⟨hgdtr, hidtr⟩, ⟨h0, h1, h2, h3⟩, ⟨h6, h7⟩, hcr0, hmap⟩ := h
  exact ⟨hgdtr, hidtr, h0, h1, h2, h3, h6, h7, congrArg (fun c : Cr0 => { c with ts := t.cr0.ts }) hcr0, hmap⟩

/-! ### The instructions that trap -/

/-- Settles O39: the test of privilege, or of level 0, comes before all else that the instruction does. -/
theorem privilegedInstructionsTrap : Obligations.PrivilegedInstructionsTrap := by
  intro s hpe hlevel
  have h : s.privilegedOk = false := s.privilegedOk_eq_false_iff.2 ⟨hpe, hlevel⟩
  have ht := privileged_of_forbidden h
  refine ⟨exec_loadTable_of_forbidden h, exec_lmsw_of_forbidden h, runInstr_of_error (bind_of_error ht),
    runInstr_of_error (bind_of_error ht), fun hvm e => ?_, exec_moveSpecial_of_forbidden h⟩
  have hp : s.protected = true := by simp [State.protected, hpe, hvm]
  have hl : s.level ≠ 0 := by simpa [State.level, hpe, hvm] using hlevel
  have hload {m : Unit → M Unit} : (protectedOnly >>= fun _ => level0 >>= m) s = .error (.gp 0) s :=
    (bind_of_ok (protectedOnly_of_protected hp)).trans (bind_of_error (level0_of_level_ne hl))
  exact ⟨runInstr_of_error hload, runInstr_of_error hload⟩

/-- Settles O41: the test of the mode comes before all else that the instruction does. -/
theorem protectedOnlyInstructionsTrap : Obligations.ProtectedOnlyInstructionsTrap := by
  intro s e g h
  have hp : s.protected = false := by rcases h with h | h <;> simp [State.protected, h]
  have ht {m : Unit → M Unit} : runInstr (protectedOnly >>= m) s = takeExc s s .ud :=
    runInstr_of_error (bind_of_error (protectedOnly_of_not_protected hp))
  exact ⟨ht, ht, ht, ht, ht, ht, ht, ht, ht⟩

end Sys2Proof.Machine

/-! The instructions that control the processor (48_processor_control.md R580 to R588, R590, R591, 47_os_support.md R556). -/

namespace Sys2Proof.Machine

/-- Settles O17: each of the five is one write of the flags. -/
theorem flagInstructionsWriteOneFlag : Obligations.FlagInstructionsWriteOneFlag := fun s =>
  have hwrite (g : Flags → Flags) : runInstr (setFlags g) s = .next ((s.withFlags (g s.flags)).complete s.flags.tf) :=
    runInstr_of_ok (setFlags_apply g s)
  ⟨hwrite fun f => { f with cf := false }, hwrite fun f => { f with cf := true },
    hwrite fun f => { f with cf := !f.cf }, hwrite fun f => { f with df := false },
    hwrite fun f => { f with df := true }⟩

theorem privileged_of_allowed {s : State} (h : s.privilegedOk = true) : privileged s = .ok () s :=
  privileged_eq_ok.2 ⟨h, rfl⟩

/-! ### The coprocessor -/

section Coprocessor

variable {s : State}

theorem waitCoprocessor_of_not_armed (h : s.cr0.mp = false ∨ s.cr0.ts = false) : waitCoprocessor s = .ok () s := by
  have hc : (s.cr0.mp && s.cr0.ts) = false := by rcases h with h | h <;> simp [h]
  exact (bind_of_ok (get_apply s)).trans (raiseIf_eq_ok.2 ⟨hc, rfl⟩)

theorem waitCoprocessor_of_armed (hmp : s.cr0.mp = true) (hts : s.cr0.ts = true) :
    waitCoprocessor s = .error .nm s := by
  rw [waitCoprocessor, bind_of_ok (get_apply s), raiseIf_apply, hmp, hts]; rfl

theorem escape_of_armed (h : s.cr0.em = true ∨ s.cr0.ts = true) (hi op : BitVec 3) (e : Rm Reg) :
    escape hi op e s = .error .nm s :=
  (bind_of_ok (get_apply s)).trans (raiseIf_bind_of_true (by rcases h with h | h <;> simp [h]))

section NotArmed

variable (hem : s.cr0.em = false) (hts : s.cr0.ts = false) (hi op : BitVec 3)
include hem hts

theorem escape_reg_of_not_armed (r : Reg) : escape hi op (.reg r) s = .ok () s :=
  (bind_of_ok (get_apply s)).trans (raiseIf_bind_of_false (by rw [hem, hts]; rfl))

theorem escape_mem_of_not_armed (m : Mem) :
    escape hi op (.mem m) s = segProbe (s.memSegment m) (s.ea m) 1 false s :=
  (bind_of_ok (get_apply s)).trans (raiseIf_bind_of_false (by rw [hem, hts]; rfl))

end NotArmed

/-- With paging off a probe is the tests of the segment. -/
theorem segProbe_of_no_segFault (hpg : s.cr0.pg = false) {r : SegReg} {off : Word32} {n : Nat} {w : Bool}
    (h : s.segFault r off n (if w then .write else .read) = none) : segProbe r off n w s = .ok () s := by
  rw [segProbe, bind_of_ok (linear_of_no_segFault h), bind_of_ok (reads_apply _ s),
    bind_of_ok (physicalBytes_of_not_pg hpg _ _ _ _), pure_apply]

end Coprocessor

/-! ### ESC at its opcode byte -/

theorem isEscape_of_range {b : Byte} (hlow : 0xD8 ≤ b.toNat) (hhigh : b.toNat ≤ 0xDF) : isEscape b = true := by
  rw [isEscape, beq_iff_eq]
  apply BitVec.eq_of_toNat_eq
  rw [BitVec.extractLsb'_toNat, Nat.shiftRight_eq_div_pow, BitVec.toNat_ofNat]
  omega

/-- CR0 and the note of LOCK are the same. -/
def SameEscapeTest (s t : State) : Prop := t.cr0 = s.cr0 ∧ t.cur.lock = s.cur.lock

theorem accessRel_sameEscapeTest : AccessRel SameEscapeTest where
  refl _ := ⟨rfl, rfl⟩
  trans h k := ⟨k.1.trans h.1, k.2.trans h.2⟩
  draws _ := ⟨rfl, rfl⟩
  device _ _ := ⟨rfl, rfl⟩
  store _ _ _ := ⟨rfl, rfl⟩
  walk _ _ := ⟨rfl, rfl⟩
  tlb _ _ := ⟨rfl, rfl⟩
  data _ _ _ _ := ⟨rfl, rfl⟩

theorem fetchItem_of_armed_escape {b : Byte} {s t : State} (hb : fetchByte s = .ok b t) (hlow : 0xD8 ≤ b.toNat)
    (hhigh : b.toNat ≤ 0xDF) (hlock : s.cur.lock = false) (h : s.cr0.em = true ∨ s.cr0.ts = true) :
    fetchItem s = .error .nm t := by
  obtain ⟨hcr0, hlock'⟩ : SameEscapeTest s t :=
    (accessRel_sameEscapeTest.fetchByte fun _ _ _ => ⟨rfl, rfl⟩).of_ok hb
  have htest : escapeTest b t = .error .nm t := by
    rw [escapeTest, bind_of_ok (get_apply t), raiseIf_apply, isEscape_of_range hlow hhigh, hlock', hlock, hcr0,
      if_pos (by rcases h with h | h <;> simp [h])]
  have hopcode (c : Ctx) : feedOpcode (decode c) s = .error .nm t := (bind_of_ok hb).trans (bind_of_error htest)
  exact (bind_of_ok (get_apply s)).trans (bind_of_error (bind_of_error (hopcode _)))

/-- Settles O18: each instruction behind its test, and the trap where the test fails. -/
theorem processorControlComplete : Obligations.ProcessorControlComplete := by
  refine ⟨fun s => ⟨runInstr_of_ok (pure_apply () s), fun hio => ?_, fun hp => ?_,
    fun h => runInstr_of_ok (waitCoprocessor_of_not_armed h),
    fun hi op r hem hts => runInstr_of_ok (escape_reg_of_not_armed hem hts hi op r), fun hi op m hem hts => ?_⟩,
    fun s => ⟨fun hmp hts => runInstr_of_error (waitCoprocessor_of_armed hmp hts),
      fun hi op e h => runInstr_of_error (escape_of_armed h hi op e), fun b t => fetchItem_of_armed_escape⟩⟩
  · have ht := ioSensitive_of_allowed hio
    exact ⟨runInstr_of_ok (bind_of_ok ht), runInstr_of_ok (bind_of_ok ht)⟩
  · have ht := privileged_of_allowed hp
    exact ⟨runInstr_of_ok (bind_of_ok ht), runInstr_of_ok (bind_of_ok ht)⟩
  · have hprobe := escape_mem_of_not_armed hem hts hi op m
    exact ⟨fun hpg hf => runInstr_of_ok (hprobe.trans (segProbe_of_no_segFault hpg hf)),
      fun t h => runInstr_of_ok (hprobe.trans h), fun x t h => runInstr_of_error (hprobe.trans h)⟩

end Sys2Proof.Machine

/-! ENTER, LEAVE and BOUND (46_hll_support.md R530 to R532), given what the stack and memory take and give. -/

namespace Sys2Proof.Machine

/-! ### The display -/

theorem copyFrames_zero (n : Nat) (s : State) : copyFrames n 0 s = .ok () s := rfl

/-- One outer frame pointer is copied, and the others after it. -/
theorem copyFrames_succ {n count v : Nat} {s s1 s2 : State}
    (hread : segRead .ss (((s.setRegN .ebp (s.regN n .ebp - BitVec.ofNat n (n / 8))).regN n .ebp).setWidth 32) (n / 8)
      (s.setRegN .ebp (s.regN n .ebp - BitVec.ofNat n (n / 8))) = .ok v s1)
    (hpush : push (n / 8) v s1 = .ok () s2) : copyFrames n (count + 1) s = copyFrames n count s2 := by
  rw [copyFrames, bind_of_ok (update_apply _ s), bind_of_ok (get_apply _), bind_of_ok hread, bind_of_ok hpush]

/-- `t` is `s` after the display of a frame at a nesting depth was pushed (46_hll_support.md R530). -/
def DisplayPushed (n depth : Nat) (frame : Word32) (s t : State) : Prop :=
  (depth = 0 ∧ t = s)
    ∨ (0 < depth ∧ ∃ u, copyFrames n (depth - 1) s = .ok () u ∧ push (n / 8) frame.toNat u = .ok () t)

theorem pushDisplay_of_pushed {n depth : Nat} {frame : Word32} {s t : State} (h : DisplayPushed n depth frame s t) :
    pushDisplay n depth frame s = .ok () t := by
  rw [pushDisplay, ite_apply]
  rcases h with ⟨rfl, rfl⟩ | ⟨hdepth, u, hcopy, hpush⟩
  · rw [if_pos rfl, pure_apply]
  · rw [if_neg (Nat.ne_of_gt hdepth), bind_of_ok hcopy, hpush]

/-! ### The instructions -/

section Frames

variable {s s0 s1 s2 : State}

theorem enterFrame_of_pushes {size : Word16} {level : Byte}
    (hprobe : probePushes (s.osBits / 8) (level.toNat % 32 + 1) s.sp s = .ok () s0)
    (hpush : push (s.osBits / 8) (s.regN s.osBits .ebp).toNat s0 = .ok () s1)
    (hdisplay : DisplayPushed s.osBits (level.toNat % 32) s1.sp s1 s2) :
    let t := s2.setRegN .ebp (s1.sp.setWidth s.osBits)
    enterFrame size level s = .ok () (t.withSp (t.stackOffset (t.sp - size.setWidth 32))) := by
  rw [enterFrame, bySize_apply, bind_of_ok (get_apply s), bind_of_ok hprobe, bind_of_ok hpush,
    bind_of_ok (reads_apply _ s1), bind_of_ok (pushDisplay_of_pushed hdisplay),
    bind_of_ok (setRegister_apply .ebp _ s2), update_apply]

theorem enterFrame_of_probe_error {size : Word16} {level : Byte} {x : Exc}
    (h : probePushes (s.osBits / 8) (level.toNat % 32 + 1) s.sp s = .error x s0) :
    enterFrame size level s = .error x s0 := by
  rw [enterFrame, bySize_apply, bind_of_ok (get_apply s), bind_of_error h]

theorem leaveFrame_of_pop {v : Nat} (h : pop (s.osBits / 8) (s.withSp (s.stackOffset (s.reg .ebp))) = .ok v s1) :
    leaveFrame s = .ok () (s1.setRegN .ebp (BitVec.ofNat s.osBits v)) := by
  rw [leaveFrame, bySize_apply, bind_of_ok (update_apply _ s), bind_of_ok h, setRegister_apply]

/-- BOUND reads both bounds, then tests the index. -/
theorem checkBound_of_segRead {g : Reg} {m : Mem} {lo hi : Nat}
    (hlo : segRead (s.memSegment m) (s.ea m) (s.osBits / 8) s = .ok lo s1)
    (hhi : segRead (s.memSegment m) (sized s.as32 (s.ea m + BitVec.ofNat 32 (s.osBits / 8))) (s.osBits / 8) s1 = .ok hi s2) :
    checkBound g m s =
      if (BitVec.ofNat s.osBits lo).toInt ≤ (s.regN s.osBits g).toInt
          ∧ (s.regN s.osBits g).toInt ≤ (BitVec.ofNat s.osBits hi).toInt
      then .ok () s2 else .error .br s2 := by
  rw [checkBound, bySize_apply, bind_of_ok (get_apply s), bind_of_ok hlo, State.eaPlus, bind_of_ok hhi, raiseIf_apply]
  simp only [Bool.or_eq_true, decide_eq_true_eq, ← Int.not_le, ← Decidable.not_and_iff_not_or_not, ite_not]

end Frames

/-- Settles O42: each instruction by its parts, and the display item by item. -/
theorem frameFormsComplete : Obligations.FrameFormsComplete := by
  refine ⟨⟨?_, ?_, ?_⟩, fun n count s s1 s2 v => ⟨copyFrames_zero n s, copyFrames_succ⟩,
    fun size level s s0 x h => runInstr_of_error (enterFrame_of_probe_error h)⟩
  · intro size level s s0 s1 s2 n hprobe hpush hdisplay t
    have hpushed : DisplayPushed s.osBits (level.toNat % 32) s1.sp s1 s2 := hdisplay
    exact runInstr_of_ok (enterFrame_of_pushes hprobe hpush hpushed)
  · intro s s1 v n hpop
    exact runInstr_of_ok (leaveFrame_of_pop hpop)
  · intro g m s s1 s2 lo hi n hlo hhi inside
    have hcheck := checkBound_of_segRead (g := g) hlo hhi
    exact ⟨fun h => runInstr_of_ok (hcheck.trans (if_pos h)), fun h => runInstr_of_error (hcheck.trans (if_neg h))⟩

end Sys2Proof.Machine

/-! The registers of the operating system (47_os_support.md R540 to R555): the table registers, the machine status word and the
control, debug and test registers, and LDTR and TR. -/

namespace Sys2Proof.Machine

/-! ### GDTR and IDTR -/

section Tables

variable {m : Mem} {s s1 s2 : State}

theorem loadTable_of_segRead {lim b : Nat} (hp : s.privilegedOk = true)
    (hlim : segRead (s.memSegment m) (s.ea m) 2 s = .ok lim s1)
    (hbase : segRead (s.memSegment m) (sized s.as32 (s.ea m + 2)) 4 s1 = .ok b s2) :
    loadTable m s = .ok { limit := BitVec.ofNat 16 lim
                          base := if s.os32 then BitVec.ofNat 32 b else BitVec.ofNat 32 b &&& 0xFFFFFF } s2 :=
  (bind_of_ok (privileged_of_allowed hp)).trans
    ((bind_of_ok (get_apply s)).trans ((bind_of_ok hlim).trans (bind_of_ok hbase)))

variable {f : State → TableReg} (hlim : segWrite (s.memSegment m) (s.ea m) 2 (f s).limit.toNat s = .ok () s1)
include hlim

theorem storeTable_of_os32 (h : s.os32 = true)
    (hbase : segWrite (s.memSegment m) (sized s.as32 (s.ea m + 2)) 4 (f s).base.toNat s1 = .ok () s2) :
    storeTable m f s = .ok () s2 := by
  rw [storeTable, bind_of_ok (get_apply s), bind_of_ok hlim, ite_apply, if_pos h]
  exact hbase

/-- With 16-bit operands the top byte of the base is a free value. -/
theorem storeTable_of_not_os32 (h : s.os32 = false)
    (hbase : segWrite (s.memSegment m) (sized s.as32 (s.ea m + 2)) 4
      (((f s).base &&& 0xFFFFFF) ||| (s1.fresh &&& 0xFF000000)).toNat s1.drawn = .ok () s2) :
    storeTable m f s = .ok () s2 := by
  rw [storeTable, bind_of_ok (get_apply s), bind_of_ok hlim, ite_apply, if_neg (by simp [h]), bind_of_ok (draw_apply s1)]
  exact hbase

end Tables

/-- Settles O43: the two registers are loaded alike and stored alike. -/
theorem tableRegisterFormsComplete : Obligations.TableRegisterFormsComplete := by
  refine ⟨?_, ?_⟩
  · intro m s s1 s2 lim b hp hlim hbase t
    have ht := loadTable_of_segRead hp hlim hbase
    exact ⟨runInstr_of_ok (bind_of_ok ht), runInstr_of_ok (bind_of_ok ht)⟩
  · rintro m s s1 s2 t i (⟨rfl, rfl⟩ | ⟨rfl, rfl⟩) hlim
    · exact ⟨fun hos hbase => runInstr_of_ok (storeTable_of_os32 (f := State.gdtr) hlim hos hbase),
        fun hos hbase => runInstr_of_ok (storeTable_of_not_os32 (f := State.gdtr) hlim hos hbase)⟩
    · exact ⟨fun hos hbase => runInstr_of_ok (storeTable_of_os32 (f := State.idtr) hlim hos hbase),
        fun hos hbase => runInstr_of_ok (storeTable_of_not_os32 (f := State.idtr) hlim hos hbase)⟩

/-! ### CR0, CR2 and CR3 -/

theorem undefinedStatus_apply (s : State) : undefinedStatus s = .ok () s.withFreeStatus := rfl

theorem cr0Image_apply (s : State) : cr0Image s = .ok (s.cr0.image (s.fresh.extractLsb' 5 26)) s.drawn := rfl

section Special

variable {s : State} (hp : s.privilegedOk = true)
include hp

theorem loadMsw_of_readRm {e : Rm Reg} {v : Word16} {s1 : State} (h : readRm 16 e s = .ok v s1) :
    loadMsw e s = .ok () { s1 with cr0 := { s1.cr0 with pe := s1.cr0.pe || v.getLsbD 0, mp := v.getLsbD 1,
                                                        em := v.getLsbD 2, ts := v.getLsbD 3 } } :=
  (bind_of_ok (privileged_of_allowed hp)).trans (bind_of_ok h)

/-- A control register that does not exist. -/
theorem control_of_undefined {n : BitVec 3} (h0 : n ≠ 0) (h2 : n ≠ 2) (h3 : n ≠ 3) (r : Reg) :
    readControl n r s = .error .ud s ∧ writeControl n r s = .error .ud s := by
  have hc : (!(n == 0 || n == 2 || n == 3)) = true := by
    simp only [beq_eq_false_iff_ne.2 h0, beq_eq_false_iff_ne.2 h2, beq_eq_false_iff_ne.2 h3, Bool.or_false, Bool.not_false]
  have ht := privileged_of_allowed hp
  exact ⟨(bind_of_ok ht).trans (raiseIf_bind_of_true hc), (bind_of_ok ht).trans (raiseIf_bind_of_true hc)⟩

theorem debug_of_undefined {n : BitVec 3} (hn : n = 4 ∨ n = 5) (r : Reg) :
    readDebug n r s = .error .ud s ∧ writeDebug n r s = .error .ud s := by
  have ht := privileged_of_allowed hp
  rcases hn with rfl | rfl <;>
    exact ⟨(bind_of_ok ht).trans (raiseIf_bind_of_true rfl), (bind_of_ok ht).trans (raiseIf_bind_of_true rfl)⟩

theorem test_of_undefined {n : BitVec 3} (h6 : n ≠ 6) (h7 : n ≠ 7) (r : Reg) :
    readTest n r s = .error .ud s ∧ writeTest n r s = .error .ud s := by
  have hc : (!(n == 6 || n == 7)) = true := by
    simp only [beq_eq_false_iff_ne.2 h6, beq_eq_false_iff_ne.2 h7, Bool.or_false, Bool.not_false]
  have ht := privileged_of_allowed hp
  exact ⟨(bind_of_ok ht).trans (raiseIf_bind_of_true hc), (bind_of_ok ht).trans (raiseIf_bind_of_true hc)⟩

theorem writeControl_zero_of_loadCr0 {r : Reg} {t : State} (h : loadCr0 (s.reg r) s = .ok () t) :
    writeControl 0 r s = .ok () t.withFreeStatus :=
  (bind_of_ok (privileged_of_allowed hp)).trans ((bind_of_ok h).trans (undefinedStatus_apply t))

theorem writeControl_zero_of_loadCr0_error {r : Reg} {x : Exc} {t : State} (h : loadCr0 (s.reg r) s = .error x t) :
    writeControl 0 r s = .error x t :=
  (bind_of_ok (privileged_of_allowed hp)).trans ((raiseIf_bind_of_false rfl).trans ((bind_of_ok rfl).trans (bind_of_error h)))

theorem writeControl_three (r : Reg) : writeControl 3 r s = .ok ()
    ({ (if s.cr0.pg then s.keepQueue else s) with cr3 := s.reg r &&& 0xFFFFF000, tlb := [] } : State).withFreeStatus := by
  refine (bind_of_ok (privileged_of_allowed hp)).trans ?_
  have hload : loadCr3 (s.reg r) s
      = .ok () { (if s.cr0.pg then s.keepQueue else s) with cr3 := s.reg r &&& 0xFFFFF000, tlb := [] } := by
    rw [loadCr3, bind_of_ok (get_apply s)]
    cases s.cr0.pg <;> rfl
  exact (bind_of_ok hload).trans (undefinedStatus_apply _)

end Special

theorem loadCr0_keeps_iff (v : Word32) (s : State) :
    (bitAt v 31 != s.cr0.pg || (s.cr0.pe && !bitAt v 0)) = false
      ↔ v.getLsbD 31 = s.cr0.pg ∧ (s.cr0.pe = true → v.getLsbD 0 = true) := by
  change (v.getLsbD 31 != s.cr0.pg || (s.cr0.pe && !v.getLsbD 0)) = false ↔ _
  cases v.getLsbD 31 <;> cases s.cr0.pg <;> cases s.cr0.pe <;> cases v.getLsbD 0 <;> decide

/-- What a load of CR0 does where it is not refused. -/
theorem loadCr0_of_allowed {v : Word32} {s : State} (h : v.getLsbD 31 = true → v.getLsbD 0 = true) :
    loadCr0 v s = .ok ()
      { (if v.getLsbD 31 = s.cr0.pg ∧ (s.cr0.pe = true → v.getLsbD 0 = true) then s else s.keepQueue) with
        cr0 := { pe := v.getLsbD 0, mp := v.getLsbD 1, em := v.getLsbD 2, ts := v.getLsbD 3, et := v.getLsbD 4,
                 pg := v.getLsbD 31 } } := by
  have hraise : (bitAt v 31 && !bitAt v 0) = false := by
    rw [Bool.and_eq_false_imp]
    exact fun hpg => by rw [show bitAt v 0 = true from h hpg]; rfl
  rw [loadCr0, bind_of_ok (get_apply s), raiseIf_bind_of_false hraise]
  by_cases hsame : v.getLsbD 31 = s.cr0.pg ∧ (s.cr0.pe = true → v.getLsbD 0 = true)
  · have hq : (bitAt v 31 != s.cr0.pg || (s.cr0.pe && !bitAt v 0)) = false := (loadCr0_keeps_iff v s).2 hsame
    rw [hq, if_pos hsame]
    rfl
  · have hq : (bitAt v 31 != s.cr0.pg || (s.cr0.pe && !bitAt v 0)) = true :=
      eq_true_of_ne_false fun hf => hsame ((loadCr0_keeps_iff v s).1 hf)
    rw [hq, if_neg hsame]
    rfl

theorem loadCr0_of_pagingWithoutProtection {v : Word32} {s : State} (hpg : v.getLsbD 31 = true)
    (hpe : v.getLsbD 0 = false) : loadCr0 v s = .error (.refuse .pagingWithoutProtection) s :=
  (bind_of_ok (get_apply s)).trans (raiseIf_bind_of_true (by rw [bitAt, bitAt, hpg, hpe]; rfl))

/-- Settles O44: past the test of the level each register is loaded or stored as it stands, with the free values drawn. -/
theorem specialRegisterFormsComplete : Obligations.SpecialRegisterFormsComplete := by
  refine ⟨⟨?_, ?_, ?_⟩, ?_⟩
  · intro e s s1 v hp h
    exact runInstr_of_ok (loadMsw_of_readRm hp h)
  · intro e s s1 p h
    exact runInstr_of_ok ((bind_of_ok (cr0Image_apply s)).trans (writeRm_of_open _ h))
  · intro md r s hp v done free
    have ht := privileged_of_allowed hp
    refine ⟨?_, ?_, ?_, ?_, ?_, ?_, ?_, ?_, ?_, ?_, ?_, ?_, ?_, ?_, ?_, ?_, ?_, ?_, ?_, ?_, ?_, ?_, ?_⟩
    case refine_5 => exact runInstr_of_ok (writeControl_three hp r)
    case refine_6 => exact fun h => runInstr_of_ok (writeControl_zero_of_loadCr0 hp (loadCr0_of_allowed h))
    case refine_7 =>
      exact fun hpg hpe => runInstr_of_error
        (writeControl_zero_of_loadCr0_error hp (loadCr0_of_pagingWithoutProtection hpg hpe))
    all_goals exact runInstr_of_ok (bind_of_ok ht)
  · intro md n r s hp ud
    exact ⟨fun h0 h2 h3 => (control_of_undefined hp h0 h2 h3 r).imp runInstr_of_error runInstr_of_error,
      fun hn => (debug_of_undefined hp hn r).imp runInstr_of_error runInstr_of_error,
      fun h6 h7 => (test_of_undefined hp h6 h7 r).imp runInstr_of_error runInstr_of_error⟩

end Sys2Proof.Machine

/-! LDTR and TR (47_os_support.md R544 to R547) and the validation of pointers (R560 to R572). -/

namespace Sys2Proof.Machine

/-! ### LDTR and TR -/

theorem level0_of_level_eq {s : State} (h : s.level = 0) : level0 s = .ok () s := by
  rw [level0, bind_of_ok (get_apply s), raiseIf_apply, h]; rfl

theorem State.level_of_protected {s : State} (h : s.protected = true) : s.level = s.cpl := by
  simp only [State.protected, Bool.and_eq_true, Bool.not_eq_true'] at h
  rw [State.level, h.1, h.2]; rfl

theorem storeSystem_of_open {e : Rm Reg} {s s1 : State} {p : Place Reg} (hp : s.protected = true)
    (h : openRm 16 e s = .ok p s1) (f : State → Word16) : storeSystem e f s = .ok () (p.put (f s) s1) :=
  (bind_of_ok (protectedOnly_of_protected hp)).trans ((bind_of_ok (get_apply s)).trans (writeRm_of_open _ h))

section Load

variable {e : Rm Reg} {s s1 : State} {sel : Word16} (hp : s.protected = true) (hcpl : s.cpl = 0)
  (hsel : readRm 16 e s = .ok sel s1)
include hp hcpl hsel

theorem loadLdtr_of_null (hn : isNull sel = true) :
    loadLdtr e s = .ok () { s1 with ldtr := { s1.ldtr with sel := sel, valid := false } } := by
  rw [loadLdtr, bind_of_ok (protectedOnly_of_protected hp),
    bind_of_ok (level0_of_level_eq ((State.level_of_protected hp).trans hcpl)), bind_of_ok hsel, ite_apply, if_pos hn]
  rfl

variable (hn : isNull sel = false) (hti : sel.getLsbD 2 = false) {d : Desc} {s2 : State}
  (hd : readDesc sel .gp s1 = .ok d s2) (hpresent : d.present = true)
include hn hti hd hpresent

theorem loadLdtr_of_desc (htype : d.isSystem 2 = true) :
    loadLdtr e s = .ok ()
      { s2 with ldtr := { sel := sel, base := d.base, limit := d.limit, valid := true, is386 := false } } := by
  rw [loadLdtr, bind_of_ok (protectedOnly_of_protected hp),
    bind_of_ok (level0_of_level_eq ((State.level_of_protected hp).trans hcpl)), bind_of_ok hsel, ite_apply,
    if_neg (by simp [hn]), raiseIf_bind_of_false (show bitAt sel 2 = false from hti), bind_of_ok hd, raiseIf_bind_of_false (by simp [htype]),
    raiseIf_bind_of_false (by simp [hpresent])]
  rfl

theorem loadTr_of_desc (htype : d.isSystem 1 = true ∨ d.isSystem 9 = true) {s3 : State}
    (hbusy : setBusy sel true s2 = .ok () s3) :
    loadTr e s = .ok ()
      { s3 with tr := { sel := sel, base := d.base, limit := d.limit, valid := true, is386 := d.isSystem 9 } } := by
  have his386 : (d.type == 9) = d.isSystem 9 := by
    have hseg : d.isSegment = false := htype.elim Desc.isSegment_of_isSystem Desc.isSegment_of_isSystem
    rw [Desc.isSystem, hseg]; rfl
  have htss : (!(d.isSystem 1 || d.isSystem 9)) = false := by
    rw [Bool.not_eq_false', Bool.or_eq_true]
    exact htype
  have htable : (isNull sel || bitAt sel 2) = false := by rw [hn]; exact hti
  rw [loadTr, bind_of_ok (protectedOnly_of_protected hp),
    bind_of_ok (level0_of_level_eq ((State.level_of_protected hp).trans hcpl)), bind_of_ok hsel,
    raiseIf_bind_of_false htable, bind_of_ok hd, raiseIf_bind_of_false htss,
    raiseIf_bind_of_false (by simp [hpresent]), bind_of_ok hbusy, his386]
  rfl

end Load

/-- Settles O45: the checks pass one after the other, and the register takes what the descriptor says. -/
theorem taskAndLdtRegisterFormsComplete : Obligations.TaskAndLdtRegisterFormsComplete := by
  refine ⟨?_, ?_⟩
  · intro e s s1 p hp h
    exact ⟨runInstr_of_ok (storeSystem_of_open hp h _), runInstr_of_ok (storeSystem_of_open hp h _)⟩
  · intro e s s1 sel hp hcpl hsel
    refine ⟨fun hn => runInstr_of_ok (loadLdtr_of_null hp hcpl hsel hn), fun s2 s3 d hn hti hd hpresent => ⟨?_, ?_⟩⟩
    · exact fun htype => runInstr_of_ok (loadLdtr_of_desc hp hcpl hsel hn hti hd hpresent htype)
    · exact fun htype hbusy => runInstr_of_ok (loadTr_of_desc hp hcpl hsel hn hti hd hpresent htype hbusy)

/-! ### Which selectors are visible -/

theorem attempt_of_ok {α : Type} {m : M α} {s t : State} {a : α} (h : m s = .ok a t) : attempt m s = .ok (some a) t := by
  unfold attempt; rw [h]

theorem attempt_of_error {α : Type} {m : M α} {s t : State} {x : Exc} (h : m s = .error x t) :
    attempt m s = .ok none t := by
  unfold attempt; rw [h]

section Visible

variable {sel : Word16} {s : State}

theorem visible_of_null (hn : isNull sel = true) : visible sel s = .ok none s := by
  rw [visible, if_pos hn]; rfl

section NotNull

variable (hn : isNull sel = false)
include hn

theorem visible_of_not_null : visible sel s =
    (do let d ← attempt (readDesc sel .gp)
        pure (d.filter fun d => d.isConforming || weaker s.level (rpl sel) ≤ d.dpl) : M (Option Desc)) s := by
  rw [visible, if_neg (by simp [hn])]; rfl

theorem visible_of_desc {d : Desc} {t : State} (hd : readDesc sel .gp s = .ok d t) :
    visible sel s = .ok (if d.isConforming = true ∨ weaker s.level (rpl sel) ≤ d.dpl then some d else none) t := by
  rw [visible_of_not_null hn, bind_of_ok (attempt_of_ok hd)]
  simp [Option.filter, pure, EStateM.pure]

theorem visible_of_unreadable {x : Exc} {t : State} (hd : readDesc sel .gp s = .error x t) :
    visible sel s = .ok none t := by
  rw [visible_of_not_null hn, bind_of_ok (attempt_of_error hd)]; rfl

end NotNull

/-- Looking at a selector is an access to memory and nothing else. -/
theorem visible_accessed {d : Option Desc} {t : State} (h : visible sel s = .ok d t) : Accessed s t := by
  cases hn : isNull sel with
  | true => rw [visible_of_null hn] at h; cases h; exact accessRel_accessed.refl s
  | false =>
    rw [visible_of_not_null hn] at h
    obtain ⟨_, _, hread, ⟨⟩⟩ := bind_eq_ok.1 h
    have hs := accessRel_accessed.toSteps
    have hdesc : Within Accessed (readDesc sel .gp) := within_bind hs (within_get hs) fun _ => by
      split
      · exact within_raise hs _
      · exact within_bind hs (within_sysRead accessRel_accessed _ _) fun _ => within_pure hs _
    exact (within_attempt hdesc).of_ok hread

/-- The descriptor of a selector lies outside its table. -/
theorem State.not_tableHolds_iff : ¬ s.tableHolds sel ↔
    if sel.getLsbD 2 then s.ldtr.valid = false ∨ s.ldtr.limit.toNat < descOffset sel + 7
      else s.gdtr.limit.toNat < descOffset sel + 7 := by
  unfold State.tableHolds
  split
  · rw [Decidable.not_and_iff_not_or_not, Bool.not_eq_true, Nat.not_le]
  · rw [Nat.not_le]

theorem visible_of_outside (h : ¬ s.tableHolds sel) : visible sel s = .ok none s := by
  cases hn : isNull sel with
  | true => exact visible_of_null hn
  | false => exact visible_of_unreadable hn (readDesc_of_not_holds h .gp)

end Visible

/-! ### The instructions -/

section Validate

variable {e : Rm Reg} {g : Reg} {s s1 s2 : State} {sel : Word16} (hp : s.protected = true)
  (hsel : readRm 16 e s = .ok sel s1)
include hp hsel

theorem adjustRpl_of_le (h : rpl (s1.regN 16 g) ≤ rpl sel) :
    adjustRpl e g s = .ok () (s1.withFlags { s1.flags with zf := false }) := by
  rw [adjustRpl, bind_of_ok (protectedOnly_of_protected hp), bind_of_ok hsel, bind_of_ok (get_apply s1), ite_apply,
    if_neg (BitVec.not_lt.2 h)]
  rfl

theorem adjustRpl_of_lt (h : rpl sel < rpl (s1.regN 16 g)) {p : Place Reg} (hopen : openRm 16 e s1 = .ok p s2) :
    adjustRpl e g s = .ok ()
      ((p.put (selectorCode sel ||| (rpl (s1.regN 16 g)).setWidth 16) s2).withFlags
        { (p.put (selectorCode sel ||| (rpl (s1.regN 16 g)).setWidth 16) s2).flags with zf := true }) := by
  rw [adjustRpl, bind_of_ok (protectedOnly_of_protected hp), bind_of_ok hsel, bind_of_ok (get_apply s1), ite_apply,
    if_pos h, bind_of_ok (writeRm_of_open _ hopen)]
  rfl

variable {d : Option Desc} (hv : visible sel s1 = .ok d s2)
include hv

theorem verify_of_visible (ok : Desc → Bool) :
    verify e ok s = .ok () (s2.withFlags { s2.flags with zf := d.any ok }) := by
  rw [verify, bind_of_ok (protectedOnly_of_protected hp), bind_of_ok hsel, bind_of_ok hv]
  cases d <;> rfl

variable {types : List Nat} {value : Desc → Bool → M Word32}

/-- Nothing visible of an accepted type: ZF is cleared. -/
theorem loadFromDesc_of_none (h : ∀ x, d = some x → x.isSegment = false ∧ x.type ∉ types) :
    loadFromDesc g e types value s = .ok () (s2.withFlags { s2.flags with zf := false }) := by
  have hfilter : (d.filter fun x => x.isSegment || types.contains x.type) = none := by
    simpa [Option.filter_eq_none_iff] using h
  rw [loadFromDesc, bind_of_ok (protectedOnly_of_protected hp), bind_of_ok hsel, bind_of_ok hv, hfilter]
  rfl

theorem loadFromDesc_of_some {x : Desc} (hx : d = some x) (htype : x.isSegment = true ∨ x.type ∈ types) {v : Word32} {u : State}
    (hvalue : value x s.os32 s2 = .ok v u) :
    loadFromDesc g e types value s = .ok () ((u.setRegN g (v.setWidth u.osBits)).withFlags
      { (u.setRegN g (v.setWidth u.osBits)).flags with zf := true }) := by
  have hos : s2.os32 = s.os32 := (visible_accessed hv).os32.trans (readRm_accessed hsel).os32
  have hfilter : (d.filter fun x => x.isSegment || types.contains x.type) = some x := by
    rw [hx, Option.filter_some, if_pos (by simpa using htype)]
  rw [← hos] at hvalue
  rw [loadFromDesc, bind_of_ok (protectedOnly_of_protected hp), bind_of_ok hsel, bind_of_ok hv, hfilter]
  exact (bind_of_ok (get_apply s2)).trans ((bind_of_ok hvalue).trans (bind_of_ok (bySize_apply _ u)))

end Validate

/-! What LAR loads. -/

section Rights

variable {d : Desc} {s : State}

theorem Desc.rights_16 : d.rights false s = .ok (d.extractLsb' 32 32 &&& 0xFF00) s := rfl

theorem Desc.rights_gate (hseg : d.isSegment = false) (htype : d.type ∈ [4, 5, 0xC]) :
    d.rights true s = .ok (d.extractLsb' 32 32 &&& 0x00F0FF00) s := by
  have hgate : d.isGate = true := by
    simp only [List.mem_cons, List.not_mem_nil, or_false] at htype
    rcases htype with h | h | h <;> rw [Desc.isGate, hseg, h] <;> rfl
  rw [Desc.rights, if_neg (by decide), if_pos hgate]; rfl

/-- Byte 6 bit 5 of a descriptor that is no gate is a free value. -/
theorem Desc.rights_other (h : d.isSegment = true ∨ d.type ∈ [1, 2, 3, 9, 0xB]) :
    d.rights true s = .ok ((d.extractLsb' 32 32 &&& 0x00D0FF00) ||| (s.fresh &&& 0x00200000)) s.drawn := by
  have hgate : ¬ d.isGate = true := by
    rcases h with h | h
    · rw [Desc.isGate, h]; simp
    · simp only [List.mem_cons, List.not_mem_nil, or_false] at h
      rcases h with h | h | h | h | h <;> rw [Desc.isGate, h] <;> simp
  rw [Desc.rights, if_neg (by decide), if_neg hgate]; rfl

end Rights

/-- Settles O46: by what is visible of the selector, and by the type of the descriptor. -/
theorem pointerValidationComplete : Obligations.PointerValidationComplete := by
  refine ⟨?_, ?_, ?_⟩
  · intro e g s s1 v hp hv
    exact ⟨fun h => runInstr_of_ok (adjustRpl_of_le hp hv h),
      fun h p s2 hopen => runInstr_of_ok (adjustRpl_of_lt hp hv h hopen)⟩
  · intro e g s s1 s2 sel d hp hsel hv zf got
    have hverify := verify_of_visible hp hsel hv
    refine ⟨?_, ?_⟩
    · rintro rfl
      exact ⟨runInstr_of_ok (hverify _), runInstr_of_ok (hverify _),
        runInstr_of_ok (loadFromDesc_of_none hp hsel hv nofun), runInstr_of_ok (loadFromDesc_of_none hp hsel hv nofun)⟩
    · rintro x rfl
      have hrights {t : Nat} (h : t ∈ [4, 5, 0xC] ∨ t ∈ [1, 2, 3, 9, 0xB]) : t ∈ [1, 2, 3, 4, 5, 9, 0xB, 0xC] := by
        simp only [List.mem_cons, List.not_mem_nil, or_false] at h ⊢; omega
      refine ⟨runInstr_of_ok (hverify _), runInstr_of_ok (hverify _),
        fun h => runInstr_of_ok (loadFromDesc_of_some hp hsel hv rfl h rfl), ?_,
        fun hseg htype => runInstr_of_ok (loadFromDesc_of_none hp hsel hv fun _ hx => by cases hx; exact ⟨hseg, htype⟩),
        fun hseg htype => runInstr_of_ok (loadFromDesc_of_none hp hsel hv fun _ hx => by cases hx; exact ⟨hseg, htype⟩)⟩
      intro upper gate other
      have hother (h : other) := h.imp_right fun ht => hrights (.inr ht)
      refine ⟨fun hos h => ?_, fun hos h => ?_, fun hos h => ?_⟩
      · exact runInstr_of_ok (loadFromDesc_of_some hp hsel hv rfl
          (h.elim (fun h => .inr (hrights (.inl h.2))) hother) (by rw [hos]; exact Desc.rights_16))
      · exact runInstr_of_ok (loadFromDesc_of_some hp hsel hv rfl (.inr (hrights (.inl h.2)))
          (by rw [hos]; exact Desc.rights_gate h.1 h.2))
      · exact runInstr_of_ok (loadFromDesc_of_some hp hsel hv rfl (hother h) (by rw [hos]; exact Desc.rights_other h))
  · intro sel s last outside
    have houtside : outside ↔ ¬ s.tableHolds sel := State.not_tableHolds_iff.symm
    have hnull : isNull sel = true ↔ sel.extractLsb' 2 14 = 0#14 := beq_iff_eq
    refine ⟨?_, fun hn _ => ?_⟩
    · rintro (hn | hout)
      · exact visible_of_null (hnull.2 hn)
      · exact visible_of_outside (houtside.1 hout)
    · have hn : isNull sel = false := Bool.eq_false_iff.2 fun h => hn (hnull.1 h)
      refine ⟨fun d t hd => ⟨fun h => ?_, fun hconf h => ?_⟩, fun x t hd => visible_of_unreadable hn hd⟩
      · rw [visible_of_desc hn hd, if_pos h]
      · rw [visible_of_desc hn hd, if_neg (by simp [hconf, h])]

end Sys2Proof.Machine

/-! The delivery of events (60_exceptions.md R612 to R672): what is undone first, real mode, and a second event. -/

namespace Sys2Proof.Machine

/-- Settles O32, by the reasoning rule of the delivery in real mode. -/
theorem realModeDelivery : Obligations.RealModeDelivery :=
  fun _ _ _ _ _ _ _ hpe hinside hpush hoff hsel => deliver_of_real hpe hinside hpush hoff hsel

/-! ### What an event undoes -/

/-- A page walk sets again only bits that it may set. -/
theorem get_replayWalk_settled {w : List Host.Cell} (hw : ∀ c ∈ w, c.2 &&& settled = 0) {m : Memory}
    (h : Memory.wf m = true) (a : Nat) : Memory.get (replayWalk w m) a &&& settled = Memory.get m a &&& settled := by
  induction w with
  | nil => rfl
  | cons c w ih =>
    have ih := ih fun c' hc' => hw c' (List.mem_cons_of_mem c hc')
    rw [replayWalk]
    by_cases ha : a = c.1
    · rw [ha, Memory.get_set_same (wf_replayWalk w h), BitVec.and_comm, BitVec.and_or_distrib_left, BitVec.and_comm, ← ha, ih,
        BitVec.and_comm settled, hw c List.mem_cons_self]
      exact BitVec.or_zero
    · rw [Memory.get_set_other _ _ ha, ih]

section Unwind

variable {s s1 : State}

theorem unwind_of_not_committed (h : s1.cur.committed = false) :
    unwind s s1 = { s with mem := replayWalk s1.cur.walk s.mem, tlb := s1.tlb, draws := s1.draws, cur := Latch.idle } := by
  rw [unwind, if_neg (by simp [h])]

/-- Outside a task switch past its phase A nothing is noted of an event. -/
theorem State.noteRestart_of_not_committed (s : State) (h : s1.cur.committed = false) (x : Exc) :
    s.noteRestart s1 x = s := by
  cases x with
  | pageFault lin code => rw [State.noteRestart, h, Bool.or_false]
  | vector v err => rfl
  | shutdown => rfl
  | stop f => rfl
  | refuse r => rfl

theorem takeExc_of_not_committed (h : s1.cur.committed = false) (x : Exc) :
    takeExc s s1 x = (unwind s s1).onExc deliverException x := by
  rw [takeExc, State.noteRestart_of_not_committed _ h]

end Unwind

/-- Settles O35: what an event undoes, and the three kinds of events. -/
theorem faultsRestoreTheState : Obligations.FaultsRestoreTheState := by
  refine ⟨?_, ?_⟩
  · intro s s1 hc hwf hw
    have hu := unwind_of_not_committed (s := s) hc
    refine ⟨hu.trans (by rw [hu]), fun a => ?_, fun hwalk => ?_⟩
    · rw [hu]; exact get_replayWalk_settled hw hwf a
    · rw [hu, hwalk]; rfl
  · intro s s1 v err lin code hc event
    have hpc : (unwind s s1).pc = s.pc := by rw [unwind_of_not_committed hc]
    have hdeliver (u : State) (hu : u.pc = s.pc) (v : Byte) (err : Option Word16) :
        deliverException u v err = deliverEvent u (event v err) := by rw [deliverException, hu]
    exact ⟨(takeExc_of_not_committed hc _).trans (hdeliver _ hpc v err),
      (takeExc_of_not_committed hc _).trans (hdeliver { unwind s s1 with cr2 := lin } hpc 14 (some code)),
      takeExc_of_not_committed hc _⟩

/-! ### Unassigned encodings -/

/-- Every unassigned encoding only raises vector 6. -/
theorem exec_of_unassigned : ∀ i ∈ unassigned, ∀ s, exec i s = runInstr (raise .ud) s := by
  rw [unassigned, List.forall_mem_append]
  constructor
  all_goals
    repeat refine List.forall_mem_cons.2 ⟨fun _ => rfl, ?_⟩
    exact fun i hi => absurd hi List.not_mem_nil

theorem deliverFrom_of_ok {fuel : Nat} {s t : State} {e : Event} (h : deliver e s = .ok () t) :
    deliverFrom (fuel + 1) s e = .next t.settle := by
  rw [deliverFrom, h]

theorem deliverException_of_real {s s1 s2 s3 : State} {v : Byte} {err : Option Word16} {off sel : Nat} (hpe : s.cr0.pe = false)
    (hinside : 4 * v.toNat + 3 ≤ s.idtr.limit.toNat)
    (hpush : pushAll 2 [(s.flags.image 0).toNat, s.segs.cs.sel.toNat, s.pc.toNat] s = .ok () s1)
    (hoff : sysRead (s.idtr.base + BitVec.ofNat 32 (4 * v.toNat)) 2 s1 = .ok off s2)
    (hsel : sysRead (s.idtr.base + BitVec.ofNat 32 (4 * v.toNat + 2)) 2 s2 = .ok sel s3) :
    deliverException s v err = .next (s3.inHandler (BitVec.ofNat 16 sel) (BitVec.ofNat 32 off)).settle :=
  deliverFrom_of_ok (deliver_of_real (e := { vec := v, kind := .exception, err := err, ret := s.pc, rf := some true })
    hpe hinside hpush hoff hsel)

/-- Settles O34: the state in which vector 6 is delivered has the registers that the delivery saves. -/
theorem undefinedOpcodesEnterVectorSix : Obligations.UndefinedOpcodesEnterVectorSix := by
  intro i s hi
  have hexec : exec i s = takeExc s s (.vector 6 none) :=
    (exec_of_unassigned i hi s).trans (runInstr_of_error rfl)
  refine ⟨hexec, fun s1 s2 s3 off sel hpe hidt hpush hoff hsel => hexec.trans ?_⟩
  obtain ⟨hflags, hsegs, hpc, hidtr, hcr0⟩ : (unwind s s).flags = s.flags ∧ (unwind s s).segs = s.segs
      ∧ (unwind s s).pc = s.pc ∧ (unwind s s).idtr = s.idtr ∧ (unwind s s).cr0 = s.cr0 := by
    unfold unwind; split <;> exact ⟨rfl, rfl, rfl, rfl, rfl⟩
  rw [← hflags, ← hsegs, ← hpc] at hpush
  rw [← hidtr] at hoff hsel hidt
  rw [← hcr0] at hpe
  exact deliverException_of_real hpe hidt hpush hoff hsel

/-! ### A second event -/

theorem isContributory_iff (v : Byte) : isContributory v = true ↔ v ∈ [(0 : Byte), 10, 11, 12, 13] := by
  simp only [isContributory, Bool.or_eq_true, beq_iff_eq, List.mem_cons, List.not_mem_nil, or_false, or_assoc]

theorem Event.isDouble_iff (e : Event) : e.isDouble = true ↔ e.kind = .exception ∧ e.vec = 8 := by
  rw [Event.isDouble, Bool.and_eq_true, beq_iff_eq, beq_iff_eq]

theorem deliverFrom_of_vector {fuel : Nat} {s s1 : State} {e : Event} {v : Byte} {err : Option Word16}
    (h : deliver e s = .error (.vector v err) s1) :
    deliverFrom (fuel + 1) s e
      = if e.isDouble then .next (unwind s s1).shutDown
        else deliverFrom fuel (unwind s s1) (nextEvent e v (withExt e.kind err) (unwind s s1).pc) := by
  rw [deliverFrom, h]; rfl

/-- Settles O37, by the first event and by whether both take part in a double fault. -/
theorem doubleFaults : Obligations.DoubleFaults := by
  intro fuel s s1 e v err h u
  rw [deliverFrom_of_vector h]
  refine ⟨fun hkind hvec => if_pos (e.isDouble_iff.2 ⟨hkind, hvec⟩), fun hkind hfirst hsecond => ?_,
    fun hdouble hboth => ?_⟩
  · have hnot : ¬ e.isDouble = true := fun hd => by
      rw [((e.isDouble_iff).1 hd).2] at hfirst
      exact absurd hfirst (by decide)
    rw [if_neg hnot, nextEvent, if_pos ⟨hkind, (isContributory_iff _).2 hfirst, (isContributory_iff _).2 hsecond⟩]
  · rw [if_neg fun hd => hdouble (e.isDouble_iff.1 hd), nextEvent, if_neg fun ⟨hkind, hfirst, hsecond⟩ =>
      hboth ⟨hkind, (isContributory_iff _).1 hfirst, (isContributory_iff _).1 hsecond⟩]
    rfl

end Sys2Proof.Machine

/-! Delivery through the gates of the IDT, and the inner stacks of the TSS (60_exceptions.md R645 to R647, R694). -/

namespace Sys2Proof.Machine

/-! ### The items that are pushed -/

/-- The image of EFLAGS that a delivery from `s` on pushes (60_exceptions.md R662). -/
def Event.imageIn (e : Event) (s : State) : Word32 :=
  ({ s.flags with rf := match e.rf with | some b => b | none => bitAt s.fresh 0 } : Flags).image (s.fresh.extractLsb' 18 14)

theorem eventImage_apply (e : Event) (s : State) : eventImage e s = .ok (e.imageIn s) s.drawn := rfl

theorem errorItems_none (n : Nat) (s : State) : errorItems n none s = .ok [] s := rfl

theorem errorItems_some_16 (c : Word16) (s : State) : errorItems 2 (some c) s = .ok [c.toNat] s := rfl

theorem errorItems_some_32 (c : Word16) (s : State) :
    errorItems 4 (some c) s = .ok [(insertLow s.fresh c).toNat] s.drawn := rfl

theorem accessed_drawn (s : State) : Accessed s s.drawn := rfl

theorem errorItems_accessed {n : Nat} {err : Option Word16} {errs : List Nat} {s t : State}
    (h : errorItems n err s = .ok errs t) : Accessed s t := by
  cases err with
  | none => cases h; exact accessRel_accessed.refl s
  | some c =>
    rw [errorItems] at h
    split at h
    · cases h; exact accessed_drawn s
    · cases h; exact accessRel_accessed.refl s

/-! ### A gate of the IDT that the event may use -/

section Gate

/-- Whether an interrupt or trap gate is one of the 80386. -/
def Desc.gate386 (g : Desc) : Bool := decide (g.type ∈ [0xE, 0xF])

/-- The size of the items that a delivery through a gate pushes. -/
def Desc.itemSize (g : Desc) : Nat := if g.gate386 then 4 else 2

theorem Desc.gate386_eq (g : Desc) : (g.type == 0xE || g.type == 0xF) = g.gate386 := by
  simp only [Desc.gate386, List.mem_cons, List.not_mem_nil, or_false, Bool.decide_or]; rfl

/-- The event `e` in `s` finds in the IDT an interrupt or trap gate `g` that it may use, and behind it the code segment `d`;
the state after the reads is `s2` (60_exceptions.md R646, R647). -/
structure FindsGate (e : Event) (g d : Desc) (s s1 s2 : State) : Prop where
  pe : s.cr0.pe = true
  inside : 8 * e.vec.toNat + 7 ≤ s.idtr.limit.toNat
  read : ∃ v, sysRead (s.idtr.base + 8 * e.vec.setWidth 32) 8 s = .ok v s1 ∧ g = BitVec.ofNat 64 v
  seg : g.isSegment = false
  type : g.type ∈ [6, 7, 0xE, 0xF]
  level : e.kind = .software → s.level ≤ g.dpl
  gatePresent : g.present = true
  codeSel : isNull g.gateSelector = false
  code : readDesc g.gateSelector .gp s1 = .ok d s2
  isCode : d.isCode = true
  codeLevel : d.dpl ≤ s.level
  present : d.present = true

variable {e : Event} {g d : Desc} {s s1 s2 s3 : State} {errs : List Nat} (h : FindsGate e g d s s1 s2)
include h

theorem FindsGate.accessed : Accessed s s2 := by
  obtain ⟨v, hread, -⟩ := h.read
  exact accessRel_accessed.trans ((within_sysRead accessRel_accessed _ _).of_ok hread) (readDesc_accessed h.code)

theorem FindsGate.isSystem :
    (g.isSystem 5 || g.isSystem 6 || g.isSystem 7 || g.isSystem 0xE || g.isSystem 0xF) = true := by
  have htype := h.type
  simp only [List.mem_cons, List.not_mem_nil, or_false] at htype
  rcases htype with ht | ht | ht | ht <;> simp only [Desc.isSystem, h.seg, ht] <;> rfl

theorem FindsGate.imageIn_eq : (e.imageIn s2).toNat
    = (({ s.flags with rf := match e.rf with | some b => b | none => bitAt s2.fresh 0 } : Flags).image
        (s2.fresh.extractLsb' 18 14)).toNat := by
  rw [Event.imageIn, h.accessed.sameMode.flags]

variable (herrs : errorItems g.itemSize e.err s2.drawn = .ok errs s3)
include herrs

theorem FindsGate.accessed_items : Accessed s s3 :=
  accessRel_accessed.trans h.accessed (accessRel_accessed.trans (accessed_drawn s2) (errorItems_accessed herrs))

/-- Past the tests of the gate and its code segment the handler is entered at the level of the program or at an inner one. -/
theorem deliver_of_findsGate : deliver e s =
    ((if !d.isConforming && d.dpl < s.level
      then deliverInner e g.itemSize g.gateSelector d (g.gateOffset g.gate386) (e.imageIn s2) errs
      else deliverSame e g.itemSize g.gateSelector d (g.gateOffset g.gate386) (e.imageIn s2) errs)
      >>= fun _ => enterHandler g) s3 := by
  obtain ⟨v, hread, hg⟩ := h.read
  have hlevel : s2.level = s.level := h.accessed.level
  have hinside : decide (s.idtr.limit.toNat < 8 * e.vec.toNat + 7) = false := decide_eq_false (Nat.not_lt.2 h.inside)
  have hdpl : (e.kind == .software && decide (g.dpl < s.level)) = false := by
    rw [Bool.and_eq_false_imp]
    exact fun hk => decide_eq_false (BitVec.not_lt.2 (h.level (eq_of_beq hk)))
  have hcode : (!(d.isCode && decide (d.dpl ≤ s2.level))) = false := by
    rw [h.isCode, hlevel, decide_eq_true h.codeLevel]; rfl
  have htask : ¬ g.type = 5 := fun ht => by
    have htype := h.type
    rw [ht] at htype
    exact absurd htype (by decide)
  rw [deliver, bind_of_ok (get_apply s), ite_apply, if_pos h.pe, deliverProtected, bind_of_ok (get_apply s),
    raiseIf_bind_of_false hinside, bind_of_ok hread, ← hg, raiseIf_bind_of_false (by rw [h.isSystem]; rfl),
    raiseIf_bind_of_false hdpl, raiseIf_bind_of_false (by rw [h.gatePresent]; rfl), ite_apply, if_neg htask, deliverGate,
    raiseIf_bind_of_false h.codeSel, bind_of_ok h.code, bind_of_ok (get_apply s2), raiseIf_bind_of_false hcode,
    raiseIf_bind_of_false (by rw [h.present]; rfl), bind_of_ok (eventImage_apply e s2), Desc.gate386_eq,
    bind_of_ok (show errorItems (if g.gate386 then 4 else 2) e.err s2.drawn = .ok errs s3 from herrs), hlevel]
  split <;> rfl

/-! ### The handler -/

/-- The state in the handler that a gate `g` enters at a level, from `t` on (60_exceptions.md R647). -/
def State.inGateHandler (t : State) (g d : Desc) (level : BitVec 2) : State :=
  let u := t.inCode g.gateSelector d level (g.gateOffset g.gate386)
  { u with flags := { u.flags with tf := false, nt := false, vm := false, rf := false,
                                   ie := u.flags.ie && decide (g.type ∈ [7, 0xF]) }
           cur := { u.cur with noTrap := true } }

omit herrs in
/-- An interrupt gate clears IF, and a trap gate keeps it. -/
theorem FindsGate.enterHandler_inCode (t : State) (level : BitVec 2) :
    enterHandler g (t.inCode g.gateSelector d level (g.gateOffset g.gate386)) = .ok () (t.inGateHandler g d level) := by
  have hif : (!(g.type == 6 || g.type == 0xE)) = decide (g.type ∈ [7, 0xF]) := by
    have htype := h.type
    simp only [List.mem_cons, List.not_mem_nil, or_false] at htype
    rcases htype with ht | ht | ht | ht <;> rw [ht] <;> rfl
  rw [enterHandler, hif]; rfl

/-- A V86 program enters only a handler at level 0. -/
theorem deliver_of_v86 (hvm : s.flags.vm = true) (hd : d.isConforming = true ∨ d.dpl ≠ 0) :
    deliver e s = .error (.gp (selectorCode g.gateSelector)) s3 := by
  have hvm3 : s3.flags.vm = true := (congrArg Flags.vm (h.accessed_items herrs).sameMode.flags).trans hvm
  rw [deliver_of_findsGate h herrs]
  refine bind_of_error ?_
  split
  · next hinner =>
    have hconf : ¬ d.isConforming = true := fun hc => by simp [hc] at hinner
    have htest : (s3.flags.vm && d.dpl != 0) = true := by simpa [hvm3] using hd.resolve_left hconf
    rw [deliverInner, bind_of_ok (get_apply s3), raiseIf_bind_of_true htest]
  · rw [deliverSame, bind_of_ok (get_apply s3), raiseIf_bind_of_true hvm3]

/-- The handler at the level of the program, on its stack. -/
theorem deliver_of_same (hvm : s.flags.vm = false) (hsame : d.isConforming = true ∨ d.dpl = s.level)
    (hroom : s.segs.ss.hasRoom s.stack32 s.sp (3 + errs.length) g.itemSize = true)
    (hin : (g.gateOffset g.gate386).toNat ≤ d.limit.toNat) {s4 s5 : State}
    (hpush : pushAll g.itemSize ([(e.imageIn s2).toNat, s.segs.cs.sel.toNat, e.ret.toNat] ++ errs) s3 = .ok () s4)
    (hmark : markAccessed g.gateSelector d s4 = .ok () s5) :
    deliver e s = .ok () (s5.inGateHandler g d s.level) := by
  have hacc := h.accessed_items herrs
  have hvm3 : s3.flags.vm = false := (congrArg Flags.vm hacc.sameMode.flags).trans hvm
  have hnot : ¬ (!d.isConforming && decide (d.dpl < s.level)) = true := by
    rcases hsame with hc | hl
    · rw [hc]; exact nofun
    · rw [hl]; simp
  have hroom3 : (!s3.segs.ss.hasRoom s3.stack32 s3.sp (3 + errs.length) g.itemSize) = false := by
    rw [hacc.segs, hacc.stack32, hacc.sp, hroom]; rfl
  have hin3 : decide (d.limit < g.gateOffset g.gate386) = false := decide_eq_false (Nat.not_lt.2 hin)
  rw [← hacc.segs] at hpush
  rw [deliver_of_findsGate h herrs, if_neg hnot]
  refine (bind_of_ok (a := ()) ?_).trans (h.enterHandler_inCode s5 s.level)
  rw [deliverSame, bind_of_ok (get_apply s3), raiseIf_bind_of_false hvm3, raiseIf_bind_of_false hroom3,
    raiseIf_bind_of_false hin3, bind_of_ok hpush, hacc.level, enterCode_of_markAccessed hmark]

/-- What a delivery out of V86 mode saves on the inner stack first leads from `u` to `t` (62_virtual_8086.md R713). -/
def LeavesV86 (n : Nat) (old : Segs) (u t : State) : Prop :=
  ∃ w : State, pushAll n [old.gs.sel.toNat, old.fs.sel.toNat, old.ds.sel.toNat, old.es.sel.toNat] u = .ok () w
    ∧ t = { w with segs := { w.segs with es := w.segs.es.null 0, ds := w.segs.ds.null 0
                                         fs := w.segs.fs.null 0, gs := w.segs.gs.null 0 } }

omit h herrs in
theorem leaveV86_of_leavesV86 {n : Nat} {old : Segs} {u t : State} (h : LeavesV86 n old u t) :
    leaveV86 n old u = .ok () t := by
  obtain ⟨w, hpush, rfl⟩ := h
  exact bind_of_ok hpush

/-- The state on the inner stack of a handler. -/
def State.onInnerStack (t : State) (nss : Word16) (sd : Desc) (nesp : Word32) (level : BitVec 2) : State :=
  ({ t.setSeg .ss (sd.cache nss) with cpl := level, flags := { t.flags with vm := false } } : State).withSp nesp

/-- The handler at an inner level, on the stack of that level from the TSS. -/
theorem deliver_of_inner (hvm : s.flags.vm = true → d.dpl = 0) (hconf : d.isConforming = false) (hinner : d.dpl < s.level)
    {nss : Word16} {nesp : Word32} {sd : Desc} {s4 s5 s6 s7 s8 s9 : State}
    (hstack : innerStack d.dpl s3 = .ok (nss, nesp) s4) (hsd : readDesc nss .gp s4 = .ok sd s5)
    (hfits : StackFits nss sd d.dpl)
    (hroom : (sd.cache nss).hasRoom (sd.cache nss).big nesp (5 + errs.length + (if s.flags.vm then 4 else 0)) g.itemSize = true)
    (hin : (g.gateOffset g.gate386).toNat ≤ d.limit.toNat) (hmark : markAccessed nss sd s5 = .ok () s6)
    (hold : (s.flags.vm = false → s7 = s6.onInnerStack nss sd nesp d.dpl)
      ∧ (s.flags.vm = true → LeavesV86 g.itemSize s.segs (s6.onInnerStack nss sd nesp d.dpl) s7))
    (hpush : pushAll g.itemSize ([s.segs.ss.sel.toNat, (s.reg .esp).toNat, (e.imageIn s2).toNat, s.segs.cs.sel.toNat,
      e.ret.toNat] ++ errs) s7 = .ok () s8)
    (hmark' : markAccessed g.gateSelector d s8 = .ok () s9) : deliver e s = .ok () (s9.inGateHandler g d d.dpl) := by
  have hacc := h.accessed_items herrs
  have hflags : s3.flags = s.flags := hacc.sameMode.flags
  have hvm3 : (s3.flags.vm && d.dpl != 0) = false := by
    rw [hflags, Bool.and_eq_false_imp]
    exact fun hv => by rw [hvm hv]; rfl
  have hsegment : innerStackSegment nss d.dpl s4 = .ok sd s5 := innerStackSegment_eq_ok.2 ⟨hsd, hfits⟩
  have hroom3 : (!(sd.cache nss).hasRoom (bitAt sd 54) nesp (5 + errs.length + (if s3.flags.vm then 4 else 0)) g.itemSize)
      = false := by
    rw [hflags, show bitAt sd 54 = (sd.cache nss).big from rfl, hroom]; rfl
  have hin3 : decide (d.limit < g.gateOffset g.gate386) = false := decide_eq_false (Nat.not_lt.2 hin)
  have hleave : whenever s3.flags.vm (leaveV86 g.itemSize s3.segs) (s6.onInnerStack nss sd nesp d.dpl) = .ok () s7 := by
    rw [hflags, hacc.segs]
    cases hv : s.flags.vm with
    | false => rw [hold.1 hv]; rfl
    | true => exact leaveV86_of_leavesV86 (hold.2 hv)
  rw [← hacc.segs, ← hacc.reg .esp] at hpush
  rw [deliver_of_findsGate h herrs, if_pos (by rw [hconf, decide_eq_true hinner]; rfl)]
  refine (bind_of_ok (a := ()) ?_).trans (h.enterHandler_inCode s9 d.dpl)
  rw [deliverInner, bind_of_ok (get_apply s3), raiseIf_bind_of_false hvm3, bind_of_ok hstack]
  refine (bind_of_ok hsegment).trans ?_
  rw [raiseIf_bind_of_false hroom3, raiseIf_bind_of_false hin3, bind_of_ok hmark]
  refine (bind_of_ok rfl).trans ((bind_of_ok rfl).trans ((bind_of_ok hleave).trans ((bind_of_ok hpush).trans ?_)))
  exact enterCode_of_markAccessed hmark' d.dpl _

end Gate

/-! ### The inner stacks of the TSS -/

section Stack

variable {level : BitVec 2} {s : State}

/-- Where the stack pointer of a level stands in the TSS (61_task_switching.md R681, R683). -/
def State.stackPlace (s : State) (level : BitVec 2) : Nat := if s.tr.is386 then 4 + 8 * level.toNat else 2 + 4 * level.toNat

/-- Where the stack segment's selector of a level stands in the TSS. -/
def State.stackSelPlace (s : State) (level : BitVec 2) : Nat :=
  if s.tr.is386 then 8 + 8 * level.toNat else 4 + 4 * level.toNat

theorem State.stackSelPlace_eq (s : State) (level : BitVec 2) :
    s.stackPlace level + (if s.tr.is386 then 4 else 2) = s.stackSelPlace level := by
  unfold State.stackPlace State.stackSelPlace
  split <;> omega

theorem innerStack_of_outside (h : s.tr.valid = false ∨ s.tr.limit.toNat < s.stackSelPlace level + 1) :
    innerStack level s = .error (.ts (selectorCode s.tr.sel)) s := by
  have htest : (!(s.tr.valid && decide (s.stackPlace level + (if s.tr.is386 then 4 else 2) + 1 ≤ s.tr.limit.toNat)))
      = true := by
    rw [State.stackSelPlace_eq]
    rcases h with h | h
    · rw [h]; rfl
    · rw [decide_eq_false (Nat.not_le.2 h), Bool.and_false]; rfl
  exact (bind_of_ok (get_apply s)).trans (raiseIf_bind_of_true htest)

theorem innerStack_of_inside (hvalid : s.tr.valid = true) (h : s.stackSelPlace level + 1 ≤ s.tr.limit.toNat) {sp ss : Nat}
    {s1 s2 : State}
    (hsp : sysRead (s.tr.base + BitVec.ofNat 32 (s.stackPlace level)) (if s.tr.is386 then 4 else 2) s = .ok sp s1)
    (hss : sysRead (s.tr.base + BitVec.ofNat 32 (s.stackSelPlace level)) 2 s1 = .ok ss s2) :
    innerStack level s = .ok (BitVec.ofNat 16 ss, BitVec.ofNat 32 sp) s2 := by
  rw [← State.stackSelPlace_eq] at h hss
  have htest : (!(s.tr.valid && decide (s.stackPlace level + (if s.tr.is386 then 4 else 2) + 1 ≤ s.tr.limit.toNat)))
      = false := by
    rw [hvalid, decide_eq_true h]; rfl
  exact (bind_of_ok (get_apply s)).trans
    ((raiseIf_bind_of_false htest).trans ((bind_of_ok hsp).trans (bind_of_ok hss)))

variable {nss : Word16}

theorem innerStackSegment_of_null (hn : isNull nss = true) : innerStackSegment nss level s = .error (.ts 0) s :=
  raiseIf_bind_of_true hn

variable (hn : isNull nss = false)
include hn

theorem innerStackSegment_of_unreadable {x : Exc} {s1 : State} (h : readDesc nss .gp s = .error x s1) :
    innerStackSegment nss level s = .error x s1 :=
  (raiseIf_bind_of_false hn).trans (bind_of_error h)

theorem innerStackSegment_of_desc {d : Desc} {s1 : State} (h : readDesc nss .gp s = .ok d s1) :
    innerStackSegment nss level s = checkStackDesc nss level .ts d s1 :=
  (raiseIf_bind_of_false hn).trans (bind_of_ok h)

end Stack

/-- Settles O36: the gate and its code segment are found, and the handler is entered at the level of the program or at an
inner one. -/
theorem gateDelivery : Obligations.GateDelivery := by
  refine ⟨?_, ?_, ?_, ?_⟩
  · intro e s s1 s2 s3 g d v errs hpe hinside hread hg hseg htype hlevel hgpresent csel hn hcode hisCode hdpl hpresent is386 isz
      off rf img herrs entered
    have h : FindsGate e g d s s1 s2 :=
      ⟨hpe, hinside, ⟨v, hread, hg⟩, hseg, htype, hlevel, hgpresent, hn, hcode, hisCode, hdpl, hpresent⟩
    have himg : img = (e.imageIn s2).toNat := h.imageIn_eq.symm
    refine ⟨fun hvm hd => deliver_of_v86 h herrs hvm hd, ?_, ?_⟩
    · intro hvm hsame hroom hin s4 s5 hpush hmark
      rw [himg] at hpush
      exact deliver_of_same h herrs hvm hsame hroom hin hpush hmark
    · intro hvm hconf hinner nss nesp sd s4 s5 s6 s7 s8 s9 hstack hsd hfits hroom hin hmark u hsame hv86 hpush hmark'
      rw [himg] at hpush
      exact deliver_of_inner h herrs hvm hconf hinner hstack hsd hfits hroom hin hmark ⟨hsame, hv86⟩ hpush hmark'
  · exact fun s c isz => ⟨errorItems_none isz s, errorItems_some_16 c s, errorItems_some_32 c s⟩
  · exact fun level s => ⟨innerStack_of_outside, fun hvalid h sp ss s1 s2 => innerStack_of_inside hvalid h⟩
  · intro nss level s wrong
    refine ⟨innerStackSegment_of_null, fun hn x s1 h => innerStackSegment_of_unreadable hn h, fun hn d s1 h => ?_⟩
    rw [innerStackSegment_of_desc hn h]
    exact ⟨fun hfits => checkStackDesc_of_unfit hfits .ts s1, fun hfits habsent => checkStackDesc_of_absent hfits habsent .ts s1⟩

end Sys2Proof.Machine

/-! Ordinary memory with paging off: the processor's own reads and writes of its tables, and numbers at addresses that do not
overlap. -/

namespace Sys2Proof.Machine

/-! ### The addresses of bytes -/

theorem mem_byteAddresses {lin : Word32} {n a : Nat} :
    a ∈ byteAddresses lin n ↔ ∃ k < n, a = (lin + BitVec.ofNat 32 k).toNat := by
  simp only [byteAddresses, List.mem_map, List.mem_range, eq_comm]

theorem length_byteAddresses (lin : Word32) (n : Nat) : (byteAddresses lin n).length = n := by
  rw [byteAddresses, List.length_map, List.length_range]

/-- Distances below the size of the address space give different addresses. -/
theorem offset_toNat_inj {base : Word32} {x y : Nat} (hx : x < 2 ^ 32) (hy : y < 2 ^ 32)
    (h : (base + BitVec.ofNat 32 x).toNat = (base + BitVec.ofNat 32 y).toNat) : x = y := by
  have hbase := base.isLt
  rw [BitVec.toNat_add, BitVec.toNat_add, BitVec.toNat_ofNat, BitVec.toNat_ofNat] at h
  omega

theorem nodup_byteAddresses (lin : Word32) {n : Nat} (h : n ≤ 2 ^ 32) : (byteAddresses lin n).Nodup := by
  refine List.pairwise_map.2 (List.Pairwise.imp_of_mem (fun {x y} hx hy hne hxy => hne ?_) List.nodup_range)
  have hx := List.mem_range.1 hx
  have hy := List.mem_range.1 hy
  exact offset_toNat_inj (by omega) (by omega) hxy

/-- A byte of an item does not belong to an item elsewhere in the same table. -/
theorem not_mem_byteAddresses_of_apart {base : Word32} {x n y m a : Nat} (ha : a ∈ byteAddresses (base + BitVec.ofNat 32 x) n)
    (hx : x + n ≤ 2 ^ 32) (hy : y + m ≤ 2 ^ 32) (hapart : x + n ≤ y ∨ y + m ≤ x) :
    a ∉ byteAddresses (base + BitVec.ofNat 32 y) m := by
  obtain ⟨i, hi, rfl⟩ := mem_byteAddresses.1 ha
  intro hb
  obtain ⟨j, hj, heq⟩ := mem_byteAddresses.1 hb
  rw [BitVec.add_assoc, BitVec.add_assoc, ← BitVec.ofNat_add, ← BitVec.ofNat_add] at heq
  have := offset_toNat_inj (by omega) (by omega) heq
  omega

/-! ### Numbers in memory -/

/-- A number is that of its bytes. -/
theorem State.numberAt_congr {s t : State} {a : Word32} {n : Nat}
    (h : ∀ x ∈ byteAddresses a n, Memory.get t.mem x = Memory.get s.mem x) : t.numberAt a n = s.numberAt a n :=
  congrArg ofBytes (List.map_congr_left h)

section SetAll

variable {lin : Word32} {n v : Nat} {s t : State}
  (h : t.mem = Memory.setAll s.mem (byteAddresses lin n) (toBytes n v))
include h

theorem State.get_of_setAll {a : Nat} (ha : a ∉ byteAddresses lin n) : Memory.get t.mem a = Memory.get s.mem a := by
  rw [h, Memory.get_setAll_other _ _ ha]

theorem State.numberAt_of_setAll (hwf : Memory.wf s.mem = true) (hn : n ≤ 2 ^ 32) : t.numberAt lin n = v % 256 ^ n := by
  have hlength : (byteAddresses lin n).length = (toBytes n v).length := by rw [length_byteAddresses, length_toBytes]
  rw [State.numberAt, h, Memory.map_get_setAll hwf (nodup_byteAddresses lin hn) hlength, ofBytes_toBytes]

theorem State.numberAt_of_setAll_apart {a : Word32} {m : Nat} (hapart : ∀ x ∈ byteAddresses a m, x ∉ byteAddresses lin n) :
    t.numberAt a m = s.numberAt a m :=
  State.numberAt_congr fun x hx => State.get_of_setAll h (hapart x hx)

end SetAll

/-- `t` is `s` with a number of `n` bytes stored at an address, in ordinary memory. -/
structure Stored (lin : Word32) (n v : Nat) (s t : State) : Prop where
  mem : t.mem = Memory.setAll s.mem (byteAddresses lin n) (toBytes n v)
  rest : t = { s with mem := t.mem, stale := t.stale }

section Stored

variable {lin : Word32} {n v : Nat} {s t : State} (h : Stored lin n v s t)
include h

theorem Stored.wf (hwf : Memory.wf s.mem = true) : Memory.wf t.mem = true := by rw [h.mem]; exact Memory.wf_setAll hwf _ _

theorem Stored.flat : t.flat = s.flat := by rw [h.rest]; rfl

end Stored

/-! ### Accesses -/

section Flat

variable {s t : State} (hs : s.flat = true) {lin : Word32} {n v : Nat} (hn : n ≤ 4096)
include hs hn

theorem sysRead_of_flat (lin : Word32) : sysRead lin n s = .ok (s.numberAt lin n) s := by
  rw [sysRead, linRead, bind_of_ok (physicalBytes_eq_byteAddresses (s.flat_iff.1 hs).1 hn lin _ _),
    bind_of_ok (readBytes_of_memory fun a _ => .inl (State.kindAt_of_flat hs a)), pure_apply]
  rfl

theorem stored_of_sysWrite (h : sysWrite lin n v s = .ok () t) : Stored lin n v s t := by
  rw [sysWrite, linWrite, bind_of_ok (physicalBytes_eq_byteAddresses (s.flat_iff.1 hs).1 hn lin _ _)] at h
  obtain ⟨q, hq⟩ := writeBytes_of_ram (fun a _ => State.kindAt_of_flat hs a) (as := byteAddresses lin n) (toBytes n v)
  rw [hq] at h
  cases h
  exact ⟨rfl, rfl⟩

end Flat

end Sys2Proof.Machine

/-! The return from a handler in real mode undoes its entry (60_exceptions.md R641, R670): the image of the flags, and a
real-mode stack in ordinary memory. -/

namespace Sys2Proof.Machine

/-! ### The image of the flags -/

theorem bitAt_append_high {n m : Nat} (a : BitVec n) (b : BitVec m) {i : Nat} (h : m ≤ i) :
    bitAt (a ++ b) i = bitAt a (i - m) := by
  rw [bitAt, BitVec.getLsbD_append, if_neg (Nat.not_lt.2 h)]; rfl

theorem bitAt_append_low {n m : Nat} (a : BitVec n) (b : BitVec m) {i : Nat} (h : i < m) :
    bitAt (a ++ b) i = bitAt b i := by
  rw [bitAt, BitVec.getLsbD_append, if_pos h]; rfl

theorem bitAt_ofBool (b : Bool) : bitAt (BitVec.ofBool b) 0 = b := by cases b <;> rfl

/-- The flags of an image are those it was made of, whatever its reserved bits are. -/
theorem Flags.ofImage_image (f : Flags) (reserved : BitVec 14) : Flags.ofImage (f.image reserved) = f := by
  have hiopl : (f.image reserved).extractLsb' 12 2 = f.iopl := by
    have hbit : bitAt (f.image reserved) 12 = bitAt f.iopl 0 ∧ bitAt (f.image reserved) 13 = bitAt f.iopl 1 := by
      simp (disch := decide) only [Flags.image, bitAt_append_high, bitAt_append_low, Nat.reduceSub, and_self]
    apply BitVec.eq_of_getLsbD_eq
    intro i hi
    rw [BitVec.getLsbD_extractLsb', decide_eq_true hi, Bool.true_and]
    obtain rfl | rfl : i = 0 ∨ i = 1 := by omega
    · exact hbit.1
    · exact hbit.2
  rw [Flags.ofImage, hiopl]
  simp (disch := decide) only [Flags.image, bitAt_append_high, bitAt_append_low, Nat.reduceSub, bitAt_ofBool]

theorem bitAt_low_word (v : Word32) {i : Nat} (h : i < 16) : bitAt (BitVec.ofNat 32 (v.toNat % 65536)) i = bitAt v i := by
  have hmod : v.toNat % 65536 = v.toNat % 2 ^ 16 := rfl
  rw [bitAt, bitAt, BitVec.getLsbD_ofNat, hmod, Nat.testBit_mod_two_pow, decide_eq_true h, decide_eq_true (by omega),
    Bool.true_and, Bool.true_and]
  rfl

/-- At level 0 a word of an image gives back all flags but RF and VM, which are kept. -/
theorem Flags.load_low_word (f g : Flags) (reserved : BitVec 14) :
    f.load 0 false (BitVec.ofNat 32 ((g.image reserved).toNat % 65536)) = { g with rf := f.rf, vm := f.vm } := by
  have hg := g.ofImage_image reserved
  generalize g.image reserved = v at hg ⊢
  have hiopl : (BitVec.ofNat 32 (v.toNat % 65536)).extractLsb' 12 2 = v.extractLsb' 12 2 := by
    apply BitVec.eq_of_getLsbD_eq
    intro i hi
    rw [BitVec.getLsbD_extractLsb', BitVec.getLsbD_extractLsb']
    exact congrArg _ (bitAt_low_word v (by omega))
  rw [← hg, Flags.load, Flags.loadCommon, if_pos (BitVec.le_def.2 (Nat.zero_le _)), if_pos rfl, hiopl, Flags.ofImage]
  simp (disch := decide) only [bitAt_low_word, Bool.false_eq_true, if_false]

/-! ### A real-mode stack in ordinary memory -/

/-- In real mode, with ordinary memory, SS was loaded in real mode and its segment lies below 1 Mbyte. -/
structure RealStack (s : State) : Prop where
  pe : s.cr0.pe = false
  flat : s.flat = true
  ss : ∃ sel, s.segs.ss = SegCache.real sel 0
  low : s.segs.ss.base.toNat + 0xFFFF < 0x100000

section RealStack

variable {s : State}

theorem RealStack.of_sameMode {t : State} (h : RealStack s) (hst : SameMode s t) : RealStack t := by
  obtain ⟨hpe, hflat, hss, hlow⟩ := h
  rw [hst]
  exact ⟨hpe, hflat, hss, hlow⟩

variable (h : RealStack s)
include h

theorem RealStack.protected : s.protected = false := by rw [State.protected, h.pe]; rfl

theorem RealStack.stackOffset_eq (v : Word32) : s.stackOffset v = v &&& 0xFFFF := by
  rw [State.stackOffset, State.stack32, h.protected]; rfl

theorem RealStack.sp_eq : s.sp = s.reg .esp &&& 0xFFFF := by
  rw [State.sp, State.stack32, h.protected]; rfl

/-- No word of the stack segment faults. -/
theorem RealStack.segFault {off : Word32} (hoff : off.toNat + 2 ≤ 0x10000) {k : Access} (hk : k ≠ .execute) :
    s.segFault .ss off 2 k = none := by
  obtain ⟨sel, hss⟩ := h.ss
  have hseg : s.seg .ss = SegCache.real sel 0 := hss
  have hallows : (s.seg .ss).allows k = true := by
    rw [hseg]
    cases k with
    | read => rfl
    | write => rfl
    | execute => exact absurd rfl hk
  have hlast : off.toNat + 2 - 1 ≤ 0xFFFF := by omega
  have hholds : (s.seg .ss).holds off 2 = true := by rw [hseg]; exact decide_eq_true hlast
  refine State.segFault_of_inside (by rw [hseg]; rfl) hallows ((State.inSegment_iff ..).2 ⟨hholds, .inr hoff⟩) ?_
  rintro ⟨hhigh, -⟩
  obtain ⟨-, hhigh, -⟩ := (State.aboveMegabyte_iff ..).1 hhigh
  have hlow : (s.seg .ss).base.toNat + 0xFFFF < 0x100000 := h.low
  omega

end RealStack

theorem and_low_word_of_le {v : Word32} (h : v.toNat ≤ 0xFFFF) : v &&& 0xFFFF = v := by
  apply BitVec.eq_of_toNat_eq
  have hmask : (0xFFFF : Word32).toNat = 2 ^ 16 - 1 := rfl
  rw [BitVec.toNat_and, hmask, Nat.and_two_pow_sub_one_eq_mod]
  omega

theorem Gprs.set_set (g : Gprs) (r : Reg) (a b : Word32) : (g.set r a).set r b = g.set r b := by cases r <;> rfl

theorem Gprs.set_get (g : Gprs) (r : Reg) : g.set r (g.get r) = g := by cases r <;> rfl

theorem insertLow_insertLow {n : Nat} (old : Word32) (a b : BitVec n) :
    insertLow (insertLow old a) b = insertLow old b := by
  ext i hi
  by_cases hlow : i < n
  · simp [insertLow, hlow]
  · have hindex : n + (i - n) = i := by omega
    simp [insertLow, hlow, hindex, hi, BitVec.getLsbD_of_ge a i (by omega)]

section Moved

variable {s : State} (h : RealStack s)
include h

theorem RealStack.withSp_eq (v : Word32) : s.withSp v = s.setRegN .esp (v.setWidth 16) := by
  rw [State.withSp, State.stack32, h.protected]; rfl

theorem RealStack.withSp_gpr (v : Word32) :
    (s.withSp v).gpr = s.gpr.set .esp (insertLow (s.reg .esp) (v.setWidth 16)) := by
  rw [h.withSp_eq]; rfl

theorem RealStack.withSp_gpr_congr {t : State} (hmode : SameMode s t) (ht : t.gpr = s.gpr) (v : Word32) :
    (t.withSp v).gpr = (s.withSp v).gpr := by
  rw [(h.of_sameMode hmode).withSp_gpr, h.withSp_gpr, State.reg, ht]; rfl

/-- The pointer that is there already. -/
theorem RealStack.withSp_sp : (s.withSp s.sp).gpr = s.gpr := by
  have hlow : (s.reg .esp &&& 0xFFFF).setWidth 16 = (s.reg .esp).setWidth 16 := by
    have hmask : (0xFFFF : Word32).setWidth 16 = BitVec.allOnes 16 := rfl
    rw [BitVec.setWidth_and, hmask, BitVec.and_allOnes]
  rw [h.withSp_gpr, h.sp_eq, hlow, insertLow_setWidth]
  exact Gprs.set_get s.gpr .esp

variable {t : State} {a : Word32} (hmode : SameMode s t) (ht : t.gpr = (s.withSp a).gpr)
include hmode ht

/-- A stack pointer that is moved twice is moved at once. -/
theorem RealStack.withSp_gpr_of_moved (b : Word32) : (t.withSp b).gpr = (s.withSp b).gpr := by
  have hesp : t.reg .esp = insertLow (s.reg .esp) (a.setWidth 16) := by
    rw [State.reg, ht, h.withSp_gpr]; exact Gprs.get_set_same ..
  rw [(h.of_sameMode hmode).withSp_gpr, hesp, ht, h.withSp_gpr, h.withSp_gpr, insertLow_insertLow, Gprs.set_set]

theorem RealStack.sp_of_moved : t.sp = a &&& 0xFFFF := by
  have hesp : t.reg .esp = insertLow (s.reg .esp) (a.setWidth 16) := by
    rw [State.reg, ht, h.withSp_gpr]; exact Gprs.get_set_same ..
  rw [(h.of_sameMode hmode).sp_eq, hesp, insertLow_and_low]

end Moved

/-! ### Words pushed and popped -/

/-- `t` is `s` after a word was pushed on a real-mode stack. -/
structure PushedWord (v : Nat) (s t : State) : Prop where
  mode : SameMode s t
  gpr : t.gpr = (s.withSp (s.sp - 2)).gpr
  mem : t.mem = Memory.setAll s.mem (byteAddresses (s.segs.ss.base + (s.sp - 2)) 2) (toBytes 2 v)

/-- `t` is `s` after a word was popped off a real-mode stack. -/
structure PoppedWord (s t : State) : Prop where
  mode : SameMode s t
  gpr : t.gpr = (s.withSp (s.sp + 2)).gpr
  mem : t.mem = s.mem

section Words

variable {s t : State} (h : RealStack s)
include h

theorem RealStack.sp_le : s.sp.toNat ≤ 0xFFFF := by
  rw [h.sp_eq, BitVec.toNat_and]
  exact Nat.and_le_right

theorem pushedWord_of_push {v : Nat} (hsp : 2 ≤ s.sp.toNat) (hpush : push 2 v s = .ok () t) : PushedWord v s t := by
  have hlt := h.sp_le
  have hoff : (s.sp - 2).toNat = s.sp.toNat - 2 := by bv_omega
  have hcut : s.stackOffset (s.sp - BitVec.ofNat 32 2) = s.sp - 2 := by
    rw [h.stackOffset_eq]; exact and_low_word_of_le (Nat.le_trans (Nat.le_of_eq hoff) (by omega))
  have hroom : s.pushShutsDown 2 = false := by
    rw [Bool.eq_false_iff]
    intro hdown
    obtain ⟨-, -, hless⟩ := (pushShutsDown_iff 2 s).1 hdown
    omega
  have haddr := dataAddresses_of_flat (w := true) (n := 2) (r := .ss) (off := s.sp - 2) (by decide) h.flat
    (h.segFault (by omega) nofun)
  have hmode : SameMode s t := (within_push stackRel_sameMode _ _).of_ok hpush
  rw [push_of_dataAddresses v hroom (by rw [hcut]; exact haddr), hcut] at hpush
  generalize hu : s.noteData ((s.seg .ss).base + (s.sp - 2)) 2 true = u at hpush
  generalize hps : byteAddresses ((s.seg .ss).base + (s.sp - 2)) 2 = ps at hpush
  have hrest := (u.afterWriting_wroteOnly ps (toBytes 2 v)).rest
  have hmem : (u.afterWriting ps (toBytes 2 v)).mem = Memory.setAll s.mem ps (toBytes 2 v) := by
    rw [State.mem_afterWriting_of_ram fun a _ => State.kindAt_of_flat (by rw [← hu]; exact h.flat) a, ← hu]; rfl
  have hgpr : (u.afterWriting ps (toBytes 2 v)).gpr = s.gpr := by rw [hrest, ← hu]; rfl
  have hsame : SameMode s (u.afterWriting ps (toBytes 2 v)) := by rw [hrest, ← hu]; rfl
  cases hpush
  refine ⟨hmode, h.withSp_gpr_congr hsame hgpr _, ?_⟩
  rw [State.withSp_mem, hmem, ← hps]; rfl

omit h in
theorem PushedWord.wf {v : Nat} (hpush : PushedWord v s t) (hwf : Memory.wf s.mem = true) : Memory.wf t.mem = true := by
  rw [hpush.mem]; exact Memory.wf_setAll hwf _ _

theorem PushedWord.sp {v : Nat} (hpush : PushedWord v s t) (hsp : 2 ≤ s.sp.toNat) : t.sp = s.sp - 2 := by
  have hlt := h.sp_le
  have hoff : (s.sp - 2).toNat = s.sp.toNat - 2 := by bv_omega
  rw [h.sp_of_moved hpush.mode hpush.gpr]
  exact and_low_word_of_le (Nat.le_trans (Nat.le_of_eq hoff) (by omega))

theorem PoppedWord.sp (hpop : PoppedWord s t) (hsp : s.sp.toNat + 2 ≤ 0xFFFF) : t.sp = s.sp + 2 := by
  rw [h.sp_of_moved hpop.mode hpop.gpr]
  exact and_low_word_of_le (by bv_omega)

theorem pop_of_realStack (hsp : s.sp.toNat + 2 ≤ 0xFFFF) :
    ∃ t, pop 2 s = .ok (s.numberAt (s.segs.ss.base + s.sp) 2) t ∧ PoppedWord s t := by
  have hcut : s.stackOffset (s.sp + BitVec.ofNat 32 2) = s.sp + 2 := by
    rw [h.stackOffset_eq]; exact and_low_word_of_le (by bv_omega)
  have hread := segRead_of_flat (n := 2) (by decide) h.flat (h.segFault (off := s.sp) (k := .read) (by omega) nofun)
  have hpop := pop_of_segRead hread
  refine ⟨_, hpop, pop_sameMode hpop, ?_, ?_⟩
  · rw [hcut]; exact h.withSp_gpr_congr (t := s.noteData ((s.seg .ss).base + s.sp) 2 false) rfl rfl _
  · rw [State.withSp_mem, State.noteData_mem]

end Words

/-! ### There and back -/

/-- What a delivery in real mode has pushed and read where it succeeded. -/
theorem pushed_of_deliver_real {e : Event} {s t : State} (hpe : s.cr0.pe = false)
    (hinside : 4 * e.vec.toNat + 3 ≤ s.idtr.limit.toNat) (h : deliver e s = .ok () t) :
    ∃ (s1 s2 s3 : State) (off sel : Nat),
      pushAll 2 [(s.flags.image 0).toNat, s.segs.cs.sel.toNat, e.ret.toNat] s = .ok () s1
        ∧ sysRead (s.idtr.base + 4 * e.vec.setWidth 32) 2 s1 = .ok off s2
        ∧ sysRead (s.idtr.base + 4 * e.vec.setWidth 32 + 2) 2 s2 = .ok sel s3
        ∧ t = s3.inHandler (BitVec.ofNat 16 sel) (BitVec.ofNat 32 off) := by
  have hin : decide (s.idtr.limit.toNat < 4 * e.vec.toNat + 3) = false := decide_eq_false (Nat.not_lt.2 hinside)
  rw [deliver, bind_of_ok (get_apply s), ite_apply, if_neg (by simp [hpe]), deliverReal, bind_of_ok (get_apply s)] at h
  simp only [hin, Bool.false_and, Bool.false_eq_true, if_false] at h
  rw [raiseIf_bind_of_false rfl] at h
  obtain ⟨_, s1, hpush, h⟩ := bind_eq_ok.1 h
  obtain ⟨off, s2, hoff, h⟩ := bind_eq_ok.1 h
  obtain ⟨sel, s3, hsel, ⟨⟩⟩ := bind_eq_ok.1 h
  exact ⟨s1, s2, s3, off, sel, hpush, hoff, hsel, rfl⟩

/-- The frame that a delivery in real mode leaves below the stack pointer of `s` (60_exceptions.md R641). -/
structure RealFrame (e : Event) (s t : State) : Prop where
  mode : SameMode s t
  gpr : t.gpr = (s.withSp (s.sp - 6)).gpr
  ret : t.numberAt (s.segs.ss.base + (s.sp - 6)) 2 = e.ret.toNat % 65536
  cs : t.numberAt (s.segs.ss.base + (s.sp - 4)) 2 = s.segs.cs.sel.toNat
  flags : t.numberAt (s.segs.ss.base + (s.sp - 2)) 2 = (s.flags.image 0).toNat % 65536

theorem realFrame_of_pushAll {e : Event} {s t : State} (h : RealStack s) (hwf : Memory.wf s.mem = true) (hsp : 6 ≤ s.sp.toNat)
    (hpush : pushAll 2 [(s.flags.image 0).toNat, s.segs.cs.sel.toNat, e.ret.toNat] s = .ok () t) : RealFrame e s t := by
  obtain ⟨_, s1, hpush1, hpush⟩ := bind_eq_ok.1 hpush
  obtain ⟨_, s2, hpush2, hpush⟩ := bind_eq_ok.1 hpush
  obtain ⟨_, s3, hpush3, ⟨⟩⟩ := bind_eq_ok.1 hpush
  have hsel := s.segs.cs.sel.isLt
  have p1 := pushedWord_of_push h (by omega) hpush1
  have h1 := h.of_sameMode p1.mode
  have hsp1 := p1.sp h (by omega)
  have p2 := pushedWord_of_push h1 (by rw [hsp1]; bv_omega) hpush2
  have h2 := h1.of_sameMode p2.mode
  have hsp2 : s2.sp = s.sp - 4 := (p2.sp h1 (by rw [hsp1]; bv_omega)).trans (by rw [hsp1]; bv_omega)
  have p3 := pushedWord_of_push h2 (by rw [hsp2]; bv_omega) hpush3
  have hmode2 := stackRel_sameMode.trans p1.mode p2.mode
  have hgpr2 : s2.gpr = (s.withSp (s1.sp - 2)).gpr := p2.gpr.trans (h.withSp_gpr_of_moved p1.mode p1.gpr _)
  have hgpr3 : t.gpr = (s.withSp (s2.sp - 2)).gpr := p3.gpr.trans (h.withSp_gpr_of_moved hmode2 hgpr2 _)
  have hss1 : s1.segs.ss = s.segs.ss := by rw [p1.mode]
  have hss2 : s2.segs.ss = s.segs.ss := by rw [hmode2]
  have hbase : ∃ a, s.segs.ss.base + (s.sp - 6) = a + BitVec.ofNat 32 0 ∧ s.segs.ss.base + (s.sp - 4) = a + BitVec.ofNat 32 2
      ∧ s.segs.ss.base + (s.sp - 2) = a + BitVec.ofNat 32 4 :=
    ⟨s.segs.ss.base + (s.sp - 6), by bv_omega, by bv_omega, by bv_omega⟩
  have hm1 := p1.mem
  have hm2 := p2.mem
  have hm3 := p3.mem
  rw [hss1, hsp1, show s.sp - 2 - 2 = s.sp - 4 by bv_omega] at hm2
  rw [hss2, hsp2, show s.sp - 4 - 2 = s.sp - 6 by bv_omega] at hm3
  obtain ⟨a, ha0, ha2, ha4⟩ := hbase
  have hret := State.numberAt_of_setAll hm3 (p2.wf (p1.wf hwf)) (by decide)
  have hcs := State.numberAt_of_setAll hm2 (p1.wf hwf) (by decide)
  have hflags := State.numberAt_of_setAll hm1 hwf (by decide)
  refine ⟨stackRel_sameMode.trans hmode2 p3.mode, by rw [hgpr3, hsp2, show s.sp - 4 - 2 = s.sp - 6 by bv_omega], hret, ?_, ?_⟩
  · rw [State.numberAt_of_setAll_apart hm3, hcs, Nat.mod_eq_of_lt (by omega)]
    rw [ha0, ha2]
    exact fun x hx => not_mem_byteAddresses_of_apart hx (by decide) (by decide) (.inr (by decide))
  · refine (State.numberAt_of_setAll_apart hm3 ?_).trans ((State.numberAt_of_setAll_apart hm2 ?_).trans hflags)
    · rw [ha0, ha4]
      exact fun x hx => not_mem_byteAddresses_of_apart hx (by decide) (by decide) (.inr (by decide))
    · rw [ha2, ha4]
      exact fun x hx => not_mem_byteAddresses_of_apart hx (by decide) (by decide) (.inr (by decide))

/-- IRET takes a frame of three words off a real-mode stack. -/
theorem exec_iret_of_realStack {r : State} {off sel img : Nat} (h : RealStack r) (hidle : r.cur = Latch.idle)
    (hsp : r.sp.toNat + 6 ≤ 0xFFFF) (hle : off ≤ 0xFFFF) (hoff : r.numberAt (r.segs.ss.base + r.sp) 2 = off)
    (hsel : r.numberAt (r.segs.ss.base + (r.sp + 2)) 2 = sel) (himg : r.numberAt (r.segs.ss.base + (r.sp + 4)) 2 = img) :
    ∃ u, exec .iret r = .next u ∧ u.pc = BitVec.ofNat 32 off
      ∧ u.segs = { r.segs with cs := SegCache.real (BitVec.ofNat 16 sel) 0 }
      ∧ u.flags = r.flags.load 0 false (BitVec.ofNat 32 img) ∧ u.gpr = (r.withSp (r.sp + 6)).gpr := by
  have hret : RealStack r.returning := ⟨h.pe, h.flat, h.ss, h.low⟩
  have hv86 : r.v86 = false := State.v86_of_not_pe h.pe
  have hos : r.os32 = false := by rw [State.os32, State.code32, h.protected, hidle]; rfl
  obtain ⟨q1, hpop1, p1⟩ := pop_of_realStack hret (by change r.sp.toNat + 2 ≤ _; omega)
  have hq1 := hret.of_sameMode p1.mode
  have hsp1 : q1.sp = r.sp + 2 := p1.sp (s := r.returning) hret (by change r.sp.toNat + 2 ≤ _; omega)
  obtain ⟨q2, hpop2, p2⟩ := pop_of_realStack hq1 (by rw [hsp1]; bv_omega)
  have hq2 := hq1.of_sameMode p2.mode
  have hsp2 : q2.sp = r.sp + 4 := (p2.sp hq1 (by rw [hsp1]; bv_omega)).trans (by rw [hsp1]; bv_omega)
  obtain ⟨q3, hpop3, p3⟩ := pop_of_realStack hq2 (by rw [hsp2]; bv_omega)
  have hmode2 := stackRel_sameMode.trans p1.mode p2.mode
  have hmode3 := stackRel_sameMode.trans hmode2 p3.mode
  have hss1 : q1.segs.ss = r.segs.ss := by rw [p1.mode]; rfl
  have hss2 : q2.segs.ss = r.segs.ss := by rw [hmode2]; rfl
  have hmem2 : q2.mem = r.mem := p2.mem.trans p1.mem
  have hgpr2 : q2.gpr = (r.returning.withSp (q1.sp + 2)).gpr := p2.gpr.trans (hret.withSp_gpr_of_moved p1.mode p1.gpr _)
  have hgpr3 : q3.gpr = (r.returning.withSp (q2.sp + 2)).gpr := p3.gpr.trans (hret.withSp_gpr_of_moved hmode2 hgpr2 _)
  have hoff1 : r.returning.numberAt (r.returning.segs.ss.base + r.returning.sp) 2 = off := hoff
  have hsel2 : q1.numberAt (q1.segs.ss.base + q1.sp) 2 = sel := by
    rw [hss1, hsp1, ← hsel, State.numberAt, p1.mem]; rfl
  have himg3 : q2.numberAt (q2.segs.ss.base + q2.sp) 2 = img := by
    rw [hss2, hsp2, ← himg, State.numberAt, hmem2]; rfl
  rw [hoff1] at hpop1
  rw [hsel2] at hpop2
  rw [himg3] at hpop3
  obtain ⟨hiret, -⟩ := iretByMode_of_not_protected hret.protected hle hpop1 hpop2 hpop3
  have hbytes : r.osBits / 8 = 2 := by rw [State.osBits_div, hos]; rfl
  have hexec := (interruptReturn_of_allowed (by rw [hv86]; exact nofun)).trans
    ((congrArg (fun n => iretByMode n r.returning) hbytes).trans hiret)
  have hlevel : r.returning.level = 0 := by rw [State.level, hret.pe]; rfl
  have hv863 : q3.v86 = false := State.v86_of_not_pe (hret.of_sameMode hmode3).pe
  have hkeep : q3.cur.keepRf = true := by rw [hmode3]; rfl
  refine ⟨_, runInstr_of_ok hexec, rfl, ?_, ?_, ?_⟩
  · change { q3.segs with cs := SegCache.real (BitVec.ofNat 16 sel) (if q3.v86 then 3 else 0) } = _
    rw [hv863, hmode3]; rfl
  · rw [hlevel]
    change { r.flags.load 0 false (BitVec.ofNat 32 img) with
      rf := (r.flags.load 0 false (BitVec.ofNat 32 img)).rf && (q3.cur.keepRf || q3.cur.repeats) } = _
    rw [hkeep, Bool.true_or, Bool.and_true]
  · change q3.gpr = _
    rw [hgpr3, hsp2, show r.sp + 4 + 2 = r.sp + 6 by bv_omega]
    rw [hret.withSp_gpr, h.withSp_gpr]; rfl

/-- Settles O38: the frame that the delivery pushed is what IRET pops. -/
theorem interruptReturnUndoesDelivery : Obligations.InterruptReturnUndoesDelivery := by
  intro e s t hpe hflat hwf hss hlow hsp hret hrf hinside hdeliver
  have h : RealStack s := ⟨hpe, hflat, ⟨_, hss⟩, hlow⟩
  rw [← h.sp_eq] at hsp
  have hsple := h.sp_le
  obtain ⟨s1, s2, s3, off, sel, hpush, hoff, hsel, rfl⟩ := pushed_of_deliver_real hpe hinside hdeliver
  have hframe := realFrame_of_pushAll h hwf hsp hpush
  have h1 := h.of_sameMode hframe.mode
  have hsp1 := h.sp_of_moved hframe.mode hframe.gpr
  have hsp1 : s1.sp = s.sp - 6 := hsp1.trans (and_low_word_of_le (by bv_omega))
  rw [sysRead_of_flat h1.flat (by decide)] at hoff
  cases hoff
  rw [sysRead_of_flat h1.flat (by decide)] at hsel
  cases hsel
  have hss1 : s1.segs.ss = s.segs.ss := by rw [hframe.mode]
  have hcs := hframe.cs
  have hflags := hframe.flags
  have hoff := hframe.ret
  rw [← hss1] at hcs hflags hoff
  rw [← hsp1] at hoff
  rw [show s.sp - 4 = s1.sp + 2 by rw [hsp1]; bv_omega] at hcs
  rw [show s.sp - 2 = s1.sp + 4 by rw [hsp1]; bv_omega] at hflags
  generalize s1.numberAt (s.idtr.base + 4 * e.vec.setWidth 32) 2 = handler
  generalize s1.numberAt (s.idtr.base + 4 * e.vec.setWidth 32 + 2) 2 = code
  generalize hr : ({ s1.inHandler (BitVec.ofNat 16 code) (BitVec.ofNat 32 handler) with cur := Latch.idle } : State) = r
  have hrsp : r.sp = s1.sp := by rw [← hr]; rfl
  have hrstack : RealStack r := by rw [← hr]; exact ⟨h1.pe, h1.flat, h1.ss, h1.low⟩
  have hnum (a : Word32) : r.numberAt a 2 = s1.numberAt a 2 := by rw [← hr]; rfl
  have hrss : r.segs.ss = s1.segs.ss := by rw [← hr]; rfl
  rw [← hnum, ← hrss, ← hrsp] at hoff hcs hflags
  obtain ⟨u, hexec, hpc, hsegs, hfl, hgpr⟩ := exec_iret_of_realStack hrstack (by rw [← hr])
    (by rw [hrsp, hsp1]; bv_omega) (by omega) hoff hcs hflags
  have hrsegs : r.segs = { s.segs with cs := r.segs.cs } := by
    have hsegs1 : s1.segs = s.segs := by rw [hframe.mode]
    rw [← hr, ← hsegs1]; rfl
  have hrflags : r.flags.rf = s.flags.rf ∧ r.flags.vm = s.flags.vm := by
    rw [← hr]
    change s1.flags.rf = _ ∧ s1.flags.vm = _
    rw [hframe.mode.flags]; exact ⟨rfl, rfl⟩
  have hrgpr (v : Word32) : (r.withSp v).gpr = (s1.withSp v).gpr := by
    rw [hrstack.withSp_gpr, h1.withSp_gpr, ← hr]; rfl
  rw [hrsegs] at hsegs
  refine ⟨u, hexec, ?_, ?_, ?_, ?_, by rw [hsegs], by rw [hsegs], by rw [hsegs]⟩
  · rw [hpc, Nat.mod_eq_of_lt (by omega), BitVec.ofNat_toNat, BitVec.setWidth_eq]
  · rw [hsegs, BitVec.ofNat_toNat, BitVec.setWidth_eq]; rfl
  · rw [hfl, Flags.load_low_word, hrflags.1, hrflags.2]
  · rw [hgpr, hrsp, hsp1, show s.sp - 6 + 6 = s.sp by bv_omega, hrgpr, h.withSp_gpr_of_moved hframe.mode hframe.gpr,
      h.withSp_sp]

end Sys2Proof.Machine

/-! The boundary between two instructions (60_exceptions.md R635): its events in their order, the breakpoints (R660, R661),
HALTED (48_processor_control.md R585) and SHUTDOWN (R672). -/

namespace Sys2Proof.Machine

/-! ### The events of the boundary -/

section Boundary

variable {s : State}

theorem State.nmiReady_iff (s : State) : s.nmiReady = true ↔ s.nmiPending = true ∧ s.nmiInService = false := by
  rw [State.nmiReady, Bool.and_eq_true, Bool.not_eq_true']

theorem State.not_nmiReady_iff (s : State) : s.nmiReady = false ↔ s.nmiPending = false ∨ s.nmiInService = true := by
  rw [State.nmiReady, Bool.and_eq_false_iff, Bool.not_eq_false']

theorem State.wakes_iff (s : State) : s.wakes = true ↔ s.nmiReady = true ∨ (s.flags.ie = true ∧ s.intr ≠ none) := by
  rw [State.wakes, Bool.or_eq_true, Bool.and_eq_true, Option.isSome_iff_ne_none]

theorem boundaryEvent_of_trap (h : s.dbgPending = true) :
    boundaryEvent s = some ({ s with dbgPending := false }, debugEvent s) := by
  rw [boundaryEvent, if_pos h]

section NoTrap

variable (htrap : s.dbgPending = false)
include htrap

theorem boundaryEvent_of_breaks (h : s.breaks = true) : boundaryEvent s = some (s.noteBreaks, debugEvent s) := by
  rw [boundaryEvent, if_neg (by simp [htrap]), if_pos h]

variable (hbreaks : s.breaks = false)
include hbreaks

theorem boundaryEvent_of_nmi (h : s.nmiReady = true) :
    boundaryEvent s = some (s.noteBreaks.takeNmi, externalEvent s 2) := by
  rw [boundaryEvent, if_neg (by simp [htrap]), if_neg (by simp [hbreaks]), if_pos h]

theorem boundaryEvent_of_intr (hnmi : s.nmiReady = false) {v : Byte} (hie : s.flags.ie = true) (h : s.intr = some v) :
    boundaryEvent s = some ({ s.noteBreaks with intr := none }, externalEvent s v) := by
  rw [boundaryEvent, if_neg (by simp [htrap]), if_neg (by simp [hbreaks]), if_neg (by simp [hnmi]), hie, h]

end NoTrap

theorem step_of_event (hrun : s.run = .running) {t : State} {e : Event} (h : boundaryEvent s = some (t, e)) :
    step s = deliverEvent t e := by
  rw [step, hrun]
  change runningStep s = _
  rw [runningStep, h]

theorem step_of_asleep (hrun : s.run = .halted) (h : ¬ s.wakes = true) : step s = .next s := by
  rw [step, hrun]
  exact if_neg h

theorem step_of_wakes (hrun : s.run = .halted) (h : s.wakes = true) : step s = step { s with run := .running } := by
  rw [step, hrun]
  exact if_pos h

/-! ### SHUTDOWN -/

theorem step_of_shutdown (hrun : s.run = .shutdown) : step s = shutdownStep s := by rw [step, hrun]

theorem shutdownStep_of_not_nmiReady (h : s.nmiReady = false) : shutdownStep s = .next s := by
  rw [shutdownStep]
  exact if_pos (by rw [h]; rfl)

theorem State.canLeaveShutdown_iff (s : State) :
    s.canLeaveShutdown = true ↔ 0x0F ≤ s.idtr.limit.toNat ∧ 5 < (s.reg .esp).toNat % 0x10000 := by
  have hmod : (s.reg .esp &&& 0xFFFF).toNat = (s.reg .esp).toNat % 0x10000 := by
    rw [BitVec.toNat_and]; exact Nat.and_two_pow_sub_one_eq_mod _ 16
  rw [State.canLeaveShutdown, Bool.and_eq_true, decide_eq_true_eq, decide_eq_true_eq, hmod]

theorem shutdownStep_of_no_room (hnmi : s.nmiReady = true) (hpe : s.cr0.pe = false) (h : ¬ s.canLeaveShutdown = true) :
    shutdownStep s = .next s := by
  rw [shutdownStep]
  exact (if_neg (by rw [hnmi]; decide)).trans (if_pos (by simp [hpe, h]))

theorem shutdownStep_of_room (hnmi : s.nmiReady = true) (h : s.cr0.pe = true ∨ s.canLeaveShutdown = true) :
    shutdownStep s = match deliver (externalEvent s 2) { s.takeNmi with run := .running } with
      | .ok _ t => .next t.settle
      | .error _ _ => .next s := by
  have hroom : ¬ (!s.cr0.pe && !s.canLeaveShutdown) = true := by rcases h with h | h <;> simp [h]
  rw [shutdownStep]
  exact (if_neg (by rw [hnmi]; decide)).trans (if_neg hroom)

end Boundary

/-! ### Breakpoints -/

/-- Four bits of DR6, one for each breakpoint. -/
theorem getLsbD_fourBits : ∀ b3 b2 b1 b0 : Bool,
    let v : Word32 := (BitVec.ofBool b3 ++ BitVec.ofBool b2 ++ BitVec.ofBool b1 ++ BitVec.ofBool b0).setWidth 32
    v.getLsbD 0 = b0 ∧ v.getLsbD 1 = b1 ∧ v.getLsbD 2 = b2 ∧ v.getLsbD 3 = b3 ∧ v >>> 4 = 0 := by decide

theorem lt_four_iff {k : Nat} : k < 4 ↔ k = 0 ∨ k = 1 ∨ k = 2 ∨ k = 3 := by omega

theorem exists_lt_four {p : Nat → Prop} : (∃ k < 4, p k) ↔ p 0 ∨ p 1 ∨ p 2 ∨ p 3 := by
  simp only [lt_four_iff, or_and_right, exists_or, exists_eq_left]

/-- What a match sets in DR6. -/
theorem noted_of_hits (dr6 : Word32) {hit : Nat → Bool} {p : Nat → Prop} (h : ∀ k < 4, hit k = true ↔ p k) :
    let t := dr6 ||| (BitVec.ofBool (hit 3) ++ BitVec.ofBool (hit 2) ++ BitVec.ofBool (hit 1)
      ++ BitVec.ofBool (hit 0)).setWidth 32
    (∀ k < 4, t.getLsbD k = true ↔ dr6.getLsbD k = true ∨ p k) ∧ t >>> 4 = dr6 >>> 4 := by
  obtain ⟨h0, h1, h2, h3, hhigh⟩ := getLsbD_fourBits (hit 3) (hit 2) (hit 1) (hit 0)
  refine ⟨fun k hk => ?_, ?_⟩
  · rw [BitVec.getLsbD_or, Bool.or_eq_true, ← h k hk]
    rcases lt_four_iff.1 hk with rfl | rfl | rfl | rfl
    · rw [h0]
    · rw [h1]
    · rw [h2]
    · rw [h3]
  · rw [BitVec.ushiftRight_or_distrib, hhigh]; exact BitVec.or_zero

/-- The aligned range of a breakpoint holds the addresses that its length does not tell apart. -/
theorem aligned_range_iff (x b : Word32) {len : Nat} (h : len = 1 ∨ len = 2 ∨ len = 4) :
    (x - (b - BitVec.ofNat 32 (b.toNat % len))).toNat < len ↔ x.toNat / len = b.toNat / len := by
  have hx := x.isLt
  have hb := b.isLt
  rcases h with rfl | rfl | rfl <;> simp only [BitVec.toNat_sub, BitVec.toNat_ofNat] <;> omega

section Breakpoints

variable (s : State)

/-- The length code of a breakpoint in DR7. -/
def State.lengthCode (k : Nat) : BitVec 2 := s.dr7.extractLsb' (18 + 4 * k) 2

theorem State.breakLength_eq (k : Nat) :
    s.breakLength k = if s.lengthCode k = 0 then 1 else if s.lengthCode k = 1 then 2 else if s.lengthCode k = 2 then 0 else 4 := by
  rw [State.breakLength, State.lengthCode]
  generalize s.dr7.extractLsb' (18 + 4 * k) 2 = c
  revert c
  decide

theorem State.breakpoint_eq (k : Nat) :
    s.breakpoint k = if k = 0 then s.dr0 else if k = 1 then s.dr1 else if k = 2 then s.dr2 else s.dr3 := by
  rcases k with _ | _ | _ | k <;> rfl

theorem State.breakEnabled_iff (k : Nat) :
    s.breakEnabled k = true ↔ s.dr7.getLsbD (2 * k) = true ∨ s.dr7.getLsbD (2 * k + 1) = true := by
  rw [State.breakEnabled, Bool.or_eq_true]; rfl

theorem State.breaksAt_iff (k : Nat) :
    s.breaksAt k = true ↔ s.breakKind k = 0 ∧ s.lengthCode k = 0 ∧ s.flags.rf = false
      ∧ s.breakpoint k = s.segs.cs.base + s.pc := by
  have hlen : s.breakLength k = 1 ↔ s.lengthCode k = 0 := by
    rw [State.breakLength_eq]
    generalize s.lengthCode k = c
    revert c
    decide
  rw [State.breaksAt, Bool.and_eq_true, Bool.and_eq_true, Bool.and_eq_true, Bool.not_eq_true', beq_iff_eq, beq_iff_eq,
    beq_iff_eq, hlen]
  exact ⟨fun ⟨⟨⟨hrf, hkind⟩, hcode⟩, hat⟩ => ⟨hkind, hcode, hrf, hat⟩,
    fun ⟨hkind, hcode, hrf, hat⟩ => ⟨⟨⟨hrf, hkind⟩, hcode⟩, hat⟩⟩

/-- The length of a breakpoint whose code is defined. -/
theorem State.breakLength_of_defined {k : Nat} (h : s.lengthCode k ≠ 2) :
    s.breakLength k = if s.lengthCode k = 0 then 1 else if s.lengthCode k = 1 then 2 else 4 := by
  rw [State.breakLength_eq, if_neg h]

theorem State.dataMatch_iff (k : Nat) (lin : Word32) (n : Nat) (write : Bool) :
    s.dataMatch k lin n write = true ↔
      ((s.breakKind k = 1 ∧ write = true) ∨ s.breakKind k = 3) ∧ s.lengthCode k ≠ 2
        ∧ ∃ j < n, (lin + BitVec.ofNat 32 j).toNat / (if s.lengthCode k = 0 then 1 else if s.lengthCode k = 1 then 2 else 4)
          = (s.breakpoint k).toNat / (if s.lengthCode k = 0 then 1 else if s.lengthCode k = 1 then 2 else 4) := by
  rw [State.dataMatch]
  simp only [Bool.and_eq_true, Bool.or_eq_true, beq_iff_eq, List.any_eq_true, List.mem_range, decide_eq_true_eq]
  refine and_congr_right fun _ => ?_
  by_cases hcode : s.lengthCode k = 2
  · have hlen : s.breakLength k = 0 := by rw [State.breakLength_eq, hcode]; rfl
    simp only [hlen, hcode, Nat.not_lt_zero, and_false, exists_false, ne_eq, not_true_eq_false, false_and]
  · have hlen := s.breakLength_of_defined hcode
    have hdefined : s.breakLength k = 1 ∨ s.breakLength k = 2 ∨ s.breakLength k = 4 := by
      rw [hlen]
      generalize s.lengthCode k = c
      revert c
      decide
    rw [← hlen]
    simp only [aligned_range_iff _ _ hdefined, hcode, ne_eq, not_false_eq_true, true_and]

end Breakpoints

/-- Settles O57: the events in their order, and the breakpoints by the codes of DR7. -/
theorem boundaryEventsInPriorityOrder : Obligations.BoundaryEventsInPriorityOrder := by
  refine ⟨?_, ?_⟩
  · intro s debugEvents external nmi
    refine ⟨fun hrun => ⟨?_, ?_, ?_, ?_⟩, ?_, ?_, s.nmiReady_iff, ?_, ?_⟩
    · exact fun htrap => step_of_event hrun (boundaryEvent_of_trap htrap)
    · exact fun htrap hbreaks => step_of_event hrun (boundaryEvent_of_breaks htrap hbreaks)
    · exact fun htrap hbreaks hpending hservice =>
        step_of_event hrun (boundaryEvent_of_nmi htrap hbreaks (s.nmiReady_iff.2 ⟨hpending, hservice⟩))
    · exact fun v htrap hbreaks hnmi hie hintr =>
        step_of_event hrun (boundaryEvent_of_intr htrap hbreaks (s.not_nmiReady_iff.2 hnmi) hie hintr)
    · intro hrun hnmi hintr
      refine step_of_asleep hrun fun hwakes => ?_
      rcases s.wakes_iff.1 hwakes with h | ⟨hie, hsome⟩
      · rw [hnmi] at h; cases h
      · rcases hintr with h | h
        · rw [hie] at h; cases h
        · exact hsome h
    · exact fun hrun hwakes => step_of_wakes hrun (s.wakes_iff.2 hwakes)
    · exact fun hrun hnmi => (step_of_shutdown hrun).trans (shutdownStep_of_not_nmiReady hnmi)
    · intro hrun hnmi room u
      rw [step_of_shutdown hrun]
      refine ⟨fun hpe hroom => shutdownStep_of_no_room hnmi hpe fun h => hroom (s.canLeaveShutdown_iff.1 h), fun hroom => ?_⟩
      rw [shutdownStep_of_room hnmi (hroom.imp_right s.canLeaveShutdown_iff.2)]
      refine ⟨fun t h => ?_, fun x t h => ?_⟩
      · change deliver (externalEvent s 2) { s.takeNmi with run := .running } = _ at h
        rw [h]
      · change deliver (externalEvent s 2) { s.takeNmi with run := .running } = _ at h
        rw [h]
  · intro s address rwe len enabled fetched range accessed noted
    have haddress (k : Nat) : s.breakpoint k = address k := s.breakpoint_eq k
    have hfetched (k : Nat) : s.breaksAt k = true ↔ fetched k := by rw [s.breaksAt_iff, haddress]; rfl
    have haccessed (lin : Word32) (n : Nat) (write : Bool) (k : Nat) :
        s.dataMatch k lin n write = true ↔ accessed lin n write k := by rw [s.dataMatch_iff, haddress]; rfl
    have henabled (k : Nat) : s.breakEnabled k = true ↔ enabled k := s.breakEnabled_iff k
    refine ⟨?_, noted_of_hits s.dr6 fun k _ => hfetched k, rfl, fun lin n write => ⟨?_, ?_, rfl⟩⟩
    · simp only [State.breaks, Bool.or_eq_true, Bool.and_eq_true, hfetched, henabled, exists_lt_four, or_assoc]
    · exact noted_of_hits (hit := fun k => s.dataMatch k lin n write) s.dr6 fun k _ => haccessed lin n write k
    · simp only [State.noteData, Bool.or_eq_true, Bool.and_eq_true, haccessed, henabled, exists_lt_four, or_assoc]

end Sys2Proof.Machine

/-! Task switches (61_task_switching.md R684): the test of the new task, and the phases that save the old one and enter the new
one, in ordinary memory. -/

namespace Sys2Proof.Machine

/-! ### The test of the new task -/

section Check

variable {sel : Word16} {cause : SwitchCause} {s s1 : State} {d : Desc}

/-- A descriptor is that of a task that `cause` may switch to. -/
theorem Desc.isWantedTask_iff (d : Desc) (cause : SwitchCause) :
    (if cause = .iret then d.isSystem 3 || d.isSystem 0xB else d.isSystem 1 || d.isSystem 9) = true
      ↔ d.isSegment = false ∧ (if cause = .iret then d.type ∈ [3, 0xB] else d.type ∈ [1, 9]) := by
  simp only [Desc.isSystem]
  split <;>
    simp only [Bool.or_eq_true, Bool.and_eq_true, Bool.not_eq_true', beq_iff_eq, List.mem_cons, List.not_mem_nil, or_false,
      and_or_left]

theorem Desc.isTss386_iff (d : Desc) : (d.type == 9 || d.type == 0xB) = true ↔ d.type ∈ [9, 0xB] := by
  simp only [Bool.or_eq_true, beq_iff_eq, List.mem_cons, List.not_mem_nil, or_false]

/-- What a task that passes the test of phase A is. -/
theorem checkNewTask_eq_ok (h : checkNewTask sel cause s = .ok d s1) :
    sel.getLsbD 2 = false ∧ isNull sel = false ∧ d.isSegment = false ∧ d.present = true
      ∧ (if cause = .iret then d.type ∈ [3, 0xB] else d.type ∈ [1, 9])
      ∧ (if d.type ∈ [9, 0xB] then 0x64 else 0x2B) < d.limit.toNat := by
  obtain ⟨htable, h⟩ := raiseIf_bind_eq_ok.1 h
  obtain ⟨d', s2, -, h⟩ := bind_eq_ok.1 h
  obtain ⟨hwanted, h⟩ := raiseIf_bind_eq_ok.1 h
  obtain ⟨hpresent, h⟩ := raiseIf_bind_eq_ok.1 h
  obtain ⟨hlimit, ⟨⟩⟩ := raiseIf_bind_eq_ok.1 h
  obtain ⟨hti, hnull⟩ := Bool.or_eq_false_iff.1 htable
  obtain ⟨hseg, htype⟩ := (d.isWantedTask_iff cause).1 (by simpa using hwanted)
  simp only [d.isTss386_iff] at hlimit
  exact ⟨hti, hnull, hseg, by simpa using hpresent, htype, Nat.lt_of_not_le (of_decide_eq_false hlimit)⟩

end Check

/-! ### The phases one after the other -/

/-- What a task switch leaves where each of its phases succeeds. -/
theorem taskSwitch_of_phases {sel : Word16} {cause : SwitchCause} {ret : Word32} {s s1 s2 s3 s4 s5 : State} {d : Desc} {b : Bool}
    (hcheck : checkNewTask sel cause s = .ok d s1) (htr : s1.tr.valid = true) (hsave : saveOldTask cause ret s1 = .ok () s2)
    (henter : enterNewTask sel d cause s2 = .ok () s3) (hload : loadNewTask d (nests cause) s3 = .ok b s4)
    (hvalid : validateTask s4 = .ok () s5) :
    taskSwitch sel cause ret s
      = .ok () (if b then { s5 with dr6 := s5.dr6 ||| 0x8000, dbgPending := true } else s5) := by
  rw [taskSwitch, bind_of_ok hcheck, bind_of_ok (get_apply s1), raiseIf_bind_of_false (by rw [htr]; rfl), bind_of_ok hsave,
    bind_of_ok henter, bind_of_ok hload, bind_of_ok hvalid]
  cases b <;> rfl

/-! ### A table written in ordinary memory -/

/-- `t` is `s` with items of `n` bytes stored `stride` bytes apart in a table, in ordinary memory. -/
structure StoredItems (base : Word32) (n stride at_ : Nat) (items : List Nat) (s t : State) : Prop where
  rest : t = { s with mem := t.mem, stale := t.stale }
  wf : Memory.wf t.mem = true
  item : ∀ (k v : Nat), items[k]? = some v → t.numberAt (base + BitVec.ofNat 32 (at_ + stride * k)) n = v % 256 ^ n
  other : ∀ a, (∀ k < items.length, a ∉ byteAddresses (base + BitVec.ofNat 32 (at_ + stride * k)) n) →
    Memory.get t.mem a = Memory.get s.mem a

theorem storedItems_of_sysWriteItems {base : Word32} {n stride : Nat} (hn : n ≤ 4096) (hstride : n ≤ stride) {items : List Nat}
    {at_ : Nat} {s t : State} (hs : s.flat = true) (hwf : Memory.wf s.mem = true)
    (hend : at_ + stride * items.length ≤ 2 ^ 32) (h : sysWriteItems base n stride at_ items s = .ok () t) :
    StoredItems base n stride at_ items s t := by
  induction items generalizing at_ s with
  | nil => cases h; exact ⟨rfl, hwf, nofun, fun _ _ => rfl⟩
  | cons v vs ih =>
    obtain ⟨_, s1, hwrite, h⟩ := bind_eq_ok.1 h
    have hstored := stored_of_sysWrite hs hn hwrite
    rw [List.length_cons, Nat.mul_succ] at hend
    have htail := ih (hstored.flat.trans hs) (hstored.wf hwf) (by omega) h
    have hplace (k : Nat) : at_ + stride + stride * k = at_ + stride * (k + 1) := by rw [Nat.mul_succ]; omega
    refine ⟨htail.rest.trans (by rw [hstored.rest]), htail.wf, fun k w hk => ?_, fun a ha => ?_⟩
    · cases k with
      | zero =>
        cases hk
        rw [Nat.mul_zero, Nat.add_zero, ← State.numberAt_of_setAll hstored.mem hwf (by omega)]
        refine State.numberAt_congr fun x hx => htail.other x fun k hk => ?_
        have hle : stride * (k + 1) ≤ stride * vs.length := Nat.mul_le_mul_left _ hk
        rw [hplace]
        rw [Nat.mul_succ] at hle ⊢
        exact not_mem_byteAddresses_of_apart hx (by omega) (by omega) (.inl (by omega))
      | succ k => rw [← hplace]; exact htail.item k w hk
    · rw [htail.other a fun k hk => by rw [hplace]; exact ha (k + 1) (Nat.succ_lt_succ hk),
        State.get_of_setAll hstored.mem (ha 0 (Nat.zero_lt_succ _))]

/-! ### The busy bit -/

/-- Where the busy bit of a TSS stands in the GDT: byte 5 of its descriptor (61_task_switching.md R688). -/
def State.busyAddress (s : State) (sel : Word16) : Word32 := s.gdtr.base + (sel &&& 0xFFF8).setWidth 32 + 5

theorem byteAddresses_one (a : Word32) : byteAddresses a 1 = [a.toNat] := by
  rw [byteAddresses, List.range_one, List.map_singleton, BitVec.add_zero]

theorem State.numberAt_one (s : State) (a : Word32) : s.numberAt a 1 = (Memory.get s.mem a.toNat).toNat := by
  rw [State.numberAt, byteAddresses_one, List.map_singleton, ofBytes_cons]; rfl

section Busy

variable {sel : Word16} {s t : State} (hs : s.flat = true)
include hs

theorem stored_of_setBusy {busy : Bool} (h : setBusy sel busy s = .ok () t) :
    Stored (s.busyAddress sel) 1
      (if busy then (Memory.get s.mem (s.busyAddress sel).toNat).toNat ||| 2
        else (Memory.get s.mem (s.busyAddress sel).toNat).toNat &&& 0xFD) s t := by
  obtain ⟨_, _, ⟨⟩, h⟩ := bind_eq_ok.1 h
  obtain ⟨b, u, hread, h⟩ := bind_eq_ok.1 h
  rw [sysRead_of_flat hs (by decide), State.numberAt_one] at hread
  cases hread
  exact stored_of_sysWrite hs (by decide) h

variable (hwf : Memory.wf s.mem = true)
include hwf

theorem get_of_setBusy {busy : Bool} (h : setBusy sel busy s = .ok () t) :
    Memory.get t.mem (s.busyAddress sel).toNat
      = if busy then Memory.get s.mem (s.busyAddress sel).toNat ||| 2
        else Memory.get s.mem (s.busyAddress sel).toNat &&& 0xFD := by
  have hbyte := State.numberAt_of_setAll (stored_of_setBusy hs h).mem hwf (by decide)
  rw [State.numberAt_one] at hbyte
  apply BitVec.eq_of_toNat_eq
  rw [hbyte]
  cases busy with
  | true => exact Nat.mod_eq_of_lt (BitVec.isLt (Memory.get s.mem (s.busyAddress sel).toNat ||| 2))
  | false => exact Nat.mod_eq_of_lt (BitVec.isLt (Memory.get s.mem (s.busyAddress sel).toNat &&& 0xFD))

omit hwf in
theorem get_other_of_setBusy {busy : Bool} (h : setBusy sel busy s = .ok () t) {a : Nat} (ha : a ≠ (s.busyAddress sel).toNat) :
    Memory.get t.mem a = Memory.get s.mem a :=
  State.get_of_setAll (stored_of_setBusy hs h).mem (by rw [byteAddresses_one, List.mem_singleton]; exact ha)

end Busy

/-! ### Writes that are made for some causes only -/

theorem whenever_eq_ok {c : Bool} {m : M Unit} {s t : State} :
    whenever c m s = .ok () t ↔ (c = true → m s = .ok () t) ∧ (c = false → t = s) := by
  cases c with
  | true => exact ⟨fun h => ⟨fun _ => h, nofun⟩, fun h => h.1 rfl⟩
  | false =>
    refine ⟨fun h => ⟨nofun, fun _ => ?_⟩, fun h => by rw [h.2 rfl]; rfl⟩
    cases h
    rfl

/-- `t` is `s`, in ordinary memory, but for bytes at `ps` that were written where `c` is true. -/
structure WroteIf (c : Bool) (ps : List Nat) (s t : State) : Prop where
  rest : t = { s with mem := t.mem, stale := t.stale }
  wf : Memory.wf t.mem = true
  other : ∀ a, (c = true → a ∉ ps) → Memory.get t.mem a = Memory.get s.mem a

theorem WroteIf.flat {c : Bool} {ps : List Nat} {s t : State} (h : WroteIf c ps s t) : t.flat = s.flat := by rw [h.rest]; rfl

theorem wroteIf_of_stored {c : Bool} {lin : Word32} {n v : Nat} {s t : State} (hwf : Memory.wf s.mem = true)
    (h : c = true → Stored lin n v s t) (hkeep : c = false → t = s) : WroteIf c (byteAddresses lin n) s t := by
  cases c with
  | true =>
    have hstored := h rfl
    exact ⟨hstored.rest, hstored.wf hwf, fun a ha => State.get_of_setAll hstored.mem (ha rfl)⟩
  | false =>
    rw [hkeep rfl]
    exact ⟨rfl, hwf, fun _ _ => rfl⟩

/-! ### Entering the new task -/

/-- The state in the new task, whose fields are still to be loaded. -/
def State.inTask (s : State) (sel : Word16) (d : Desc) : State :=
  { s with tr := { sel := sel, base := d.base, limit := d.limit, valid := true, is386 := d.type == 9 || d.type == 0xB }
           cr0 := { s.cr0 with ts := true } }

/-- Phase C in ordinary memory: the back link first, then the busy bit. -/
theorem enterNewTask_eq_ok {sel : Word16} {d : Desc} {cause : SwitchCause} {s t : State} (hs : s.flat = true)
    (hwf : Memory.wf s.mem = true) (h : enterNewTask sel d cause s = .ok () t) :
    ∃ s1 s2 : State, WroteIf (nests cause) (byteAddresses d.base 2) s s1
      ∧ (nests cause = true → s1.numberAt d.base 2 = s.tr.sel.toNat)
      ∧ WroteIf (cause != .iret) (byteAddresses (s.busyAddress sel) 1) s1 s2
      ∧ ((cause != .iret) = true →
          Memory.get s2.mem (s.busyAddress sel).toNat = Memory.get s1.mem (s.busyAddress sel).toNat ||| 2)
      ∧ t = s2.inTask sel d := by
  obtain ⟨_, _, ⟨⟩, h⟩ := bind_eq_ok.1 h
  obtain ⟨_, s1, hlink, h⟩ := bind_eq_ok.1 h
  obtain ⟨_, s2, hbusy, ⟨⟩⟩ := bind_eq_ok.1 h
  obtain ⟨hlink, hkeep⟩ := whenever_eq_ok.1 hlink
  obtain ⟨hbusy, hkeep'⟩ := whenever_eq_ok.1 hbusy
  have hstored (hc : nests cause = true) := stored_of_sysWrite hs (by decide) (hlink hc)
  have hw1 := wroteIf_of_stored hwf hstored hkeep
  have hs1 := hw1.flat.trans hs
  have haddr : s1.busyAddress sel = s.busyAddress sel := by rw [hw1.rest]; rfl
  have hw2 := wroteIf_of_stored hw1.wf (fun hc => stored_of_setBusy hs1 (hbusy hc)) hkeep'
  rw [haddr] at hw2
  refine ⟨s1, s2, hw1, fun hc => ?_, hw2, fun hc => ?_, rfl⟩
  · rw [State.numberAt_of_setAll (hstored hc).mem hwf (by decide)]
    exact Nat.mod_eq_of_lt s.tr.sel.isLt
  · have hget := get_of_setBusy hs1 hw1.wf (hbusy hc)
    rw [haddr] at hget
    exact hget

/-- What phase C leaves in ordinary memory, where the busy bit does not stand in the back link. -/
structure EnteredTask (sel : Word16) (d : Desc) (cause : SwitchCause) (s t : State) : Prop where
  link : nests cause = true → t.numberAt d.base 2 = s.tr.sel.toNat
  busy : cause ≠ .iret → Memory.get t.mem (s.busyAddress sel).toNat = Memory.get s.mem (s.busyAddress sel).toNat ||| 2
  other : ∀ a, (nests cause = true → a ∉ byteAddresses d.base 2) → (cause ≠ .iret → a ≠ (s.busyAddress sel).toNat) →
    Memory.get t.mem a = Memory.get s.mem a
  rest : t = { s.inTask sel d with mem := t.mem, stale := t.stale }

theorem enteredTask_of_enterNewTask {sel : Word16} {d : Desc} {cause : SwitchCause} {s t : State} (hs : s.flat = true)
    (hwf : Memory.wf s.mem = true) (h : enterNewTask sel d cause s = .ok () t)
    (hbusy : nests cause = true → (s.busyAddress sel).toNat ∉ byteAddresses d.base 2) : EnteredTask sel d cause s t := by
  obtain ⟨s1, s2, hw1, hlink, hw2, hget, rfl⟩ := enterNewTask_eq_ok hs hwf h
  have hother (x : Nat) (hx : cause ≠ .iret → x ≠ (s.busyAddress sel).toNat) : Memory.get s2.mem x = Memory.get s1.mem x :=
    hw2.other x fun hc hmem => hx (bne_iff_ne.1 hc) (by rwa [byteAddresses_one, List.mem_singleton] at hmem)
  refine ⟨fun hc => ?_, fun hc => ?_, fun a ha hne => ?_, ?_⟩
  · rw [← hlink hc]
    exact State.numberAt_congr fun x hx => hother x fun _ heq => hbusy hc (by rwa [← heq])
  · exact (hget (bne_iff_ne.2 hc)).trans (by rw [hw1.other _ hbusy])
  · exact (hother a hne).trans (hw1.other a ha)
  · rw [hw2.rest, hw1.rest]; rfl

/-! ### Saving the old task -/

/-- The segment registers that the TSS of a task holds (61_task_switching.md R681, R683). -/
def tssSegs (is386 : Bool) : List SegReg := if is386 then [.es, .cs, .ss, .ds, .fs, .gs] else [.es, .cs, .ss, .ds]

/-- The size of the items of a TSS. -/
def tssSize (is386 : Bool) : Nat := if is386 then 4 else 2

/-- Where the return address of a task stands in its TSS; the flags and the general registers follow. -/
def tssFirst (is386 : Bool) : Nat := if is386 then 0x20 else 0x0E

/-- Where the selectors of a task stand in its TSS. -/
def tssSelectors (is386 : Bool) : Nat := if is386 then 0x48 else 0x22

theorem Gprs.items_eq (s : State) : s.gpr.items = tssRegs.map fun r => (s.reg r).toNat := rfl

/-- The state that is saved, with the image of its flags, in the TSS. -/
theorem saveTask_apply (s : State) (base ret img : Word32) :
    (if s.tr.is386 then saveTask386 base ret img else saveTask286 base ret img) s =
      (do sysWriteItems base (tssSize s.tr.is386) (tssSize s.tr.is386) (tssFirst s.tr.is386)
            (ret.toNat :: img.toNat :: tssRegs.map fun r => (s.reg r).toNat)
          sysWriteItems base 2 (tssSize s.tr.is386) (tssSelectors s.tr.is386)
            ((tssSegs s.tr.is386).map fun r => (s.seg r).sel.toNat) : M Unit) s := by
  cases s.tr.is386 <;> rfl

/-- The state in which the old task is saved. -/
def State.leavingTask (s : State) : State := { s.drawn with cur := { s.cur with committed := true } }

/-- The image of the flags of the old task: IRET clears NT in it. -/
theorem savedImage_apply (cause : SwitchCause) (s : State) :
    ∃ img : Word32, savedImage cause s = .ok img s.drawn
      ∧ Flags.ofImage img = { s.flags with nt := s.flags.nt && cause != .iret } := by
  refine ⟨_, rfl, ?_⟩
  rw [Flags.ofImage_image]
  by_cases hc : cause = .iret
  · rw [if_pos hc, hc, show (SwitchCause.iret != .iret) = false from rfl, Bool.and_false]
  · rw [if_neg hc, bne_iff_ne.2 hc, Bool.and_true]

theorem ite_bind_apply {α β : Type} {c : Prop} [Decidable c] {x y : M α} {f : α → M β} {s : State} :
    (if c then x >>= f else y >>= f) s = ((if c then x else y) >>= f) s := by split <;> rfl

/-- Phase B in ordinary memory: the return address, the flags and the registers, the selectors, and the busy bit. -/
theorem saveOldTask_eq_ok {cause : SwitchCause} {ret : Word32} {s t : State} (hs : s.flat = true)
    (hwf : Memory.wf s.mem = true) (h : saveOldTask cause ret s = .ok () t) :
    ∃ (img : Word32) (s1 s2 : State),
      Flags.ofImage img = { s.flags with nt := s.flags.nt && cause != .iret }
      ∧ StoredItems s.tr.base (tssSize s.tr.is386) (tssSize s.tr.is386) (tssFirst s.tr.is386)
          (ret.toNat :: img.toNat :: tssRegs.map fun r => (s.reg r).toNat) s.leavingTask s1
      ∧ StoredItems s.tr.base 2 (tssSize s.tr.is386) (tssSelectors s.tr.is386)
          ((tssSegs s.tr.is386).map fun r => (s.seg r).sel.toNat) s1 s2
      ∧ WroteIf (!nests cause) (byteAddresses (s.busyAddress s.tr.sel) 1) s2 t
      ∧ ((!nests cause) = true → Memory.get t.mem (s.busyAddress s.tr.sel).toNat
          = Memory.get s2.mem (s.busyAddress s.tr.sel).toNat &&& 0xFD) := by
  obtain ⟨img, himg, hflags⟩ := savedImage_apply cause { s with cur := { s.cur with committed := true } }
  obtain ⟨_, _, ⟨⟩, h⟩ := bind_eq_ok.1 h
  rw [bind_of_ok himg, bind_of_ok (get_apply _), ite_bind_apply] at h
  obtain ⟨_, s2, hsave, h⟩ := bind_eq_ok.1 h
  have hsave := (saveTask_apply s.leavingTask s.tr.base ret img).symm.trans hsave
  obtain ⟨_, s1, hitems, hsels⟩ := bind_eq_ok.1 hsave
  obtain ⟨hbusy, hkeep⟩ := whenever_eq_ok.1 h
  have hsize : tssSize s.tr.is386 ≤ 4096 ∧ 2 ≤ tssSize s.tr.is386
      ∧ tssFirst s.tr.is386 + tssSize s.tr.is386 * 10 ≤ 2 ^ 32
      ∧ tssSelectors s.tr.is386 + tssSize s.tr.is386 * (tssSegs s.tr.is386).length ≤ 2 ^ 32 := by
    cases s.tr.is386 <;> decide
  obtain ⟨hsize, htwo, hend, hend'⟩ := hsize
  have h1 := storedItems_of_sysWriteItems hsize (Nat.le_refl _) (s := s.leavingTask) hs hwf hend hitems
  have hs1 : s1.flat = true := by rw [h1.rest]; exact hs
  have h2 := storedItems_of_sysWriteItems (by decide) htwo hs1 h1.wf (by rw [List.length_map]; exact hend') hsels
  have hs2 : s2.flat = true := by rw [h2.rest]; exact hs1
  have haddr : s2.busyAddress s.tr.sel = s.busyAddress s.tr.sel := by rw [h2.rest, h1.rest]; rfl
  have hw := wroteIf_of_stored h2.wf (fun hc => stored_of_setBusy hs2 (hbusy hc)) hkeep
  have hget (hc : (!nests cause) = true) := get_of_setBusy hs2 h2.wf (hbusy hc)
  change WroteIf _ (byteAddresses (s2.busyAddress s.tr.sel) 1) _ _ at hw
  change (!nests cause) = true → Memory.get t.mem (s2.busyAddress s.tr.sel).toNat
    = Memory.get s2.mem (s2.busyAddress s.tr.sel).toNat &&& 0xFD at hget
  rw [haddr] at hw hget
  exact ⟨img, s1, s2, hflags, h1, h2, hw, hget⟩

/-- A part of a run of bytes. -/
theorem mem_byteAddresses_of_part {base : Word32} {x i n m a : Nat} (h : a ∈ byteAddresses (base + BitVec.ofNat 32 (x + i)) m)
    (hpart : i + m ≤ n) : a ∈ byteAddresses (base + BitVec.ofNat 32 x) n := by
  obtain ⟨j, hj, rfl⟩ := mem_byteAddresses.1 h
  refine mem_byteAddresses.2 ⟨i + j, by omega, ?_⟩
  simp only [BitVec.ofNat_add, BitVec.add_assoc]

/-- The bytes of the TSS at `base` that a task is saved in. -/
def savedBytes (is386 : Bool) (base : Word32) : List Nat :=
  byteAddresses (base + BitVec.ofNat 32 (tssFirst is386)) (10 * tssSize is386)
    ++ (List.range (tssSegs is386).length).flatMap fun k =>
        byteAddresses (base + BitVec.ofNat 32 (tssSelectors is386 + tssSize is386 * k)) 2

section Saved

variable {is386 : Bool} {base : Word32} {a : Nat}

theorem mem_savedBytes_of_item {k : Nat} (hk : k < 10)
    (h : a ∈ byteAddresses (base + BitVec.ofNat 32 (tssFirst is386 + tssSize is386 * k)) (tssSize is386)) :
    a ∈ savedBytes is386 base := by
  have hle : tssSize is386 * (k + 1) ≤ tssSize is386 * 10 := Nat.mul_le_mul_left _ hk
  rw [Nat.mul_succ] at hle
  exact List.mem_append_left _ (mem_byteAddresses_of_part h (by omega))

theorem mem_savedBytes_of_selector {k : Nat} (hk : k < (tssSegs is386).length)
    (h : a ∈ byteAddresses (base + BitVec.ofNat 32 (tssSelectors is386 + tssSize is386 * k)) 2) : a ∈ savedBytes is386 base :=
  List.mem_append_right _ (List.mem_flatMap.2 ⟨k, List.mem_range.2 hk, h⟩)

/-- The selectors stand above the other items. -/
theorem not_mem_selector_of_item {k j : Nat} (hk : k < 10) (hj : j < (tssSegs is386).length)
    (h : a ∈ byteAddresses (base + BitVec.ofNat 32 (tssFirst is386 + tssSize is386 * k)) (tssSize is386)) :
    a ∉ byteAddresses (base + BitVec.ofNat 32 (tssSelectors is386 + tssSize is386 * j)) 2 := by
  cases is386 <;> simp only [tssSegs, tssSize, tssFirst, tssSelectors, List.length_cons, List.length_nil, Bool.false_eq_true,
    if_false, if_true] at hj h ⊢ <;>
    exact not_mem_byteAddresses_of_apart h (by omega) (by omega) (.inl (by omega))

end Saved

/-- What phase B leaves in ordinary memory, where the busy bit does not stand in the TSS (61_task_switching.md R681, R683). -/
structure SavedTask (cause : SwitchCause) (ret img : Word32) (s t : State) : Prop where
  item : ∀ (k v : Nat), (ret.toNat :: img.toNat :: tssRegs.map fun r => (s.reg r).toNat)[k]? = some v →
    t.numberAt (s.tr.base + BitVec.ofNat 32 (tssFirst s.tr.is386 + tssSize s.tr.is386 * k)) (tssSize s.tr.is386)
      = v % 256 ^ tssSize s.tr.is386
  selector : ∀ (k : Nat) (r : SegReg), (tssSegs s.tr.is386)[k]? = some r →
    t.numberAt (s.tr.base + BitVec.ofNat 32 (tssSelectors s.tr.is386 + tssSize s.tr.is386 * k)) 2 = (s.seg r).sel.toNat
  busy : (!nests cause) = true → Memory.get t.mem (s.busyAddress s.tr.sel).toNat
    = Memory.get s.mem (s.busyAddress s.tr.sel).toNat &&& 0xFD
  other : ∀ a, a ∉ savedBytes s.tr.is386 s.tr.base → ((!nests cause) = true → a ≠ (s.busyAddress s.tr.sel).toNat) →
    Memory.get t.mem a = Memory.get s.mem a
  rest : t = { s with mem := t.mem, stale := t.stale, draws := t.draws, cur := { s.cur with committed := true } }

section SavedTask

variable {cause : SwitchCause} {ret img : Word32} {s t : State} (h : SavedTask cause ret img s t)
include h

theorem SavedTask.returnAddress : t.numberAt (s.tr.base + BitVec.ofNat 32 (tssFirst s.tr.is386)) (tssSize s.tr.is386)
    = ret.toNat % 256 ^ tssSize s.tr.is386 := h.item 0 _ rfl

theorem SavedTask.flags :
    t.numberAt (s.tr.base + BitVec.ofNat 32 (tssFirst s.tr.is386 + tssSize s.tr.is386)) (tssSize s.tr.is386)
      = img.toNat % 256 ^ tssSize s.tr.is386 := by
  have hitem := h.item 1 img.toNat rfl
  rwa [Nat.mul_one] at hitem

theorem SavedTask.reg {k : Nat} {r : Reg} (hk : tssRegs[k]? = some r) :
    t.numberAt (s.tr.base + BitVec.ofNat 32 (tssFirst s.tr.is386 + 2 * tssSize s.tr.is386 + tssSize s.tr.is386 * k))
      (tssSize s.tr.is386) = (s.reg r).toNat % 256 ^ tssSize s.tr.is386 := by
  have hplace : tssFirst s.tr.is386 + 2 * tssSize s.tr.is386 + tssSize s.tr.is386 * k
      = tssFirst s.tr.is386 + tssSize s.tr.is386 * (k + 2) := by rw [Nat.mul_add]; omega
  rw [hplace]
  refine h.item (k + 2) (s.reg r).toNat ?_
  rw [List.getElem?_cons_succ, List.getElem?_cons_succ, List.getElem?_map, hk]
  rfl

end SavedTask

theorem savedTask_of_saveOldTask {cause : SwitchCause} {ret : Word32} {s t : State} (hs : s.flat = true)
    (hwf : Memory.wf s.mem = true) (h : saveOldTask cause ret s = .ok () t)
    (hbusy : (!nests cause) = true → (s.busyAddress s.tr.sel).toNat ∉ savedBytes s.tr.is386 s.tr.base) :
    ∃ img : Word32, Flags.ofImage img = { s.flags with nt := s.flags.nt && cause != .iret } ∧ SavedTask cause ret img s t := by
  obtain ⟨img, s1, s2, himg, hitems, hsels, hw, hget⟩ := saveOldTask_eq_ok hs hwf h
  have hkept (x : Nat) (hx : x ∈ savedBytes s.tr.is386 s.tr.base) : Memory.get t.mem x = Memory.get s2.mem x :=
    hw.other x fun hc hmem => hbusy hc (by
      rw [byteAddresses_one, List.mem_singleton] at hmem
      rwa [← hmem])
  have hbefore (x : Nat) (hx : x ∉ savedBytes s.tr.is386 s.tr.base) : Memory.get s2.mem x = Memory.get s.mem x := by
    rw [hsels.other x fun k hk hmem => hx (mem_savedBytes_of_selector (by simpa using hk) hmem),
      hitems.other x fun k hk hmem => hx (mem_savedBytes_of_item hk hmem)]
    rfl
  refine ⟨img, himg, fun k v hk => ?_, fun k r hk => ?_, fun hc => ?_, fun a ha hne => ?_, ?_⟩
  · have hlt : k < 10 := (List.getElem?_eq_some_iff.1 hk).1
    rw [← hitems.item k v hk]
    refine State.numberAt_congr fun x hx => ?_
    rw [hkept x (mem_savedBytes_of_item hlt hx)]
    exact hsels.other x fun j hj => not_mem_selector_of_item hlt (by simpa using hj) hx
  · have hlt := (List.getElem?_eq_some_iff.1 hk).1
    have hitem := (hsels.item k (s.seg r).sel.toNat (by rw [List.getElem?_map, hk]; rfl)).trans
      (Nat.mod_eq_of_lt (s.seg r).sel.isLt)
    rw [← hitem]
    exact State.numberAt_congr fun x hx => hkept x (mem_savedBytes_of_selector hlt hx)
  · rw [hget hc, hbefore _ (hbusy hc)]
  · rw [hw.other a fun hc hmem => hne hc (by rwa [byteAddresses_one, List.mem_singleton] at hmem), hbefore a ha]
  · rw [hw.rest, hsels.rest, hitems.rest]; rfl

end Sys2Proof.Machine

/-! The fields of the incoming task (61_task_switching.md R681, R683, R684 phase D), in ordinary memory. -/

namespace Sys2Proof.Machine

/-! ### Reading a field -/

/-- The memory that the incoming task's fields are read from: ordinary memory holding `mem`, with a CR3 that `p` holds of. -/
structure Readable (mem : Memory) (p : Word32 → Prop) (u : State) : Prop where
  flat : u.flat = true
  mem : u.mem = mem
  cr3 : p u.cr3

/-- Where memory is readable `m` gives a value of which `q` holds, and draws free values at most. -/
def Yields {α : Type} (mem : Memory) (p : Word32 → Prop) (m : M α) (q : α → Prop) : Prop :=
  ∀ (u t : State) (v : α), Readable mem p u → m u = .ok v t → q v ∧ t = { u with draws := t.draws }

section Fields

variable {s : State} {p : Word32 → Prop}

theorem Readable.numberAt {u : State} (h : Readable s.mem p u) (a : Word32) (n : Nat) : u.numberAt a n = s.numberAt a n := by
  rw [State.numberAt, h.mem]; rfl

theorem yields_sysRead32 (a : Word32) : Yields s.mem p (sysRead32 a) fun v => v = BitVec.ofNat 32 (s.numberAt a 4) := by
  intro u t v hu h
  rw [sysRead32, bind_of_ok (sysRead_of_flat hu.flat (by decide) a), hu.numberAt] at h
  cases h
  exact ⟨rfl, rfl⟩

theorem yields_sysRead16 (a : Word32) : Yields s.mem p (sysRead16 a) fun v => v = BitVec.ofNat 16 (s.numberAt a 2) := by
  intro u t v hu h
  rw [sysRead16, bind_of_ok (sysRead_of_flat hu.flat (by decide) a), hu.numberAt] at h
  cases h
  exact ⟨rfl, rfl⟩

/-- A word as a double word. -/
theorem setWidth_word_numberAt (a : Word32) :
    (BitVec.ofNat 16 (s.numberAt a 2)).setWidth 32 = BitVec.ofNat 32 (s.numberAt a 2) := by
  have hlt : s.numberAt a 2 < 256 ^ 2 := by
    have h := ofBytes_lt ((byteAddresses a 2).map (Memory.get s.mem))
    rwa [List.length_map, length_byteAddresses] at h
  apply BitVec.eq_of_toNat_eq
  rw [BitVec.toNat_setWidth, BitVec.toNat_ofNat, BitVec.toNat_ofNat]
  omega

theorem yields_sysRead16Wide (a : Word32) :
    Yields s.mem p (sysRead16Wide a) fun v => v = BitVec.ofNat 32 (s.numberAt a 2) := by
  intro u t v hu h
  obtain ⟨w, t', hread, ⟨⟩⟩ := bind_eq_ok.1 h
  obtain ⟨rfl, hrest⟩ := yields_sysRead16 a u t w hu hread
  exact ⟨setWidth_word_numberAt a, hrest⟩

theorem setWidth_insertLow (old : Word32) (v : Word16) : (insertLow old v).setWidth 16 = v := by
  ext i hi
  simp [insertLow]

/-- The upper half is a free value. -/
theorem yields_readHalf (a : Word32) :
    Yields s.mem p (readHalf a) fun v => v.setWidth 16 = BitVec.ofNat 16 (s.numberAt a 2) := by
  intro u t v hu h
  obtain ⟨w, t', hread, h⟩ := bind_eq_ok.1 h
  obtain ⟨rfl, hrest⟩ := yields_sysRead16 a u t' w hu hread
  cases h
  exact ⟨setWidth_insertLow _ _, by rw [hrest]⟩

/-- A page directory's address: the low 12 bits of CR3 are 0. -/
def Aligned (c : Word32) : Prop := c &&& 0xFFFFF000 = c

/-- With paging off the two address spaces are one. -/
theorem Yields.inOldSpace {α : Type} {m : M α} {q : α → Prop} (h : Yields s.mem (fun _ => True) m q) (old : Word32) :
    Yields s.mem Aligned (inOldSpace old m) q := by
  intro u t v hu hok
  unfold Machine.inOldSpace at hok
  split at hok
  · next a t' hread =>
    obtain ⟨hq, hrest⟩ := h { u with cr3 := old &&& 0xFFFFF000 } t' a ⟨hu.flat, hu.mem, trivial⟩ hread
    cases hok
    refine ⟨hq, ?_⟩
    rw [hrest, show u.cr3 &&& 0xFFFFF000 = u.cr3 from hu.cr3]
  · cases hok

/-! ### Loading the registers -/

theorem Readable.of_fields {mem : Memory} {u t : State} (h : Readable mem p u) (hcr0 : t.cr0 = u.cr0) (hmap : t.memMap = u.memMap)
    (hmem : t.mem = u.mem) (hcr3 : t.cr3 = u.cr3) : Readable mem p t := by
  obtain ⟨hflat, hm, hp⟩ := h
  refine ⟨?_, hmem.trans hm, by rw [hcr3]; exact hp⟩
  rw [State.flat_iff] at hflat ⊢
  rw [hcr0, hmap]
  exact hflat

/-- What loading general registers from the fields of a TSS does. -/
structure LoadedRegs (q : Nat → Word32 → Prop) (stride at_ : Nat) (rs : List Reg) (u t : State) : Prop where
  rest : t = { u with gpr := t.gpr, draws := t.draws }
  reg : ∀ (k : Nat) (r : Reg), rs[k]? = some r → q (at_ + stride * k) (t.reg r)
  other : ∀ r, r ∉ rs → t.reg r = u.reg r

theorem loadedRegs_of_loadTaskRegs {mem : Memory} {field : Nat → M Word32} {q : Nat → Word32 → Prop}
    (hfield : ∀ k, Yields mem p (field k) (q k)) {stride : Nat} {rs : List Reg} (hrs : rs.Nodup) {at_ : Nat} {u t : State}
    (hu : Readable mem p u) (h : loadTaskRegs field stride at_ rs u = .ok () t) : LoadedRegs q stride at_ rs u t := by
  induction rs generalizing at_ u with
  | nil => cases h; exact ⟨rfl, nofun, fun _ _ => rfl⟩
  | cons r rs ih =>
    obtain ⟨hr, hrs⟩ := List.nodup_cons.1 hrs
    obtain ⟨v, u1, hread, h⟩ := bind_eq_ok.1 h
    obtain ⟨hq, hrest⟩ := hfield at_ u u1 v hu hread
    obtain ⟨_, u2, ⟨⟩, h⟩ := bind_eq_ok.1 h
    have hu1 : Readable mem p (u1.setReg r v) := hu.of_fields (by rw [hrest]; rfl) (by rw [hrest]; rfl) (by rw [hrest]; rfl)
      (by rw [hrest]; rfl)
    have htail := ih hrs hu1 h
    refine ⟨htail.rest.trans (by rw [hrest]; rfl), fun k w hk => ?_, fun w hw => ?_⟩
    · cases k with
      | zero =>
        cases hk
        rw [htail.other r hr, State.reg_setReg, if_pos rfl]
        exact hq
      | succ k =>
        rw [Nat.mul_succ, Nat.add_comm (stride * k), ← Nat.add_assoc]
        exact htail.reg k w hk
    · obtain ⟨hne, hw⟩ := not_or.1 (mt List.mem_cons.2 hw)
      rw [htail.other w hw, State.reg_setReg, if_neg hne, hrest]
      rfl

/-- What loading selectors from the fields of a TSS does. -/
structure LoadedSelectors (q : Nat → Word16 → Prop) (stride at_ : Nat) (rs : List SegReg) (u t : State) : Prop where
  rest : t = { u with segs := t.segs, draws := t.draws }
  seg : ∀ (k : Nat) (r : SegReg), rs[k]? = some r → ∃ v, q (at_ + stride * k) v ∧ t.seg r = SegCache.unchecked v
  other : ∀ r, r ∉ rs → t.seg r = u.seg r

theorem loadedSelectors_of_loadTaskSelectors {mem : Memory} {field : Nat → M Word16} {q : Nat → Word16 → Prop}
    (hfield : ∀ k, Yields mem p (field k) (q k)) {stride : Nat} {rs : List SegReg} (hrs : rs.Nodup) {at_ : Nat} {u t : State}
    (hu : Readable mem p u) (h : loadTaskSelectors field stride at_ rs u = .ok () t) : LoadedSelectors q stride at_ rs u t := by
  induction rs generalizing at_ u with
  | nil => cases h; exact ⟨rfl, nofun, fun _ _ => rfl⟩
  | cons r rs ih =>
    obtain ⟨hr, hrs⟩ := List.nodup_cons.1 hrs
    obtain ⟨v, u1, hread, h⟩ := bind_eq_ok.1 h
    obtain ⟨hq, hrest⟩ := hfield at_ u u1 v hu hread
    obtain ⟨_, u2, ⟨⟩, h⟩ := bind_eq_ok.1 h
    have hu1 : Readable mem p (u1.setSeg r (.unchecked v)) := hu.of_fields (by rw [hrest]; rfl) (by rw [hrest]; rfl)
      (by rw [hrest]; rfl) (by rw [hrest]; rfl)
    have htail := ih hrs hu1 h
    refine ⟨htail.rest.trans (by rw [hrest]; rfl), fun k w hk => ?_, fun w hw => ?_⟩
    · cases k with
      | zero =>
        cases hk
        refine ⟨v, hq, ?_⟩
        rw [htail.other r hr, State.seg_setSeg, if_pos rfl]
      | succ k =>
        rw [Nat.mul_succ, Nat.add_comm (stride * k), ← Nat.add_assoc]
        exact htail.seg k w hk
    · obtain ⟨hne, hw⟩ := not_or.1 (mt List.mem_cons.2 hw)
      rw [htail.other w hw, State.seg_setSeg, if_neg hne, hrest]
      rfl

/-- `t` is `u` but for what the fields of a TSS give besides LDTR, the flags and `pc`. -/
def KeepsControl (u t : State) : Prop :=
  t = { u with gpr := t.gpr, segs := t.segs, cr3 := t.cr3, tlb := t.tlb, draws := t.draws }

theorem KeepsControl.trans {u t w : State} (h : KeepsControl u t) (k : KeepsControl t w) : KeepsControl u w :=
  Eq.trans k (by rw [h])

theorem LoadedRegs.keeps {q : Nat → Word32 → Prop} {stride at_ : Nat} {rs : List Reg} {u t : State}
    (h : LoadedRegs q stride at_ rs u t) : KeepsControl u t := by rw [h.rest]; rfl

theorem LoadedSelectors.keeps {q : Nat → Word16 → Prop} {stride at_ : Nat} {rs : List SegReg} {u t : State}
    (h : LoadedSelectors q stride at_ rs u t) : KeepsControl u t := by rw [h.rest]; rfl

/-- What loading LDTR's selector, the flags and `pc` from the fields of a TSS does. -/
structure LoadedControl (l f v : Word32) (u t : State) : Prop where
  rest : t = { u with ldtr := { sel := l.setWidth 16, base := 0, limit := 0, valid := false, is386 := false }
                      flags := Flags.ofImage f, pc := v, draws := t.draws
                      cur := { u.cur with jumped := true, keepRf := true } }

theorem loadedControl_of_loadTaskControl {mem : Memory} {ldt flags pc : M Word32} {ql qf qp : Word32 → Prop}
    (hl : Yields mem p ldt ql) (hf : Yields mem p flags qf) (hp : Yields mem p pc qp) {u t : State} (hu : Readable mem p u)
    (h : loadTaskControl ldt flags pc u = .ok () t) :
    ∃ l f v : Word32, ql l ∧ qf f ∧ qp v ∧ LoadedControl l f v u t := by
  obtain ⟨l, u1, hread, h⟩ := bind_eq_ok.1 h
  obtain ⟨hql, h1⟩ := hl u u1 l hu hread
  obtain ⟨_, u2, ⟨⟩, h⟩ := bind_eq_ok.1 h
  obtain ⟨f, u3, hread, h⟩ := bind_eq_ok.1 h
  obtain ⟨hqf, h3⟩ := hf _ u3 f (hu.of_fields (by rw [h1]) (by rw [h1]) (by rw [h1]) (by rw [h1])) hread
  obtain ⟨_, u4, ⟨⟩, h⟩ := bind_eq_ok.1 h
  obtain ⟨v, u5, hread, h⟩ := bind_eq_ok.1 h
  obtain ⟨hqp, h5⟩ := hp _ u5 v (hu.of_fields (by rw [h3, h1]) (by rw [h3, h1]) (by rw [h3, h1]) (by rw [h3, h1])) hread
  cases h
  exact ⟨l, f, v, hql, hqf, hqp, ⟨by rw [h5, h3, h1]⟩⟩

end Fields

/-! ### The whole task -/

/-- Where LDTR's selector stands in a TSS. -/
def tssLdt (is386 : Bool) : Nat := if is386 then 0x60 else 0x2A

/-- A general register loaded from a place of a TSS; of an 80286 TSS only its low half is given. -/
def RegAt (is386 : Bool) (s : State) (base : Word32) (k : Nat) (v : Word32) : Prop :=
  if is386 then v = BitVec.ofNat 32 (s.numberAt (base + BitVec.ofNat 32 k) 4)
  else v.setWidth 16 = BitVec.ofNat 16 (s.numberAt (base + BitVec.ofNat 32 k) 2)

theorem KeepsControl.of_loadedControl {l f v : Word32} {s u t : State} (h : LoadedControl l f v s u) (k : KeepsControl u t) :
    t = { s with gpr := t.gpr, segs := t.segs, cr3 := t.cr3, tlb := t.tlb, draws := t.draws
                 ldtr := { sel := l.setWidth 16, base := 0, limit := 0, valid := false, is386 := false }
                 flags := Flags.ofImage f, pc := v, cur := { s.cur with jumped := true, keepRf := true } } :=
  Eq.trans k (by rw [h.rest])

/-- What the fields of a TSS at `base` make of the state (61_task_switching.md R681, R683). -/
structure LoadedTask (is386 : Bool) (base : Word32) (s t : State) : Prop where
  rest : t = { s with
    gpr := t.gpr, segs := t.segs, cr3 := t.cr3, tlb := t.tlb, draws := t.draws
    ldtr := { sel := BitVec.ofNat 16 (s.numberAt (base + BitVec.ofNat 32 (tssLdt is386)) 2), base := 0, limit := 0,
              valid := false, is386 := false }
    flags := Flags.ofImage (BitVec.ofNat 32
      (s.numberAt (base + BitVec.ofNat 32 (tssFirst is386 + tssSize is386)) (tssSize is386)))
    pc := BitVec.ofNat 32 (s.numberAt (base + BitVec.ofNat 32 (tssFirst is386)) (tssSize is386))
    cur := { s.cur with jumped := true, keepRf := true } }
  reg : ∀ (k : Nat) (r : Reg), tssRegs[k]? = some r →
    RegAt is386 s base (tssFirst is386 + 2 * tssSize is386 + tssSize is386 * k) (t.reg r)
  seg : ∀ (k : Nat) (r : SegReg), (tssSegs is386)[k]? = some r → t.seg r = SegCache.unchecked
    (BitVec.ofNat 16 (s.numberAt (base + BitVec.ofNat 32 (tssSelectors is386 + tssSize is386 * k)) 2))

theorem nodup_tssRegs : tssRegs.Nodup := by decide

theorem nodup_tssSegs (is386 : Bool) : (tssSegs is386).Nodup := by cases is386 <;> decide

/-- A word kept as a double word gives back the word. -/
theorem setWidth_ofNat_word (n : Nat) : (BitVec.ofNat 32 n).setWidth 16 = BitVec.ofNat 16 n := by
  apply BitVec.eq_of_toNat_eq
  rw [BitVec.toNat_setWidth, BitVec.toNat_ofNat, BitVec.toNat_ofNat]
  omega

section Task

variable {base : Word32} {s t : State} {b : Bool} (hs : s.flat = true)
include hs

/-- The fields of an 80386 TSS, CR3 among them; the answer is the T bit. -/
theorem loadTask386_eq_ok (h : loadTask386 base s = .ok b t) :
    LoadedTask true base s t ∧ t.cr3 = BitVec.ofNat 32 (s.numberAt (base + 0x1C) 4) &&& 0xFFFFF000 ∧ t.tlb = []
      ∧ b = (s.numberAt (base + 0x64) 2).testBit 0 := by
  obtain ⟨old, _, ⟨⟩, h⟩ := bind_eq_ok.1 h
  have hs0 : Readable s.mem (fun _ => True) s := ⟨hs, rfl, trivial⟩
  obtain ⟨v, s1, hread, h⟩ := bind_eq_ok.1 h
  obtain ⟨rfl, h1⟩ := yields_sysRead32 _ s s1 v hs0 hread
  obtain ⟨_, s2, ⟨⟩, h⟩ := bind_eq_ok.1 h
  have hs1 : Readable s.mem Aligned { s1 with cr3 := BitVec.ofNat 32 (s.numberAt (base + 0x1C) 4) &&& 0xFFFFF000 } :=
    ⟨by rw [h1]; exact hs, by rw [h1], by rw [Aligned, BitVec.and_assoc]; rfl⟩
  have hword (k : Nat) := (yields_sysRead16 (s := s) (p := fun _ => True) (base + BitVec.ofNat 32 k)).inOldSpace s.cr3
  have hdouble (k : Nat) := (yields_sysRead32 (s := s) (p := fun _ => True) (base + BitVec.ofNat 32 k)).inOldSpace s.cr3
  have hldt := (yields_sysRead16Wide (s := s) (p := fun _ => True) (base + 0x60)).inOldSpace s.cr3
  obtain ⟨_, s3, hcontrol, h⟩ := bind_eq_ok.1 h
  obtain ⟨l, f, v, rfl, rfl, rfl, hcontrol⟩ :=
    loadedControl_of_loadTaskControl hldt (hdouble 0x24) (hdouble 0x20) hs1 hcontrol
  have hs3 : Readable s.mem Aligned s3 := hs1.of_fields (by rw [hcontrol.rest]) (by rw [hcontrol.rest])
    (by rw [hcontrol.rest]) (by rw [hcontrol.rest])
  obtain ⟨_, s4, hregs, h⟩ := bind_eq_ok.1 h
  have hregs := loadedRegs_of_loadTaskRegs hdouble nodup_tssRegs hs3 hregs
  have hs4 : Readable s.mem Aligned s4 := hs3.of_fields (by rw [hregs.rest]) (by rw [hregs.rest]) (by rw [hregs.rest])
    (by rw [hregs.rest])
  obtain ⟨_, s5, hsels, h⟩ := bind_eq_ok.1 h
  have hsels := loadedSelectors_of_loadTaskSelectors hword (nodup_tssSegs true) hs4 hsels
  have hs5 : Readable s.mem Aligned s5 := hs4.of_fields (by rw [hsels.rest]) (by rw [hsels.rest]) (by rw [hsels.rest])
    (by rw [hsels.rest])
  obtain ⟨w, s6, hread, h⟩ := bind_eq_ok.1 h
  obtain ⟨rfl, h6⟩ := hword 0x64 s5 s6 w hs5 hread
  cases h
  refine ⟨⟨?_, fun k r hk => ?_, fun k r hk => ?_⟩, ?_, rfl, ?_⟩
  · have hkeeps : KeepsControl s3 s6.flushTlb :=
      hregs.keeps.trans (hsels.keeps.trans (by rw [h6]; rfl))
    have hrest := hkeeps.of_loadedControl hcontrol
    rw [setWidth_ofNat_word] at hrest
    exact hrest.trans (by rw [h1]; rfl)
  · have hreg := hregs.reg k r hk
    have hkeep : s6.flushTlb.reg r = s4.reg r := by rw [h6, hsels.rest]; rfl
    rw [hkeep]
    exact hreg
  · obtain ⟨v, rfl, hseg⟩ := hsels.seg k r hk
    have hkeep : s6.flushTlb.seg r = s5.seg r := by rw [h6]; rfl
    rw [hkeep]
    exact hseg
  · have hcr3 : s3.cr3 = BitVec.ofNat 32 (s.numberAt (base + 0x1C) 4) &&& 0xFFFFF000 := by rw [hcontrol.rest]
    have h43 : s4.cr3 = s3.cr3 := by rw [hregs.rest]
    have h54 : s5.cr3 = s4.cr3 := by rw [hsels.rest]
    have h65 : s6.cr3 = s5.cr3 := by rw [h6]
    exact h65.trans (h54.trans (h43.trans hcr3))
  · rw [bitAt, BitVec.getLsbD_ofNat]; rfl

/-- The fields of an 80286 TSS: CR3 is kept, and FS and GS become null. -/
theorem loadTask286_eq_ok (h : loadTask286 base s = .ok b t) :
    LoadedTask false base s t ∧ t.cr3 = s.cr3 ∧ t.segs.fs = SegCache.unchecked 0 ∧ t.segs.gs = SegCache.unchecked 0
      ∧ b = false := by
  have hs0 : Readable s.mem (fun _ => True) s := ⟨hs, rfl, trivial⟩
  have hwide (a : Word32) := yields_sysRead16Wide (s := s) (p := fun _ => True) a
  obtain ⟨_, s3, hcontrol, h⟩ := bind_eq_ok.1 h
  obtain ⟨l, f, v, rfl, rfl, rfl, hcontrol⟩ :=
    loadedControl_of_loadTaskControl (hwide (base + 0x2A)) (hwide (base + 0x10)) (hwide (base + 0x0E)) hs0 hcontrol
  have hs3 : Readable s.mem (fun _ => True) s3 := hs0.of_fields (by rw [hcontrol.rest]) (by rw [hcontrol.rest])
    (by rw [hcontrol.rest]) (by rw [hcontrol.rest])
  obtain ⟨_, s4, hregs, h⟩ := bind_eq_ok.1 h
  have hregs := loadedRegs_of_loadTaskRegs (fun k => yields_readHalf (s := s) (base + BitVec.ofNat 32 k)) nodup_tssRegs hs3
    hregs
  have hs4 : Readable s.mem (fun _ => True) s4 := hs3.of_fields (by rw [hregs.rest]) (by rw [hregs.rest])
    (by rw [hregs.rest]) (by rw [hregs.rest])
  obtain ⟨_, s5, hsels, h⟩ := bind_eq_ok.1 h
  have hsels := loadedSelectors_of_loadTaskSelectors (fun k => yields_sysRead16 (s := s) (base + BitVec.ofNat 32 k))
    (nodup_tssSegs false) hs4 hsels
  cases h
  refine ⟨⟨?_, fun k r hk => ?_, fun k r hk => ?_⟩, ?_, rfl, rfl, rfl⟩
  · have hkeeps : KeepsControl s3 ((s5.setSeg .fs (.unchecked 0)).setSeg .gs (.unchecked 0)) :=
      hregs.keeps.trans (hsels.keeps.trans rfl)
    have hrest := hkeeps.of_loadedControl hcontrol
    rw [setWidth_ofNat_word] at hrest
    exact hrest
  · have hreg := hregs.reg k r hk
    have hkeep : ((s5.setSeg .fs (.unchecked 0)).setSeg .gs (.unchecked 0)).reg r = s4.reg r := by rw [hsels.rest]; rfl
    rw [hkeep]
    exact hreg
  · obtain ⟨v, rfl, hseg⟩ := hsels.seg k r hk
    have hne : r ≠ .fs ∧ r ≠ .gs := by
      have hmem : r ∈ tssSegs false := List.mem_of_getElem? hk
      revert hmem
      cases r <;> decide
    rw [State.seg_setSeg, if_neg hne.2, State.seg_setSeg, if_neg hne.1]
    exact hseg
  · have hcr3 : s3.cr3 = s.cr3 := by rw [hcontrol.rest]
    have h43 : s4.cr3 = s3.cr3 := by rw [hregs.rest]
    have h54 : s5.cr3 = s4.cr3 := by rw [hsels.rest]
    exact h54.trans (h43.trans hcr3)

end Task

end Sys2Proof.Machine

/-! The end of a task switch (61_task_switching.md R684 phases D to F): the mode of the incoming task, and the validation of its
segment registers. -/

namespace Sys2Proof.Machine

/-! ### The incoming task in ordinary memory -/

theorem loadNewTask_eq_ok {d : Desc} {nested b : Bool} {s t : State} (h : loadNewTask d nested s = .ok b t) :
    ∃ u, loadTaskFields d s = .ok b u ∧ t = u.withTaskMode nested := by
  obtain ⟨v, u, hload, h⟩ := bind_eq_ok.1 h
  obtain ⟨_, w, ⟨⟩, ⟨⟩⟩ := bind_eq_ok.1 h
  exact ⟨u, hload, rfl⟩

section NewTask

variable {is386 : Bool} {base : Word32} {s u : State} (h : LoadedTask is386 base s u)
include h

theorem LoadedTask.mem : u.mem = s.mem := by rw [h.rest]

theorem LoadedTask.dr7 : u.dr7 = s.dr7 := by rw [h.rest]

theorem LoadedTask.ldtr : u.ldtr = { sel := BitVec.ofNat 16 (s.numberAt (base + BitVec.ofNat 32 (tssLdt is386)) 2), base := 0
                                     limit := 0, valid := false, is386 := false } := by rw [h.rest]

theorem LoadedTask.pc :
    u.pc = BitVec.ofNat 32 (s.numberAt (base + BitVec.ofNat 32 (tssFirst is386)) (tssSize is386)) := by rw [h.rest]

theorem LoadedTask.flags : u.flags = Flags.ofImage (BitVec.ofNat 32
    (s.numberAt (base + BitVec.ofNat 32 (tssFirst is386 + tssSize is386)) (tssSize is386))) := by rw [h.rest]

/-- A segment register of the TSS is not valid before it is validated. -/
theorem LoadedTask.not_valid {r : SegReg} (hr : r ∈ tssSegs is386) : (u.seg r).valid = false := by
  obtain ⟨k, hk, hget⟩ := List.mem_iff_getElem.1 hr
  rw [h.seg k r (List.getElem?_eq_some_iff.2 ⟨hk, hget⟩)]
  rfl

theorem LoadedTask.sel {k : Nat} {r : SegReg} (hk : (tssSegs is386)[k]? = some r) :
    (u.seg r).sel
      = BitVec.ofNat 16 (s.numberAt (base + BitVec.ofNat 32 (tssSelectors is386 + tssSize is386 * k)) 2) := by
  rw [h.seg k r hk]; rfl

end NewTask

/-- The fields of a TSS of either format. -/
theorem loadTaskFields_eq_ok {d : Desc} {s u : State} {b : Bool} (hs : s.flat = true) (h : loadTaskFields d s = .ok b u) :
    LoadedTask (d.type == 9 || d.type == 0xB) d.base s u ∧ (∀ r : SegReg, (u.seg r).valid = false)
      ∧ ((d.type == 9 || d.type == 0xB) = true →
          u.cr3 = BitVec.ofNat 32 (s.numberAt (d.base + 0x1C) 4) &&& 0xFFFFF000 ∧ u.tlb = []
            ∧ b = (s.numberAt (d.base + 0x64) 2).testBit 0)
      ∧ ((d.type == 9 || d.type == 0xB) = false →
          u.cr3 = s.cr3 ∧ u.segs.fs.sel = 0 ∧ u.segs.gs.sel = 0 ∧ b = false) := by
  rw [loadTaskFields] at h
  cases h386 : (d.type == 9 || d.type == 0xB) with
  | true =>
    rw [h386, if_pos rfl] at h
    obtain ⟨hloaded, hrest⟩ := loadTask386_eq_ok hs h
    exact ⟨hloaded, fun r => hloaded.not_valid (by cases r <;> decide), fun _ => hrest, nofun⟩
  | false =>
    rw [h386, if_neg (by decide)] at h
    obtain ⟨hloaded, hcr3, hfs, hgs, hb⟩ := loadTask286_eq_ok hs h
    refine ⟨hloaded, fun r => ?_, nofun, fun _ => ⟨hcr3, by rw [hfs]; rfl, by rw [hgs]; rfl, hb⟩⟩
    cases r
    case fs => exact congrArg SegCache.valid hfs
    case gs => exact congrArg SegCache.valid hgs
    all_goals exact hloaded.not_valid (by decide)

/-! ### The segment registers -/

/-- `t` is `u` but for segment registers, LDTR and what an access to memory can change. -/
def KeepsTask (u t : State) : Prop :=
  t = { u with segs := t.segs, ldtr := t.ldtr, mem := t.mem, tlb := t.tlb, stale := t.stale, ioTrace := t.ioTrace, dr6 := t.dr6,
               draws := t.draws, dbgPending := t.dbgPending, cur := { u.cur with walk := t.cur.walk } }

theorem KeepsTask.trans {u t w : State} (h : KeepsTask u t) (k : KeepsTask t w) : KeepsTask u w := Eq.trans k (by rw [h])

theorem Accessed.keepsTask {u t : State} (h : Accessed u t) : KeepsTask u t := by rw [h]; rfl

/-- `t` is `u` with the segment register `r` validated: its selector is kept, and it is valid where it is not null. -/
structure Validated (r : SegReg) (u t : State) : Prop where
  keeps : KeepsTask u t
  other : ∀ q, q ≠ r → t.seg q = u.seg q
  ldtr : t.ldtr = u.ldtr
  sel : (t.seg r).sel = (u.seg r).sel
  valid : isNull (u.seg r).sel = false → (t.seg r).valid = true

/-- The cache of a descriptor read for the selector that is there. -/
theorem validated_of_cache {r : SegReg} {u v : State} {sel : Word16} (h : Accessed u v) (hsel : (u.seg r).sel = sel) (d : Desc) :
    Validated r u (v.setSeg r (d.cache sel)) := by
  refine ⟨KeepsTask.trans h.keepsTask rfl, fun q hq => ?_, ?_, ?_, fun _ => ?_⟩
  · rw [State.seg_setSeg, if_neg hq, State.seg, h.segs]; rfl
  · rw [State.setSeg, h]
  · rw [State.seg_setSeg, if_pos rfl, hsel]; rfl
  · rw [State.seg_setSeg, if_pos rfl]; rfl

section Validate

variable {u t : State} {sel : Word16}

theorem validated_of_loadTaskCode (hsel : (u.seg .cs).sel = sel) (h : loadTaskCode sel u = .ok () t) :
    Validated .cs u t ∧ t.segs.cs.executable = true := by
  obtain ⟨-, h⟩ := raiseIf_bind_eq_ok.1 h
  obtain ⟨d, u1, hd, h⟩ := bind_eq_ok.1 h
  obtain ⟨cpl, _, ⟨⟩, h⟩ := bind_eq_ok.1 h
  obtain ⟨hcode, h⟩ := raiseIf_bind_eq_ok.1 h
  obtain ⟨-, h⟩ := raiseIf_bind_eq_ok.1 h
  obtain ⟨_, u2, hmark, ⟨⟩⟩ := bind_eq_ok.1 h
  have hexec : d.isCode = true := by
    rw [Bool.not_eq_false', Bool.and_eq_true] at hcode
    exact hcode.1
  exact ⟨validated_of_cache (accessRel_accessed.trans (readDesc_accessed hd) (markAccessed_accessed hmark)) hsel d, hexec⟩

theorem validated_of_loadTaskStack (hsel : (u.seg .ss).sel = sel) (h : loadTaskStack sel u = .ok () t) :
    Validated .ss u t ∧ t.segs.ss.writable = true := by
  obtain ⟨-, h⟩ := raiseIf_bind_eq_ok.1 h
  obtain ⟨cpl, _, ⟨⟩, h⟩ := bind_eq_ok.1 h
  obtain ⟨d, u1, hcheck, h⟩ := bind_eq_ok.1 h
  obtain ⟨d', u2, hd, hcheck⟩ := bind_eq_ok.1 hcheck
  obtain ⟨hfits, hcheck⟩ := raiseIf_bind_eq_ok.1 hcheck
  obtain ⟨-, ⟨⟩⟩ := raiseIf_bind_eq_ok.1 hcheck
  obtain ⟨_, u3, hmark, ⟨⟩⟩ := bind_eq_ok.1 h
  have hwritable : d.isWritable = true := by
    rw [Bool.not_eq_false', Bool.and_eq_true, Bool.and_eq_true] at hfits
    exact hfits.1.1
  exact ⟨validated_of_cache (accessRel_accessed.trans (readDesc_accessed hd) (markAccessed_accessed hmark)) hsel d, hwritable⟩

theorem validated_of_loadTaskData {r : SegReg} (hsel : (u.seg r).sel = sel) (h : loadTaskData r sel u = .ok () t) :
    Validated r u t := by
  rw [loadTaskData] at h
  split at h
  · next hn =>
    cases h
    exact ⟨rfl, fun _ _ => rfl, rfl, rfl, fun hv => by rw [hsel, hn] at hv; cases hv⟩
  · obtain ⟨d, u1, hd, h⟩ := bind_eq_ok.1 h
    obtain ⟨cpl, _, ⟨⟩, h⟩ := bind_eq_ok.1 h
    obtain ⟨-, h⟩ := raiseIf_bind_eq_ok.1 h
    obtain ⟨-, h⟩ := raiseIf_bind_eq_ok.1 h
    obtain ⟨-, h⟩ := raiseIf_bind_eq_ok.1 h
    obtain ⟨_, u2, hmark, ⟨⟩⟩ := bind_eq_ok.1 h
    exact validated_of_cache (accessRel_accessed.trans (readDesc_accessed hd) (markAccessed_accessed hmark)) hsel d

end Validate

/-- `t` is `u` after the segment registers `rs` were validated. -/
structure ValidatedAll (rs : List SegReg) (u t : State) : Prop where
  keeps : KeepsTask u t
  ldtr : t.ldtr = u.ldtr
  sel : ∀ q, (t.seg q).sel = (u.seg q).sel
  valid : ∀ q ∈ rs, isNull (u.seg q).sel = false → (t.seg q).valid = true

theorem validatedAll_nil (u : State) : ValidatedAll [] u u := ⟨rfl, rfl, fun _ => rfl, nofun⟩

theorem ValidatedAll.cons {rs : List SegReg} {r : SegReg} {u v t : State} (h : ValidatedAll rs u v) (hr : Validated r v t) :
    ValidatedAll (r :: rs) u t := by
  refine ⟨h.keeps.trans hr.keeps, hr.ldtr.trans h.ldtr, fun q => ?_, fun q hq hn => ?_⟩
  · by_cases hqr : q = r
    · rw [hqr, hr.sel, h.sel]
    · rw [hr.other q hqr, h.sel]
  · by_cases hqr : q = r
    · rw [hqr] at hn ⊢
      exact hr.valid (by rw [h.sel]; exact hn)
    · rw [hr.other q hqr]
      exact h.valid q ((List.mem_cons.1 hq).resolve_left hqr) hn

/-- The segment registers of a protected-mode task. -/
theorem loadTaskSegments_eq_ok {s t : State} (h : loadTaskSegments s = .ok () t) :
    ValidatedAll [.gs, .fs, .es, .ds, .ss, .cs] s t ∧ t.segs.cs.executable = true ∧ t.segs.ss.writable = true := by
  obtain ⟨_, _, ⟨⟩, h⟩ := bind_eq_ok.1 h
  obtain ⟨_, s1, hcs, h⟩ := bind_eq_ok.1 h
  obtain ⟨_, s2, hss, h⟩ := bind_eq_ok.1 h
  obtain ⟨_, s3, hds, h⟩ := bind_eq_ok.1 h
  obtain ⟨_, s4, hes, h⟩ := bind_eq_ok.1 h
  obtain ⟨_, s5, hfs, hgs⟩ := bind_eq_ok.1 h
  obtain ⟨v1, hexec⟩ := validated_of_loadTaskCode rfl hcs
  have a1 := (validatedAll_nil s).cons v1
  obtain ⟨v2, hwritable⟩ := validated_of_loadTaskStack (a1.sel .ss) hss
  have a2 := a1.cons v2
  have v3 := validated_of_loadTaskData (a2.sel .ds) hds
  have a3 := a2.cons v3
  have v4 := validated_of_loadTaskData (a3.sel .es) hes
  have a4 := a3.cons v4
  have v5 := validated_of_loadTaskData (a4.sel .fs) hfs
  have a5 := a4.cons v5
  have v6 := validated_of_loadTaskData (a5.sel .gs) hgs
  have hkept (q : SegReg) (hq : q ∉ [SegReg.ds, .es, .fs, .gs]) : t.seg q = s2.seg q := by
    simp only [List.mem_cons, List.not_mem_nil, or_false, not_or] at hq
    obtain ⟨hd, he, hf, hg⟩ := hq
    rw [v6.other q hg, v5.other q hf, v4.other q he, v3.other q hd]
  refine ⟨a5.cons v6, ?_, ?_⟩
  · have hcs : t.segs.cs = s1.segs.cs := (hkept .cs (by decide)).trans (v2.other .cs (by decide))
    rw [hcs]; exact hexec
  · have hss : t.segs.ss = s2.segs.ss := hkept .ss (by decide)
    rw [hss]; exact hwritable

/-- LDTR of the incoming task: null, or validated. -/
theorem loadTaskLdt_eq_ok {sel : Word16} {s t : State} (hsel : s.ldtr.sel = sel) (h : loadTaskLdt sel s = .ok () t) :
    KeepsTask s t ∧ t.segs = s.segs ∧ t.ldtr.sel = sel ∧ (isNull sel = false → t.ldtr.valid = true) := by
  rw [loadTaskLdt] at h
  split at h
  · next hn =>
    cases h
    exact ⟨rfl, rfl, hsel, fun hv => by rw [hn] at hv; cases hv⟩
  · obtain ⟨-, h⟩ := raiseIf_bind_eq_ok.1 h
    obtain ⟨d, u, hd, h⟩ := bind_eq_ok.1 h
    obtain ⟨-, ⟨⟩⟩ := raiseIf_bind_eq_ok.1 h
    have hacc := readDesc_accessed hd
    exact ⟨hacc.keepsTask.trans rfl, hacc.segs, rfl, fun _ => rfl⟩

/-- What the validation of the incoming task leaves as it is, and what it makes of the segment registers. -/
structure ValidTask (s t : State) : Prop where
  keeps : KeepsTask s t
  ldtrSel : t.ldtr.sel = s.ldtr.sel
  ldtrValid : isNull s.ldtr.sel = false → t.ldtr.valid = true
  sel : ∀ r : SegReg, (t.seg r).sel = (s.seg r).sel
  inV86 : s.flags.vm = true → ∀ r : SegReg, t.seg r = SegCache.real (s.seg r).sel 3
  inProtected : s.flags.vm = false → t.segs.cs.executable = true ∧ t.segs.ss.writable = true
    ∧ ∀ r : SegReg, isNull (s.seg r).sel = false → (t.seg r).valid = true

theorem Segs.get_asV86 (g : Segs) (r : SegReg) : g.asV86.get r = SegCache.real (g.get r).sel 3 := by cases r <;> rfl

theorem validTask_of_validateTask {s t : State} (h : validateTask s = .ok () t) : ValidTask s t := by
  obtain ⟨_, _, ⟨⟩, h⟩ := bind_eq_ok.1 h
  obtain ⟨_, s1, hldt, h⟩ := bind_eq_ok.1 h
  rw [ite_bind_apply] at h
  obtain ⟨_, s2, hsegs, h⟩ := bind_eq_ok.1 h
  obtain ⟨_, _, ⟨⟩, h⟩ := bind_eq_ok.1 h
  obtain ⟨-, rfl⟩ := raiseIf_eq_ok.1 h
  obtain ⟨hkeeps, hsame, hsel, hvalid⟩ := loadTaskLdt_eq_ok rfl hldt
  split at hsegs
  · next hvm =>
    cases hsegs
    have hseg (r : SegReg) : ({ s1 with segs := s1.segs.asV86 } : State).seg r = SegCache.real (s.seg r).sel 3 := by
      rw [State.seg, Segs.get_asV86, hsame]; rfl
    exact ⟨hkeeps.trans rfl, hsel, hvalid, fun r => by rw [hseg]; rfl, fun _ => hseg, fun hp => by rw [hvm] at hp; cases hp⟩
  · next hvm =>
    obtain ⟨hall, hexec, hwritable⟩ := loadTaskSegments_eq_ok hsegs
    have hseg (r : SegReg) : s1.seg r = s.seg r := congrArg (fun g : Segs => g.get r) hsame
    refine ⟨hkeeps.trans hall.keeps, by rw [hall.ldtr, hsel], by rw [hall.ldtr]; exact hvalid,
      fun r => by rw [hall.sel, hseg], fun hv => absurd hv hvm, fun _ => ⟨hexec, hwritable, fun r hr => ?_⟩⟩
    exact hall.valid r (by cases r <;> decide) (by rw [hseg]; exact hr)

/-! ### The whole switch -/

/-- `t` has CR0 and TR of `s`. -/
def KeepsTr (s t : State) : Prop := t.cr0 = s.cr0 ∧ t.tr = s.tr

theorem accessRel_keepsTr : AccessRel KeepsTr where
  refl _ := ⟨rfl, rfl⟩
  trans h k := ⟨k.1.trans h.1, k.2.trans h.2⟩
  draws _ := ⟨rfl, rfl⟩
  device _ _ := ⟨rfl, rfl⟩
  store _ _ _ := ⟨rfl, rfl⟩
  walk _ _ := ⟨rfl, rfl⟩
  tlb _ _ := ⟨rfl, rfl⟩
  data _ _ _ _ := ⟨rfl, rfl⟩

theorem steps_keepsTr : Steps KeepsTr := accessRel_keepsTr.toSteps

theorem keepsTr_sysRead32 (a : Word32) : Within KeepsTr (sysRead32 a) :=
  within_bind steps_keepsTr (within_sysRead accessRel_keepsTr a 4) fun _ => within_pure steps_keepsTr _

theorem keepsTr_sysRead16 (a : Word32) : Within KeepsTr (sysRead16 a) :=
  within_bind steps_keepsTr (within_sysRead accessRel_keepsTr a 2) fun _ => within_pure steps_keepsTr _

theorem keepsTr_sysRead16Wide (a : Word32) : Within KeepsTr (sysRead16Wide a) :=
  within_bind steps_keepsTr (keepsTr_sysRead16 a) fun _ => within_pure steps_keepsTr _

theorem keepsTr_readHalf (a : Word32) : Within KeepsTr (readHalf a) :=
  within_bind steps_keepsTr (keepsTr_sysRead16 a) fun _ =>
    within_bind steps_keepsTr (within_draw accessRel_keepsTr) fun _ => within_pure steps_keepsTr _

theorem keepsTr_inOldSpace {α : Type} {m : M α} (h : Within KeepsTr m) (old : Word32) : Within KeepsTr (inOldSpace old m) := by
  intro s
  have hm := h { s with cr3 := old &&& 0xFFFFF000 }
  unfold inOldSpace
  cases hr : m { s with cr3 := old &&& 0xFFFFF000 } <;> rw [hr] at hm <;> exact hm

theorem keepsTr_loadTaskRegs {field : Nat → M Word32} (hf : ∀ k, Within KeepsTr (field k)) (stride at_ : Nat) (rs : List Reg) :
    Within KeepsTr (loadTaskRegs field stride at_ rs) := by
  induction rs generalizing at_ with
  | nil => exact within_pure steps_keepsTr _
  | cons r rs ih =>
    exact within_bind steps_keepsTr (hf _) fun _ => within_bind steps_keepsTr (within_update fun _ => ⟨rfl, rfl⟩) fun _ => ih _

theorem keepsTr_loadTaskSelectors {field : Nat → M Word16} (hf : ∀ k, Within KeepsTr (field k)) (stride at_ : Nat)
    (rs : List SegReg) : Within KeepsTr (loadTaskSelectors field stride at_ rs) := by
  induction rs generalizing at_ with
  | nil => exact within_pure steps_keepsTr _
  | cons r rs ih =>
    exact within_bind steps_keepsTr (hf _) fun _ => within_bind steps_keepsTr (within_update fun _ => ⟨rfl, rfl⟩) fun _ => ih _

theorem keepsTr_loadTaskControl {ldt flags pc : M Word32} (hl : Within KeepsTr ldt) (hf : Within KeepsTr flags)
    (hp : Within KeepsTr pc) : Within KeepsTr (loadTaskControl ldt flags pc) :=
  have hs := steps_keepsTr
  within_bind hs hl fun _ => within_bind hs (within_update fun _ => ⟨rfl, rfl⟩) fun _ =>
    within_bind hs hf fun _ => within_bind hs (within_update fun _ => ⟨rfl, rfl⟩) fun _ =>
      within_bind hs hp fun _ => within_update fun _ => ⟨rfl, rfl⟩

/-- No field of a TSS is loaded into CR0 or TR. -/
theorem keepsTr_loadTaskFields (d : Desc) : Within KeepsTr (loadTaskFields d) := by
  have hs := steps_keepsTr
  refine within_ite ?_ ?_
  · refine within_bind hs (within_reads hs _) fun old => within_bind hs (keepsTr_sysRead32 _) fun v =>
      within_bind hs (within_update fun _ => ⟨rfl, rfl⟩) fun _ => ?_
    have hw (k : Nat) := keepsTr_inOldSpace (keepsTr_sysRead16 (d.base + BitVec.ofNat 32 k)) old
    have hd (k : Nat) := keepsTr_inOldSpace (keepsTr_sysRead32 (d.base + BitVec.ofNat 32 k)) old
    exact within_bind hs (keepsTr_loadTaskControl (keepsTr_inOldSpace (keepsTr_sysRead16Wide _) old) (hd 0x24) (hd 0x20))
      fun _ => within_bind hs (keepsTr_loadTaskRegs hd _ _ _) fun _ =>
        within_bind hs (keepsTr_loadTaskSelectors hw _ _ _) fun _ => within_bind hs (hw 0x64) fun _ =>
          within_bind hs (within_update fun _ => ⟨rfl, rfl⟩) fun _ => within_pure hs _
  · exact within_bind hs
      (keepsTr_loadTaskControl (keepsTr_sysRead16Wide _) (keepsTr_sysRead16Wide _) (keepsTr_sysRead16Wide _)) fun _ =>
        within_bind hs (keepsTr_loadTaskRegs (fun _ => keepsTr_readHalf _) _ _ _) fun _ =>
          within_bind hs (keepsTr_loadTaskSelectors (fun _ => keepsTr_sysRead16 _) _ _ _) fun _ =>
            within_bind hs (within_update fun _ => ⟨rfl, rfl⟩) fun _ => within_pure hs _

/-- The local enable bits are cleared. -/
theorem and_not_localEnables (x : Word32) : x &&& ~~~(0x55 : Word32) &&& 0x55 = 0 := by
  rw [BitVec.and_assoc, show (~~~(0x55 : Word32) &&& 0x55 : Word32) = 0 from rfl]
  exact BitVec.and_zero

/-- What every task switch leaves. -/
theorem taskSwitch_eq_ok {sel : Word16} {cause : SwitchCause} {ret : Word32} {s t : State}
    (h : taskSwitch sel cause ret s = .ok () t) :
    t.cr0.ts = true ∧ t.tr.sel = sel ∧ t.tr.valid = true ∧ t.dr7 &&& 0x55 = 0 ∧ (nests cause = true → t.flags.nt = true) := by
  obtain ⟨d, s1, hcheck, h⟩ := bind_eq_ok.1 h
  obtain ⟨_, _, ⟨⟩, h⟩ := bind_eq_ok.1 h
  obtain ⟨-, h⟩ := raiseIf_bind_eq_ok.1 h
  obtain ⟨_, s2, hsave, h⟩ := bind_eq_ok.1 h
  obtain ⟨_, s3, henter, h⟩ := bind_eq_ok.1 h
  obtain ⟨b, s4, hload, h⟩ := bind_eq_ok.1 h
  obtain ⟨_, s5, hvalid, htrap⟩ := bind_eq_ok.1 h
  obtain ⟨_, _, ⟨⟩, henter⟩ := bind_eq_ok.1 henter
  obtain ⟨_, _, _, henter⟩ := bind_eq_ok.1 henter
  obtain ⟨_, u, _, ⟨⟩⟩ := bind_eq_ok.1 henter
  obtain ⟨v, hfields, rfl⟩ := loadNewTask_eq_ok hload
  obtain ⟨hcr0, htr⟩ := (keepsTr_loadTaskFields d).of_ok hfields
  have hkeeps := (validTask_of_validateTask hvalid).keeps
  have hlast : t.cr0 = s5.cr0 ∧ t.tr = s5.tr ∧ t.dr7 = s5.dr7 ∧ t.flags = s5.flags := by
    obtain ⟨htrap, hkeep⟩ := whenever_eq_ok.1 htrap
    cases b with
    | true => cases htrap rfl; exact ⟨rfl, rfl, rfl, rfl⟩
    | false => rw [hkeep rfl]; exact ⟨rfl, rfl, rfl, rfl⟩
  obtain ⟨ht0, ht1, ht2, ht3⟩ := hlast
  have h0 : t.cr0 = v.cr0 := ht0.trans (by rw [hkeeps]; rfl)
  have h1 : t.tr = v.tr := ht1.trans (by rw [hkeeps]; rfl)
  have h2 : t.dr7 = v.dr7 &&& ~~~(0x55 : Word32) := ht2.trans (by rw [hkeeps]; rfl)
  have h3 : t.flags = { v.flags with nt := v.flags.nt || nests cause } := ht3.trans (by rw [hkeeps]; rfl)
  refine ⟨by rw [h0, hcr0], by rw [h1, htr], by rw [h1, htr], by rw [h2, and_not_localEnables], fun hc => ?_⟩
  rw [h3, hc]
  exact Bool.or_true _

end Sys2Proof.Machine

/-! What starts a task switch (61_task_switching.md R685 to R687): a far JMP or CALL, a task gate of the IDT, and IRET with NT
set; and the obligation about task switches. -/

namespace Sys2Proof.Machine

/-! ### The selectors of the incoming task -/

section Load

variable {r : SegReg} {sel : Word16} {s : State}

theorem loadTaskData_of_null (hn : isNull sel = true) : loadTaskData r sel s = .ok () s := by
  rw [loadTaskData, if_pos hn]; rfl

theorem selectorCode_of_null (hn : isNull sel = true) : selectorCode sel = 0 := by
  have hindex : sel.extractLsb' 2 14 = 0#14 := beq_iff_eq.1 hn
  ext i hi
  have hmask : ∀ i, (h : i < 16) → (0xFFFC#16)[i] = decide (2 ≤ i) := by decide
  by_cases hlow : 2 ≤ i
  · have hbit := congrArg (fun v : BitVec 14 => v.getLsbD (i - 2)) hindex
    simp only [BitVec.getLsbD_extractLsb', BitVec.getLsbD_zero, Nat.add_sub_cancel' hlow,
      decide_eq_true (show i - 2 < 14 by omega), Bool.true_and] at hbit
    simp [selectorCode, ← BitVec.getLsbD_eq_getElem, hbit]
  · simp [selectorCode, hmask i hi, hlow]

theorem loadTaskCode_of_null (hn : isNull sel = true) : loadTaskCode sel s = .error (.ts 0) s := by
  rw [loadTaskCode, raiseIf_bind_of_true hn, selectorCode_of_null hn]

theorem loadTaskStack_of_null (hn : isNull sel = true) : loadTaskStack sel s = .error (.ts 0) s := by
  rw [loadTaskStack, raiseIf_bind_of_true hn, selectorCode_of_null hn]

/-- The incoming task may use the descriptor of a selector for data. -/
def Desc.fitsData (d : Desc) (sel : Word16) (level : BitVec 2) : Prop :=
  d.isReadable = true ∧ (d.isConforming = true ∨ weaker level (rpl sel) ≤ d.dpl)

section Desc

variable (hn : isNull sel = false) {d : Desc} {s1 : State} (hd : readDesc sel .ts s = .ok d s1)
include hn hd

theorem loadTaskData_of_desc : loadTaskData r sel s = (do
    raiseIf (!d.isReadable) (.ts (selectorCode sel))
    raiseIf (!d.isConforming && d.dpl < weaker s1.level (rpl sel)) (.ts (selectorCode sel))
    raiseIf (!d.present) (.np (selectorCode sel))
    markAccessed sel d
    setSegment r (d.cache sel)) s1 := by
  rw [loadTaskData, if_neg (by simp [hn]), loadDataSegment, bind_of_ok hd]
  exact bind_of_ok (reads_apply _ s1)

theorem loadTaskData_of_unfit (h : ¬ d.fitsData sel s1.level) : loadTaskData r sel s = .error (.ts (selectorCode sel)) s1 := by
  rw [loadTaskData_of_desc hn hd]
  cases hr : d.isReadable with
  | false => exact raiseIf_bind_of_true rfl
  | true =>
    rw [raiseIf_bind_of_false (show (!true) = false from rfl)]
    obtain ⟨hconf, hlevel⟩ := not_or.1 fun hv => h ⟨hr, hv⟩
    exact raiseIf_bind_of_true (by simpa [hconf] using hlevel)

variable (hfits : d.fitsData sel s1.level)
include hfits

theorem loadTaskData_of_fits : loadTaskData r sel s = (do
    raiseIf (!d.present) (.np (selectorCode sel))
    markAccessed sel d
    setSegment r (d.cache sel)) s1 := by
  obtain ⟨hr, hv⟩ := hfits
  have hlevel : (!d.isConforming && decide (d.dpl < weaker s1.level (rpl sel))) = false := by
    rcases hv with h | h
    · rw [h]; rfl
    · rw [decide_eq_false (BitVec.not_lt.2 h), Bool.and_false]
  rw [loadTaskData_of_desc hn hd, raiseIf_bind_of_false (by rw [hr]; rfl), raiseIf_bind_of_false hlevel]

theorem loadTaskData_of_absent (h : d.present = false) : loadTaskData r sel s = .error (.np (selectorCode sel)) s1 :=
  (loadTaskData_of_fits hn hd hfits).trans (raiseIf_bind_of_true (by rw [h]; rfl))

theorem loadTaskData_of_present (h : d.present = true) {s2 : State} (hmark : markAccessed sel d s1 = .ok () s2) :
    loadTaskData r sel s = .ok () (s2.setSeg r (d.cache sel)) :=
  (loadTaskData_of_fits hn hd hfits).trans ((raiseIf_bind_of_false (by rw [h]; rfl)).trans (bind_of_ok hmark))

end Desc

end Load

/-! ### A far JMP or CALL to a task -/

section Far

variable {call : Bool} {sel : Word16} {off : Word32} {s u t : State} (hu : Accessed s u) (hp : s.protected = true)
  (hn : isNull sel = false) {d : Desc} (hd : readDesc sel .gp u = .ok d t)

theorem Desc.isCode_of_isSystem {n : Nat} (h : d.isSystem n = true) : d.isCode = false := by
  rw [Desc.isCode, Desc.isSegment_of_isSystem h]; rfl

theorem Desc.isSystem_of_isSystem {n m : Nat} (h : d.isSystem n = true) : d.isSystem m = decide (n = m) := by
  have hseg := Desc.isSegment_of_isSystem h
  have htype : d.type = n := by
    simp only [Desc.isSystem, Bool.and_eq_true, beq_iff_eq] at h
    exact h.2
  rw [Desc.isSystem, hseg, htype]; rfl

include hu hp hn hd

/-- A far transfer to a system descriptor that is no call gate. -/
theorem farTransfer_of_system {n : Nat} (h : d.isSystem n = true) (hgate : n ≠ 4 ∧ n ≠ 0xC) :
    farTransfer call sel off u =
      (if decide (n = 5) then do
        raiseIf (decide (d.dpl < weaker s.level (rpl sel))) (.gp (selectorCode sel))
        raiseIf (!d.present) (.np (selectorCode sel))
        taskSwitch d.gateSelector (if call then .call else .jmp) s.cur.npc
      else if decide (n = 1) || decide (n = 9) then do
        raiseIf (decide (d.dpl < weaker s.level (rpl sel))) (.gp (selectorCode sel))
        taskSwitch sel (if call then .call else .jmp) s.cur.npc
      else raise (.gp (selectorCode sel)) : M Unit) t := by
  have ht := accessRel_accessed.trans hu (readDesc_accessed hd)
  rw [farTransfer_of_protected hu hp, farProtected, raiseIf_bind_of_false hn, bind_of_ok hd, bind_of_ok (get_apply t), ite_apply,
    if_neg (by rw [Desc.isCode_of_isSystem h]; decide)]
  simp only [Desc.isSystem_of_isSystem h, decide_eq_false hgate.1, decide_eq_false hgate.2, Bool.or_false, Bool.false_eq_true,
    if_false, ht.level, ht.npc]

/-- The descriptor is that of a TSS that is not busy. -/
theorem farTransfer_of_tss (h : d.isSystem 1 = true ∨ d.isSystem 9 = true) :
    farTransfer call sel off u = (do
      raiseIf (decide (d.dpl < weaker s.level (rpl sel))) (.gp (selectorCode sel))
      taskSwitch sel (if call then .call else .jmp) s.cur.npc : M Unit) t := by
  rcases h with h | h <;> rw [farTransfer_of_system hu hp hn hd h (by decide)] <;> rfl

theorem farTransfer_of_busyTss (h : d.isSystem 3 = true ∨ d.isSystem 0xB = true) :
    farTransfer call sel off u = .error (.gp (selectorCode sel)) t := by
  rcases h with h | h <;> rw [farTransfer_of_system hu hp hn hd h (by decide)] <;> rfl

theorem farTransfer_of_taskGate (h : d.isSystem 5 = true) :
    farTransfer call sel off u = (do
      raiseIf (decide (d.dpl < weaker s.level (rpl sel))) (.gp (selectorCode sel))
      raiseIf (!d.present) (.np (selectorCode sel))
      taskSwitch d.gateSelector (if call then .call else .jmp) s.cur.npc : M Unit) t := by
  rw [farTransfer_of_system hu hp hn hd h (by decide)]; rfl

end Far

/-! ### A task gate of the IDT -/

theorem deliver_of_taskGate {e : Event} {s s1 s2 s3 s4 : State} {g : Desc} {v : Nat} {errs : List Nat} (hpe : s.cr0.pe = true)
    (hinside : 8 * e.vec.toNat + 7 ≤ s.idtr.limit.toNat) (hread : sysRead (s.idtr.base + 8 * e.vec.setWidth 32) 8 s = .ok v s1)
    (hg : g = BitVec.ofNat 64 v) (htype : g.isSystem 5 = true) (hlevel : e.kind = .software → s.level ≤ g.dpl)
    (hpresent : g.present = true) (hswitch : taskSwitch g.gateSelector .int e.ret s1 = .ok () s2)
    (herrs : errorItems (if s2.tr.is386 then 4 else 2) e.err s2 = .ok errs s3)
    (hpush : pushAll (if s2.tr.is386 then 4 else 2) errs s3 = .ok () s4) :
    deliver e s = .ok () { s4 with cur := { s4.cur with noTrap := true } } := by
  have hin : decide (s.idtr.limit.toNat < 8 * e.vec.toNat + 7) = false := decide_eq_false (Nat.not_lt.2 hinside)
  have hdpl : (e.kind == .software && decide (g.dpl < s.level)) = false := by
    rw [Bool.and_eq_false_imp]
    exact fun hk => decide_eq_false (BitVec.not_lt.2 (hlevel (eq_of_beq hk)))
  have hwanted : (!(g.isSystem 5 || g.isSystem 6 || g.isSystem 7 || g.isSystem 0xE || g.isSystem 0xF)) = false := by
    simp only [htype, Bool.true_or, Bool.not_true]
  have hgate : g.type = 5 := by
    simp only [Desc.isSystem, Bool.and_eq_true, beq_iff_eq] at htype
    exact htype.2
  rw [deliver, bind_of_ok (get_apply s), ite_apply, if_pos hpe, deliverProtected, bind_of_ok (get_apply s),
    raiseIf_bind_of_false hin, bind_of_ok hread, ← hg, raiseIf_bind_of_false hwanted, raiseIf_bind_of_false hdpl,
    raiseIf_bind_of_false (by rw [hpresent]; rfl), ite_apply, if_pos hgate, deliverTask, bind_of_ok hswitch,
    bind_of_ok (get_apply s2)]
  exact (bind_of_ok herrs).trans (bind_of_ok hpush)

/-! ### IRET with NT set -/

section Iret

variable {s : State} (hp : s.protected = true) (hnt : s.flags.nt = true)
include hp hnt

theorem interruptReturn_of_nested : interruptReturn s =
    (do raiseIf (!s.tr.valid) (.refuse .taskSwitchWithoutTss)
        let link ← sysRead16 s.tr.base
        taskSwitch link .iret s.cur.npc : M Unit) s.returning := by
  have hreturning : s.returning.protected = true := hp
  rw [interruptReturn_of_allowed (by rw [State.v86_of_protected hp]; exact nofun), iretByMode,
    bind_of_ok (get_apply s.returning), ite_apply, if_pos hreturning, iretTask, bind_of_ok (get_apply s.returning), ite_apply,
    if_pos (show s.returning.flags.nt = true from hnt)]
  rfl

theorem interruptReturn_of_link (hvalid : s.tr.valid = true) {link : Nat} {s1 t : State}
    (hlink : sysRead s.tr.base 2 s.returning = .ok link s1)
    (h : taskSwitch (BitVec.ofNat 16 link) .iret s.cur.npc s1 = .ok () t) : interruptReturn s = .ok () t := by
  have hread : sysRead16 s.tr.base s.returning = .ok (BitVec.ofNat 16 link) s1 := bind_of_ok hlink
  rw [interruptReturn_of_nested hp hnt, raiseIf_bind_of_false (by rw [hvalid]; rfl), bind_of_ok hread, h]

theorem exec_iret_of_no_tss (hvalid : s.tr.valid = false) : exec .iret s = .refused .taskSwitchWithoutTss := by
  have herror : interruptReturn s = .error (.refuse .taskSwitchWithoutTss) s.returning := by
    rw [interruptReturn_of_nested hp hnt, raiseIf_bind_of_true (by rw [hvalid]; rfl)]
  exact runInstr_of_error herror

end Iret

/-! ### The clauses of the obligation -/

theorem nests_eq (cause : SwitchCause) : nests cause = (cause == .call || cause == .int) := rfl

theorem not_nests_eq (cause : SwitchCause) : (!nests cause) = (cause == .jmp || cause == .iret) := by cases cause <;> rfl

/-- Settles O47: the phases one after the other, what each of them does in ordinary memory, and what starts a switch. -/
theorem taskSwitches : Obligations.TaskSwitches := by
  refine ⟨?_, ?_, ?_, ?_, ?_, ?_, ?_, ?_, ?_, ?_, ?_⟩
  · intro sel cause ret s t h
    obtain ⟨hts, hsel, hvalid, hdr7, hnt⟩ := taskSwitch_eq_ok h
    refine ⟨hts, hsel, hvalid, hdr7, ?_⟩
    rintro (rfl | rfl)
    · exact hnt rfl
    · exact hnt rfl
  · intro sel cause ret s s1 d hcheck
    exact ⟨checkNewTask_eq_ok hcheck, fun s2 s3 s4 s5 b htr hsave henter hload hvalid =>
      taskSwitch_of_phases hcheck htr hsave henter hload hvalid⟩
  · intro cause ret s t hs hwf h n first sels regs base saved busy leaves hbusy
    have hleaves : (!nests cause) = leaves := not_nests_eq cause
    obtain ⟨img, himg, hsaved⟩ := savedTask_of_saveOldTask hs hwf h fun hc => hbusy (hleaves ▸ hc)
    exact ⟨hsaved.returnAddress, ⟨img, hsaved.flags, himg⟩, fun k r => hsaved.reg, hsaved.selector,
      fun hc => hsaved.busy (hleaves.trans hc), fun a ha hne => hsaved.other a ha fun hc => hne (hleaves ▸ hc), hsaved.rest⟩
  · intro sel d cause s t hs hwf h link busy nested hbusy
    have hentered := enteredTask_of_enterNewTask hs hwf h hbusy
    exact ⟨hentered.link, hentered.busy, hentered.other, hentered.rest⟩
  · intro d nested b s t hs h at_ f is386
    obtain ⟨u, hload, rfl⟩ := loadNewTask_eq_ok h
    obtain ⟨hloaded, hvalid, h386, h286⟩ := loadTaskFields_eq_ok hs hload
    refine ⟨hloaded.mem, by rw [← hloaded.dr7]; rfl, congrArg SystemReg.valid hloaded.ldtr, rfl, hvalid, fun hc => ?_,
      fun hc => ?_⟩
    · obtain ⟨hcr3, htlb, hb⟩ := h386 hc
      rw [show (d.type == 9 || d.type == 0xB) = true from hc] at hloaded
      exact ⟨hloaded.pc, congrArg (fun g : Flags => { g with nt := g.nt || nested }) hloaded.flags, hloaded.reg,
        fun k r hk => hloaded.sel hk, congrArg SystemReg.sel hloaded.ldtr, hcr3, htlb, hb⟩
    · obtain ⟨hcr3, hfs, hgs, hb⟩ := h286 hc
      rw [show (d.type == 9 || d.type == 0xB) = false from hc] at hloaded
      exact ⟨hloaded.pc, congrArg (fun g : Flags => { g with nt := g.nt || nested }) hloaded.flags, hloaded.reg,
        fun k r hk => hloaded.sel hk, hfs, hgs, congrArg SystemReg.sel hloaded.ldtr, hcr3, hb⟩
  · intro s t h
    have hvalid := validTask_of_validateTask h
    have hkeeps := hvalid.keeps
    exact ⟨by rw [hkeeps], by rw [hkeeps], by rw [hkeeps], by rw [hkeeps], by rw [hkeeps], by rw [hkeeps], hvalid.ldtrSel,
      hvalid.ldtrValid, hvalid.sel, hvalid.inV86, hvalid.inProtected⟩
  · intro call i off sel s s0 s1 d hp hop hn hd switches usable gp
    have hi := hop.transfersFar
    have ha := hi.accessed
    have husable : decide (d.dpl < weaker s.level (rpl sel)) = false ↔ usable := by
      rw [decide_eq_false_iff_not, BitVec.not_lt]
    have hunusable (h : ¬ usable) : decide (d.dpl < weaker s.level (rpl sel)) = true :=
      eq_true_of_ne_false fun hf => h (husable.1 hf)
    refine ⟨fun htss => ?_, fun hbusy => hi.error (farTransfer_of_busyTss ha hp hn hd hbusy), fun hgate => ⟨?_, ?_, ?_⟩⟩
    · have hfar := farTransfer_of_tss (call := call) (off := off) ha hp hn hd htss
      exact ⟨fun hu t ht => hi.ok (hfar.trans ((raiseIf_bind_of_false (husable.2 hu)).trans ht)),
        fun hu => hi.error (hfar.trans (raiseIf_bind_of_true (hunusable hu)))⟩
    all_goals have hfar := farTransfer_of_taskGate (call := call) (off := off) ha hp hn hd hgate
    · exact fun hu hpresent t ht => hi.ok (hfar.trans ((raiseIf_bind_of_false (husable.2 hu)).trans
        ((raiseIf_bind_of_false (by rw [hpresent]; rfl)).trans ht)))
    · exact fun hu => hi.error (hfar.trans (raiseIf_bind_of_true (hunusable hu)))
    · exact fun hu hpresent => hi.error (hfar.trans ((raiseIf_bind_of_false (husable.2 hu)).trans
        (raiseIf_bind_of_true (by rw [hpresent]; rfl))))
  · exact fun e s s1 s2 s3 s4 g v errs hpe hinside hread hg htype hlevel hpresent hswitch herrs hpush =>
      deliver_of_taskGate hpe hinside hread hg htype hlevel hpresent hswitch herrs hpush
  · intro s s1 t link hp hnt
    exact ⟨fun hvalid hlink h => runInstr_of_ok (interruptReturn_of_link hp hnt hvalid hlink h),
      exec_iret_of_no_tss hp hnt⟩
  · exact fun r sel s => ⟨loadTaskData_of_null, fun hn d s1 hd => ⟨loadTaskData_of_unfit hn hd,
      loadTaskData_of_absent hn hd, fun hfits hpresent s2 => loadTaskData_of_present hn hd hfits hpresent⟩⟩
  · exact fun sel s hn => ⟨loadTaskCode_of_null hn, loadTaskStack_of_null hn⟩

end Sys2Proof.Machine

/-! The decoder and the encoder (30_encoding.md R261 to R297): a reader of a part of an instruction reads back what the encoder
writes for it, so decoding undoes encoding form by form; and every row of the opcode tables leads only to well-formed
instructions. -/

namespace Sys2Proof

/-! ### Reading back what was written -/

/-- A reader that hands the value it read to a continuation reads `bs` as `a`. -/
def Reads {α : Type} (p : (α → Dec) → Dec) (bs : List Byte) (a : α) : Prop :=
  ∀ (k : α → Dec) (rest : List Byte), (p k).run (bs ++ rest) = (k a).run rest

/-- A decoder takes exactly the bytes `bs`, and they are the instruction `i`. -/
def Dec.Gives (d : Dec) (bs : List Byte) (i : Instr) : Prop := ∀ rest : List Byte, d.run (bs ++ rest) = some (i, rest)

theorem reads_byte (b : Byte) : Reads Dec.need [b] b := fun _ _ => rfl

theorem Reads.gives {α : Type} {p : (α → Dec) → Dec} {bs : List Byte} {a : α} (h : Reads p bs a) {k : α → Dec}
    {cs : List Byte} {i : Instr} (hk : (k a).Gives cs i) : (p k).Gives (bs ++ cs) i := by
  intro rest
  rw [List.append_assoc, h, hk]

theorem Reads.gives_done {α : Type} {p : (α → Dec) → Dec} {bs : List Byte} {a : α} (h : Reads p bs a)
    (mk : α → Instr) : (p fun v => .done (mk v)).Gives bs (mk a) := fun rest => h _ rest

/-! ### Immediates, offsets and fields -/

/-- Two adjacent fields of a value, side by side, are one field. -/
theorem append_adjacentFields {w : Nat} (v : BitVec w) (start lo hi : Nat) :
    v.extractLsb' (start + lo) hi ++ v.extractLsb' start lo = v.extractLsb' start (hi + lo) :=
  BitVec.extractLsb'_append_extractLsb'_eq_extractLsb' rfl

theorem bytes_of_word16 (v : Word16) : (v.extractLsb' 8 8 ++ v.extractLsb' 0 8 : BitVec 16) = v :=
  (append_adjacentFields v 0 8 8).trans BitVec.extractLsb'_eq_self

theorem bytes_of_word32 (v : Word32) :
    (v.extractLsb' 24 8 ++ v.extractLsb' 16 8 ++ v.extractLsb' 8 8 ++ v.extractLsb' 0 8 : BitVec 32) = v := by
  rw [show v.extractLsb' 24 8 ++ v.extractLsb' 16 8 = v.extractLsb' 16 16 from append_adjacentFields v 16 8 8,
    show v.extractLsb' 16 16 ++ v.extractLsb' 8 8 = v.extractLsb' 8 24 from append_adjacentFields v 8 8 16]
  exact (append_adjacentFields v 0 8 24).trans BitVec.extractLsb'_eq_self

theorem reads_imm16 (v : Word16) : Reads imm16 (enc16 v) v := fun k rest =>
  congrArg (fun w => (k w).run rest) (bytes_of_word16 v)

theorem reads_imm32 (v : Word32) : Reads imm32 (enc32 v) v := fun k rest =>
  congrArg (fun w => (k w).run rest) (bytes_of_word32 v)

theorem setWidth_setWidth_of_lt {v : Word32} (h : v.toNat < 0x10000) : (v.setWidth 16).setWidth 32 = v := by
  apply BitVec.eq_of_toNat_eq
  rw [BitVec.toNat_setWidth_of_le (by decide), BitVec.toNat_setWidth]
  exact Nat.mod_eq_of_lt h

/-- A value of 16 or 32 bits held in 32 bits, as the immediates and the offsets are. -/
theorem reads_sized {wide : Bool} {v : Word32} (h : (wide || decide (v.toNat < 0x10000)) = true) :
    Reads (fun k => if wide then imm32 k else imm16 fun w => k (w.setWidth 32))
      (if wide then enc32 v else enc16 (v.setWidth 16)) v := by
  cases wide with
  | true => exact reads_imm32 v
  | false =>
    have hv : v.toNat < 0x10000 := of_decide_eq_true h
    exact fun k rest => (reads_imm16 _ (fun w => k (w.setWidth 32)) rest).trans (by rw [setWidth_setWidth_of_lt hv])

theorem reads_immV {c : Ctx} {v : Word32} (h : wfSized c v = true) : Reads (immV c) (encV c v) v := reads_sized h

theorem reads_offV {c : Ctx} {v : Word32} (h : wfOffset c v = true) : Reads (offV c) (encO c v) v := reads_sized h

theorem Reg.ofCode_code (r : Reg) : Reg.ofCode r.code = r := by induction r <;> rfl

theorem Reg8.ofCode_code (r : Reg8) : Reg8.ofCode r.code = r := by induction r <;> rfl

theorem SegReg.ofCode?_code (r : SegReg) : SegReg.ofCode? r.code = some r := by induction r <;> rfl

theorem Base16.ofCode_code (b : Base16) : Base16.ofCode b.code = b := by induction b <;> rfl

section Fields

variable (md : BitVec 2) (reg rm : BitVec 3)

theorem modrmByte_rm : (modrmByte md reg rm).extractLsb' 0 3 = rm := BitVec.extractLsb'_append_eq_right

theorem modrmByte_reg : (modrmByte md reg rm).extractLsb' 3 3 = reg :=
  (BitVec.extractLsb'_append_eq_of_le (by decide)).trans BitVec.extractLsb'_append_eq_right

theorem modrmByte_mod : (modrmByte md reg rm).extractLsb' 6 2 = md :=
  (BitVec.extractLsb'_append_eq_of_le (by decide)).trans BitVec.extractLsb'_append_eq_left

/-- The ModRM byte is read as its three fields. -/
theorem modrm_run (k : BitVec 2 → BitVec 3 → BitVec 3 → Dec) (bs : List Byte) :
    (modrm k).run (modrmByte md reg rm :: bs) = (k md reg rm).run bs := by
  show (k ((modrmByte md reg rm).extractLsb' 6 2) ((modrmByte md reg rm).extractLsb' 3 3)
    ((modrmByte md reg rm).extractLsb' 0 3)).run bs = _
  rw [modrmByte_mod, modrmByte_reg, modrmByte_rm]

end Fields

/-! ### Memory operands -/

theorem Reads.map {α β : Type} {p : (α → Dec) → Dec} {bs : List Byte} {a : α} (h : Reads p bs a) (f : α → β) :
    Reads (fun k => p fun x => k (f x)) bs (f a) := fun _ rest => h _ rest

theorem reads_disp32 (d : Disp32) : Reads (disp32 (encDisp32 d).1) (encDisp32 d).2 d := by
  cases d with
  | none => exact fun _ _ => rfl
  | d8 d => exact (reads_byte d).map Disp32.d8
  | d32 d => exact (reads_imm32 d).map Disp32.d32

theorem encDisp32_mod_ne_three (d : Disp32) : (encDisp32 d).1 ≠ 3 := by
  induction d with
  | none => exact (by decide : (0 : BitVec 2) ≠ 3)
  | d8 => exact (by decide : (1 : BitVec 2) ≠ 3)
  | d32 => exact (by decide : (2 : BitVec 2) ≠ 3)

theorem encDisp16_mod_ne_three (d : Disp16) : (encDisp16 d).1 ≠ 3 := by
  induction d with
  | none => exact (by decide : (0 : BitVec 2) ≠ 3)
  | d8 => exact (by decide : (1 : BitVec 2) ≠ 3)
  | d16 => exact (by decide : (2 : BitVec 2) ≠ 3)

theorem eq_none_of_encDisp32_mod {d : Disp32} (h : (encDisp32 d).1 = 0) : d = .none := by
  induction d with
  | none => rfl
  | d8 => exact absurd h (by decide : (1 : BitVec 2) ≠ 0)
  | d32 => exact absurd h (by decide : (2 : BitVec 2) ≠ 0)

theorem Base16.eq_ofCode {b : Base16} {x : BitVec 3} (h : b.code = x) : b = Base16.ofCode x := by
  rw [← h, Base16.ofCode_code]

theorem Reg.eq_ofCode {r : Reg} {x : BitVec 3} (h : r.code = x) : r = Reg.ofCode x := by rw [← h, Reg.ofCode_code]

/-- The base EBP without a displacement has no encoding. -/
theorem not_noBase {b : Reg} {d : Disp32} (h : b ≠ .ebp ∨ d ≠ .none) : ¬ ((encDisp32 d).1 = 0 ∧ b.code = 5) :=
  fun hno => h.elim (fun hb => hb (Reg.eq_ofCode hno.2)) fun hd => hd (eq_none_of_encDisp32_mod hno.1)

/-- The combination BP without a displacement has no encoding: its ModRM byte is that of a direct offset. -/
theorem reads_based16 {b : Base16} {d : Disp16} (h : b ≠ .bp ∨ d ≠ .none) :
    Reads (mem16 (encDisp16 d).1 b.code) (encDisp16 d).2 (.based16 b d) := by
  intro k rest
  cases d with
  | none =>
    have hb : b.code ≠ 6 := fun hc => h.elim (fun hn => hn (Base16.eq_ofCode hc)) fun hn => hn rfl
    exact congrArg (Dec.run · rest) ((if_neg hb).trans (congrArg (fun x => k (.based16 x .none)) (Base16.ofCode_code b)))
  | d8 d => exact congrArg (fun x => (k (.based16 x (.d8 d))).run rest) (Base16.ofCode_code b)
  | d16 d =>
    exact (reads_imm16 d (fun v => k (.based16 (Base16.ofCode b.code) (.d16 v))) rest).trans
      (congrArg (fun x => (k (.based16 x (.d16 d))).run rest) (Base16.ofCode_code b))

/-- The SIB byte has the fields of a ModRM byte. -/
theorem sibByte_eq_modrm (md : BitVec 2) (k : Mem → Dec) : sibByte md k = modrm fun ss x b =>
    if md = 0 ∧ b = 5 then imm32 fun d => k (.sibNoBase ss (Reg.ofCode x) d)
    else disp32 md fun d => k (.sib ss (Reg.ofCode x) (Reg.ofCode b) d) := rfl

theorem reads_sib (ss : BitVec 2) (x : Reg) {b : Reg} {d : Disp32} (h : b ≠ .ebp ∨ d ≠ .none) :
    Reads (sibByte (encDisp32 d).1) (modrmByte ss x.code b.code :: (encDisp32 d).2) (.sib ss x b d) := by
  intro k rest
  rw [sibByte_eq_modrm, List.cons_append, modrm_run, if_neg (not_noBase h), Reg.ofCode_code, Reg.ofCode_code]
  exact reads_disp32 d _ rest

theorem reads_sibNoBase (ss : BitVec 2) (x : Reg) (d : Word32) :
    Reads (sibByte 0) (modrmByte ss x.code 5 :: enc32 d) (.sibNoBase ss x d) := by
  intro k rest
  rw [sibByte_eq_modrm, List.cons_append, modrm_run, if_pos ⟨rfl, rfl⟩, Reg.ofCode_code]
  exact reads_imm32 d _ rest

theorem reads_based32 {b : Reg} {d : Disp32} (hsp : b ≠ .esp) (h : b ≠ .ebp ∨ d ≠ .none) :
    Reads (mem32 (encDisp32 d).1 b.code) (encDisp32 d).2 (.based32 b d) := by
  intro k rest
  rw [mem32, if_neg (mt Reg.eq_ofCode hsp), if_neg (not_noBase h), Reg.ofCode_code]
  exact reads_disp32 d _ rest

theorem bne_or_bne_iff {α β : Type} [DecidableEq α] [DecidableEq β] {a a0 : α} {b b0 : β} :
    (a != a0 || b != b0) = true ↔ a ≠ a0 ∨ b ≠ b0 := by
  rw [Bool.or_eq_true, bne_iff_ne, bne_iff_ne]

/-- The reader of a memory operand at the address size in force. -/
def memOperand (c : Ctx) (md : BitVec 2) (rm : BitVec 3) (k : Mem → Dec) : Dec :=
  if c.as32 then mem32 md rm k else mem16 md rm k

theorem reads_memOperand16 {c : Ctx} {md : BitVec 2} {rm : BitVec 3} {bs : List Byte} {m : Mem} (hc : (!c.as32) = true)
    (h : Reads (mem16 md rm) bs m) : Reads (memOperand c md rm) bs m := fun k rest =>
  (congrArg (Dec.run · (bs ++ rest)) (if_neg (ne_true_of_eq_false (Bool.not_eq_eq_eq_not.1 hc)))).trans (h k rest)

theorem reads_memOperand32 {c : Ctx} {md : BitVec 2} {rm : BitVec 3} {bs : List Byte} {m : Mem} (hc : c.as32 = true)
    (h : Reads (mem32 md rm) bs m) : Reads (memOperand c md rm) bs m := fun k rest =>
  (congrArg (Dec.run · (bs ++ rest)) (if_pos hc)).trans (h k rest)

/-! Operands after a ModRM byte with the `reg` field `n`: the decoder goes on with the operand that was encoded. -/

section Run

variable {c : Ctx} {k : BitVec 2 → BitVec 3 → BitVec 3 → Dec} {n : BitVec 3} {m : Mem} {f : Mem → Dec}

theorem modrm_run_of_reads (hk : ∀ md rm, md ≠ 3 → memOperand c md rm f = k md n rm) (rest : List Byte) {md : BitVec 2}
    {rm : BitVec 3} {bs : List Byte} (hmd : md ≠ 3) (h : Reads (memOperand c md rm) bs m) :
    (modrm k).run (modrmByte md n rm :: (bs ++ rest)) = (f m).run rest := by
  rw [modrm_run, ← hk md rm hmd, h]

theorem encMem_run (hm : wfMem c m = true) (hk : ∀ md rm, md ≠ 3 → memOperand c md rm f = k md n rm) (rest : List Byte) :
    (modrm k).run (encMem n m ++ rest) = (f m).run rest := by
  have hrun := @modrm_run_of_reads c k n m f hk rest
  cases m with
  | direct16 d => exact hrun (by decide) (reads_memOperand16 hm ((reads_imm16 d).map Mem.direct16))
  | based16 b d =>
    obtain ⟨has, hbp⟩ := Bool.and_eq_true_iff.1 hm
    exact hrun (encDisp16_mod_ne_three d) (reads_memOperand16 has (reads_based16 (bne_or_bne_iff.1 hbp)))
  | direct32 d => exact hrun (by decide) (reads_memOperand32 hm ((reads_imm32 d).map Mem.direct32))
  | based32 b d =>
    obtain ⟨hbase, hbp⟩ := Bool.and_eq_true_iff.1 hm
    obtain ⟨has, hsp⟩ := Bool.and_eq_true_iff.1 hbase
    exact hrun (encDisp32_mod_ne_three d)
      (reads_memOperand32 has (reads_based32 (bne_iff_ne.1 hsp) (bne_or_bne_iff.1 hbp)))
  | sib ss x b d =>
    obtain ⟨has, hbp⟩ := Bool.and_eq_true_iff.1 hm
    exact hrun (encDisp32_mod_ne_three d) (reads_memOperand32 has (reads_sib ss x (bne_or_bne_iff.1 hbp)))
  | sibNoBase ss x d => exact hrun (by decide) (reads_memOperand32 hm (reads_sibNoBase ss x d))

theorem encMem_run_withMem (hm : wfMem c m = true) (hk : ∀ md rm, withMem c md rm f = k md n rm) (rest : List Byte) :
    (modrm k).run (encMem n m ++ rest) = (f m).run rest :=
  encMem_run hm (fun md rm hmd => (if_neg hmd).symm.trans (hk md rm)) rest

theorem encRm_run {α : Type} {code : α → BitVec 3} {ofCode : BitVec 3 → α} (hcode : ∀ r, ofCode (code r) = r)
    {e : Rm α} {f : Rm α → Dec} (he : wfRm c e = true) (hk : ∀ md rm, withRm c ofCode md rm f = k md n rm)
    (rest : List Byte) : (modrm k).run (encRm code n e ++ rest) = (f e).run rest := by
  cases e with
  | reg r =>
    exact (modrm_run 3 n (code r) k rest).trans ((congrArg (Dec.run · rest) (hk 3 (code r)).symm).trans
      (congrArg (fun x => (f (.reg x)).run rest) (hcode r)))
  | mem m => exact encMem_run (f := fun m => f (.mem m)) he (fun md rm hmd => (if_neg hmd).symm.trans (hk md rm)) rest

end Run

/-! ### The forms of an encoding -/

theorem Reads.gives_done₂ {α β : Type} {p : (α → Dec) → Dec} {q : (β → Dec) → Dec} {bs cs : List Byte} {a : α}
    {b : β} (hp : Reads p bs a) (hq : Reads q cs b) (mk : α → β → Instr) :
    (p fun v => q fun w => .done (mk v w)).Gives (bs ++ cs) (mk a b) := hp.gives (hq.gives_done (mk a))

section Operands

variable {c : Ctx} {k : BitVec 2 → BitVec 3 → BitVec 3 → Dec} {n : BitVec 3} {α β γ : Type}
  {code : α → BitVec 3} {ofCode : BitVec 3 → α} (hcode : ∀ r, ofCode (code r) = r)
  {codeG : β → BitVec 3} {ofCodeG : BitVec 3 → β} (hcodeG : ∀ r, ofCodeG (codeG r) = r)
  {p : (γ → Dec) → Dec} {bs : List Byte} {v : γ} {e : Rm α} {m : Mem} {g : β}

/-! The `reg` field is part of the opcode. -/

include hcode in
theorem gives_rm (he : wfRm c e = true) {mk : Rm α → Instr}
    (hk : ∀ md rm, (withRm c ofCode md rm fun e => .done (mk e)) = k md n rm) : (modrm k).Gives (encRm code n e) (mk e) :=
  encRm_run hcode he hk

include hcode in
theorem gives_rm_imm (he : wfRm c e = true) (hp : Reads p bs v) {mk : Rm α → γ → Instr}
    (hk : ∀ md rm, (withRm c ofCode md rm fun e => p fun v => .done (mk e v)) = k md n rm) :
    (modrm k).Gives (encRm code n e ++ bs) (mk e v) := by
  intro rest
  rw [List.append_assoc, encRm_run hcode he hk, hp]
  rfl

include hcode in
theorem gives_rm_immV {w : Word32} (h : (wfRm c e && wfSized c w) = true) {mk : Rm α → Word32 → Instr}
    (hk : ∀ md rm, (withRm c ofCode md rm fun e => immV c fun v => .done (mk e v)) = k md n rm) :
    (modrm k).Gives (encRm code n e ++ encV c w) (mk e w) :=
  have hwf := Bool.and_eq_true_iff.1 h
  gives_rm_imm hcode hwf.1 (reads_immV hwf.2) hk

theorem gives_mem (hm : wfMem c m = true) {mk : Mem → Instr}
    (hk : ∀ md rm, (withMem c md rm fun m => .done (mk m)) = k md n rm) : (modrm k).Gives (encMem n m) (mk m) :=
  encMem_run_withMem hm hk

include hcode in
theorem gives_field_rm (he : wfRm c e = true) (mk : BitVec 3 → Rm α → Instr) :
    (modrm fun md reg rm => withRm c ofCode md rm fun e => .done (mk reg e)).Gives (encRm code n e) (mk n e) :=
  gives_rm hcode he fun _ _ => rfl

/-! The `reg` field is a register operand, the second operand or the first. -/

include hcode hcodeG

theorem gives_rm_reg (he : wfRm c e = true) (mk : Rm α → β → Instr) :
    (modrm fun md reg rm => withRm c ofCode md rm fun e => .done (mk e (ofCodeG reg))).Gives
      (encRm code (codeG g) e) (mk e g) :=
  gives_rm hcode he (mk := fun e => mk e g) fun _ _ => by rw [hcodeG]

theorem gives_reg_rm (he : wfRm c e = true) (mk : β → Rm α → Instr) :
    (modrm fun md reg rm => withRm c ofCode md rm fun e => .done (mk (ofCodeG reg) e)).Gives
      (encRm code (codeG g) e) (mk g e) :=
  gives_rm_reg hcode hcodeG he fun e g => mk g e

theorem gives_rm_reg_imm (he : wfRm c e = true) (hp : Reads p bs v) (mk : Rm α → β → γ → Instr) :
    (modrm fun md reg rm => withRm c ofCode md rm fun e => p fun v => .done (mk e (ofCodeG reg) v)).Gives
      (encRm code (codeG g) e ++ bs) (mk e g v) :=
  gives_rm_imm hcode he hp (mk := fun e => mk e g) fun _ _ => by rw [hcodeG]

theorem gives_reg_rm_imm (he : wfRm c e = true) (hp : Reads p bs v) (mk : β → Rm α → γ → Instr) :
    (modrm fun md reg rm => withRm c ofCode md rm fun e => p fun v => .done (mk (ofCodeG reg) e v)).Gives
      (encRm code (codeG g) e ++ bs) (mk g e v) :=
  gives_rm_reg_imm hcode hcodeG he hp fun e g => mk g e

omit hcode in
theorem gives_reg_mem (hm : wfMem c m = true) (mk : β → Mem → Instr) :
    (modrm fun md reg rm => withMem c md rm fun m => .done (mk (ofCodeG reg) m)).Gives (encMem (codeG g) m) (mk g m) :=
  gives_mem hm (mk := mk g) fun _ _ => by rw [hcodeG]

end Operands

theorem gives_movEwSreg {c : Ctx} {e : Rm Reg} (he : wfRm c e = true) (sr : SegReg) :
    (modrm fun md reg rm => withSreg reg fun sr => withRm c Reg.ofCode md rm fun e => .done (.movEwSreg e sr)).Gives
      (encRm Reg.code sr.code e) (.movEwSreg e sr) :=
  gives_rm Reg.ofCode_code he (mk := fun e => .movEwSreg e sr) fun md rm => by
    rw [withSreg, SegReg.ofCode?_code]

theorem gives_movSregEw {c : Ctx} {e : Rm Reg} (he : wfRm c e = true) {sr : SegReg} (hsr : sr ≠ .cs) :
    (modrm fun md reg rm => withLoadSreg reg fun sr => withRm c Reg.ofCode md rm fun e => .done (.movSregEw sr e)).Gives
      (encRm Reg.code sr.code e) (.movSregEw sr e) :=
  gives_rm Reg.ofCode_code he fun md rm => by
    rw [withLoadSreg, withSreg, SegReg.ofCode?_code]
    exact (if_neg hsr).symm

/-- The moves of control, debug and test registers. -/
theorem gives_specialMove (mk : BitVec 2 → BitVec 3 → Reg → Instr) (md : BitVec 2) (n : BitVec 3) (r : Reg) :
    (modrm fun md reg rm => .done (mk md reg (Reg.ofCode rm))).Gives [modrmByte md n r.code] (mk md n r) := fun rest => by
  rw [List.singleton_append, modrm_run, Reg.ofCode_code]
  rfl

/-! ### Opcodes -/

section Opcodes

variable {c : Ctx} {op : Byte} {bs : List Byte} {i : Instr} {d : Dec}

theorem gives_opcode (h : (entry oneByte op c).Gives bs i) : (decode c).Gives (op :: bs) i := h

theorem gives_opcode2 (h : (entry twoByte op c).Gives bs i) : (decode c).Gives (0x0F :: op :: bs) i := h

theorem gives_entry (hop : entry oneByte op c = d) (h : d.Gives bs i) : (decode c).Gives (op :: bs) i :=
  gives_opcode (by rwa [hop])

theorem gives_entry2 (hop : entry twoByte op c = d) (h : d.Gives bs i) : (decode c).Gives (0x0F :: op :: bs) i :=
  gives_opcode2 (by rwa [hop])

end Opcodes

/-- The eight values of a field of three bits. -/
theorem field_cases {P : BitVec 3 → Prop} (x : BitVec 3) (h0 : P 0) (h1 : P 1) (h2 : P 2) (h3 : P 3) (h4 : P 4)
    (h5 : P 5) (h6 : P 6) (h7 : P 7) : P x := by
  have hcode : (Reg.ofCode x).code = x := by revert x; decide
  rw [← hcode]
  induction Reg.ofCode x <;> assumption

/-! The opcodes that hold a register, a condition or a field of the instruction. -/

section Entries

variable (c : Ctx)

theorem entry_incR (r : Reg) : entry oneByte (opPlus 0x40 r.code) c = .done (.incR r) := by induction r <;> rfl

theorem entry_decR (r : Reg) : entry oneByte (opPlus 0x48 r.code) c = .done (.decR r) := by induction r <;> rfl

theorem entry_pushR (r : Reg) : entry oneByte (opPlus 0x50 r.code) c = .done (.pushR r) := by induction r <;> rfl

theorem entry_popR (r : Reg) : entry oneByte (opPlus 0x58 r.code) c = .done (.popR r) := by induction r <;> rfl

/-- The opcode that would exchange EAX with itself is NOP. -/
theorem entry_xchgEaxR {r : Reg} (hr : r ≠ .eax) : entry oneByte (opPlus 0x90 r.code) c = .done (.xchgEaxR r) := by
  induction r with
  | eax => exact absurd rfl hr
  | _ => rfl

theorem entry_movR8Ib (r : Reg8) : entry oneByte (opPlus 0xB0 r.code) c = .need fun b => .done (.movR8Ib r b) := by
  induction r <;> rfl

theorem entry_movRIv (r : Reg) : entry oneByte (opPlus 0xB8 r.code) c = immV c fun v => .done (.movRIv r v) := by
  induction r <;> rfl

theorem entry_jccRel8 (cc : Cond) : entry oneByte (opCond 0x70 cc) c = .need fun b => .done (.jccRel8 cc b) := by
  induction cc <;> rfl

theorem entry_jccRel (cc : Cond) : entry twoByte (opCond 0x80 cc) c = immV c fun v => .done (.jccRel cc v) := by
  induction cc <;> rfl

theorem entry_setccEb (cc : Cond) : entry twoByte (opCond 0x90 cc) c
    = modrm fun md reg rm => withRm c Reg8.ofCode md rm fun e => .done (.setccEb cc reg e) := by
  induction cc <;> rfl

theorem entry_escape (hi : BitVec 3) : entry oneByte (opPlus 0xD8 hi) c
    = modrm fun md reg rm => withRm c Reg.ofCode md rm fun e => .done (.esc hi reg e) :=
  field_cases (P := fun hi => entry oneByte (opPlus 0xD8 hi) c
    = modrm fun md reg rm => withRm c Reg.ofCode md rm fun e => .done (.esc hi reg e)) hi rfl rfl rfl rfl rfl rfl rfl rfl

end Entries

/-! ### Decoding what was encoded -/

/-- Decoding the encoding of a well-formed instruction gives it back. Each case names the form of the encoding: what follows
the opcode, and the group of the opcode where the `reg` field is part of it. Each is checked as a lemma of its own, so that
what the check of one case computes is not kept for the next, and `induction` stands for `cases`, whose cases would carry
equations that none of them needs. -/
theorem decode_gives_encode {c : Ctx} {i : Instr} (h : i.wf c = true) : (decode c).Gives (encode c i) i := by
  induction i with
  | addEbGb | orEbGb | adcEbGb | sbbEbGb | andEbGb | subEbGb | xorEbGb | cmpEbGb | testEbGb | xchgEbGb | movEbGb =>
    as_aux_lemma => exact gives_opcode (gives_rm_reg Reg8.ofCode_code Reg8.ofCode_code h _)
  | addEvGv | orEvGv | adcEvGv | sbbEvGv | andEvGv | subEvGv | xorEvGv | cmpEvGv | arplEwGw | testEvGv | xchgEvGv
    | movEvGv =>
    as_aux_lemma => exact gives_opcode (gives_rm_reg Reg.ofCode_code Reg.ofCode_code h _)
  | addGbEb | orGbEb | adcGbEb | sbbGbEb | andGbEb | subGbEb | xorGbEb | cmpGbEb | movGbEb =>
    as_aux_lemma => exact gives_opcode (gives_reg_rm Reg8.ofCode_code Reg8.ofCode_code h _)
  | addGvEv | orGvEv | adcGvEv | sbbGvEv | andGvEv | subGvEv | xorGvEv | cmpGvEv | movGvEv =>
    as_aux_lemma => exact gives_opcode (gives_reg_rm Reg.ofCode_code Reg.ofCode_code h _)
  | addEaxIv | orEaxIv | adcEaxIv | sbbEaxIv | andEaxIv | subEaxIv | xorEaxIv | cmpEaxIv | pushIv | testEaxIv | callRel
    | jmpRel =>
    as_aux_lemma => exact gives_opcode ((reads_immV h).gives_done _)
  | addEbIb | orEbIb | adcEbIb | sbbEbIb | andEbIb | subEbIb | xorEbIb | cmpEbIb =>
    as_aux_lemma => exact gives_opcode (gives_rm_imm Reg8.ofCode_code h (reads_byte _) fun _ _ => rfl : (group80 c).Gives _ _)
  | addEvIv | orEvIv | adcEvIv | sbbEvIv | andEvIv | subEvIv | xorEvIv | cmpEvIv =>
    as_aux_lemma => exact gives_opcode (gives_rm_immV Reg.ofCode_code h fun _ _ => rfl : (group81 c).Gives _ _)
  | addEvIbs | orEvIbs | adcEvIbs | sbbEvIbs | andEvIbs | subEvIbs | xorEvIbs | cmpEvIbs =>
    as_aux_lemma => exact gives_opcode (gives_rm_imm Reg.ofCode_code h (reads_byte _) fun _ _ => rfl : (group83 c).Gives _ _)
  | xchgEaxR =>
    as_aux_lemma => exact gives_entry (entry_xchgEaxR c (bne_iff_ne.1 h)) fun _ => rfl
  | incR =>
    as_aux_lemma => exact gives_entry (entry_incR c _) fun _ => rfl
  | decR =>
    as_aux_lemma => exact gives_entry (entry_decR c _) fun _ => rfl
  | pushR =>
    as_aux_lemma => exact gives_entry (entry_pushR c _) fun _ => rfl
  | popR =>
    as_aux_lemma => exact gives_entry (entry_popR c _) fun _ => rfl
  | movR8Ib =>
    as_aux_lemma => exact gives_entry (entry_movR8Ib c _) fun _ => rfl
  | boundGvMa | leaGvM | lesGvMp | ldsGvMp =>
    as_aux_lemma => exact gives_opcode (gives_reg_mem Reg.ofCode_code h _)
  | imulGvEvIv =>
    obtain ⟨he, hv⟩ := Bool.and_eq_true_iff.1 h
    as_aux_lemma => exact gives_opcode (gives_reg_rm_imm Reg.ofCode_code Reg.ofCode_code he (reads_immV hv) _)
  | imulGvEvIb =>
    as_aux_lemma => exact gives_opcode (gives_reg_rm_imm Reg.ofCode_code Reg.ofCode_code h (reads_byte _) _)
  | jccRel8 =>
    as_aux_lemma => exact gives_entry (entry_jccRel8 c _) fun _ => rfl
  | popEv =>
    as_aux_lemma => exact gives_opcode (gives_rm Reg.ofCode_code h fun _ _ => rfl : (group8F c).Gives _ _)
  | callFar | jmpFar =>
    as_aux_lemma => exact gives_opcode ((reads_immV h).gives_done₂ (reads_imm16 _) _)
  | movAlOb | movEaxOv | movObAl | movOvEax =>
    as_aux_lemma => exact gives_opcode ((reads_offV h).gives_done _)
  | movRIv =>
    as_aux_lemma => exact gives_entry (entry_movRIv c _) ((reads_immV h).gives_done _)
  | rolEbIb | rorEbIb | rclEbIb | rcrEbIb | shlEbIb | shrEbIb | sarEbIb =>
    as_aux_lemma => exact gives_opcode (gives_rm_imm Reg8.ofCode_code h (reads_byte _) fun _ _ => rfl : (groupC0 c).Gives _ _)
  | rolEvIb | rorEvIb | rclEvIb | rcrEvIb | shlEvIb | shrEvIb | sarEvIb =>
    as_aux_lemma => exact gives_opcode (gives_rm_imm Reg.ofCode_code h (reads_byte _) fun _ _ => rfl : (groupC1 c).Gives _ _)
  | rolEb1 | rorEb1 | rclEb1 | rcrEb1 | shlEb1 | shrEb1 | sarEb1 =>
    as_aux_lemma => exact gives_opcode (gives_rm Reg8.ofCode_code h fun _ _ => rfl : (groupD0 c).Gives _ _)
  | rolEv1 | rorEv1 | rclEv1 | rcrEv1 | shlEv1 | shrEv1 | sarEv1 =>
    as_aux_lemma => exact gives_opcode (gives_rm Reg.ofCode_code h fun _ _ => rfl : (groupD1 c).Gives _ _)
  | rolEbCl | rorEbCl | rclEbCl | rcrEbCl | shlEbCl | shrEbCl | sarEbCl =>
    as_aux_lemma => exact gives_opcode (gives_rm Reg8.ofCode_code h fun _ _ => rfl : (groupD2 c).Gives _ _)
  | rolEvCl | rorEvCl | rclEvCl | rcrEvCl | shlEvCl | shrEvCl | sarEvCl =>
    as_aux_lemma => exact gives_opcode (gives_rm Reg.ofCode_code h fun _ _ => rfl : (groupD3 c).Gives _ _)
  | retNearIw | retFarIw =>
    as_aux_lemma => exact gives_opcode ((reads_imm16 _).gives_done _)
  | movEbIb =>
    as_aux_lemma => exact gives_opcode (gives_rm_imm Reg8.ofCode_code h (reads_byte _) fun _ _ => rfl : (groupC6 c).Gives _ _)
  | movEvIv =>
    as_aux_lemma => exact gives_opcode (gives_rm_immV Reg.ofCode_code h fun _ _ => rfl : (groupC7 c).Gives _ _)
  | enterIwIb =>
    as_aux_lemma => exact gives_opcode ((reads_imm16 _).gives_done₂ (reads_byte _) _)
  | esc =>
    as_aux_lemma => exact gives_entry (entry_escape c _) (gives_field_rm Reg.ofCode_code h _)
  | testEbIb =>
    as_aux_lemma => exact gives_opcode (gives_rm_imm Reg8.ofCode_code h (reads_byte _) fun _ _ => rfl : (groupF6 c).Gives _ _)
  | testEvIv =>
    as_aux_lemma => exact gives_opcode (gives_rm_immV Reg.ofCode_code h fun _ _ => rfl : (groupF7 c).Gives _ _)
  | notEb | negEb | mulEb | imulEb | divEb | idivEb =>
    as_aux_lemma => exact gives_opcode (gives_rm Reg8.ofCode_code h fun _ _ => rfl : (groupF6 c).Gives _ _)
  | notEv | negEv | mulEv | imulEv | divEv | idivEv =>
    as_aux_lemma => exact gives_opcode (gives_rm Reg.ofCode_code h fun _ _ => rfl : (groupF7 c).Gives _ _)
  | incEb | decEb =>
    as_aux_lemma => exact gives_opcode (gives_rm Reg8.ofCode_code h fun _ _ => rfl : (groupFE c).Gives _ _)
  | incEv | decEv | callNearEv | jmpNearEv | pushEv =>
    as_aux_lemma => exact gives_opcode (gives_rm Reg.ofCode_code h fun _ _ => rfl : (groupFF c).Gives _ _)
  | callFarMp | jmpFarMp =>
    as_aux_lemma => exact gives_opcode (gives_mem h fun _ _ => rfl : (groupFF c).Gives _ _)
  | sldtEw | strEw | lldtEw | ltrEw | verrEw | verwEw =>
    as_aux_lemma => exact gives_opcode2 (gives_rm Reg.ofCode_code h fun _ _ => rfl : (group0F00 c).Gives _ _)
  | sgdtMs | sidtMs | lgdtMs | lidtMs =>
    as_aux_lemma => exact gives_opcode2 (gives_mem h fun _ _ => rfl : (group0F01 c).Gives _ _)
  | smswEw | lmswEw =>
    as_aux_lemma => exact gives_opcode2 (gives_rm Reg.ofCode_code h fun _ _ => rfl : (group0F01 c).Gives _ _)
  | larGvEw | lslGvEw | imulGvEv | movzxGvEw | bsfGvEv | bsrGvEv | movsxGvEw =>
    as_aux_lemma => exact gives_opcode2 (gives_reg_rm Reg.ofCode_code Reg.ofCode_code h _)
  | movRCr | movCrR | movRDr | movDrR | movRTr | movTrR =>
    as_aux_lemma => exact gives_opcode2 (gives_specialMove _ _ _ _)
  | jccRel =>
    as_aux_lemma => exact gives_entry2 (entry_jccRel c _) ((reads_immV h).gives_done _)
  | setccEb =>
    as_aux_lemma => exact gives_entry2 (entry_setccEb c _) (gives_field_rm Reg8.ofCode_code h _)
  | btEvGv | btsEvGv | btrEvGv | btcEvGv | shldEvGvCl | shrdEvGvCl =>
    as_aux_lemma => exact gives_opcode2 (gives_rm_reg Reg.ofCode_code Reg.ofCode_code h _)
  | shldEvGvIb | shrdEvGvIb =>
    as_aux_lemma => exact gives_opcode2 (gives_rm_reg_imm Reg.ofCode_code Reg.ofCode_code h (reads_byte _) _)
  | lssGvMp | lfsGvMp | lgsGvMp =>
    as_aux_lemma => exact gives_opcode2 (gives_reg_mem Reg.ofCode_code h _)
  | movzxGvEb | movsxGvEb =>
    as_aux_lemma => exact gives_opcode2 (gives_reg_rm Reg8.ofCode_code Reg.ofCode_code h _)
  | btEvIb | btsEvIb | btrEvIb | btcEvIb =>
    as_aux_lemma => exact gives_opcode2 (gives_rm_imm Reg.ofCode_code h (reads_byte _) fun _ _ => rfl : (group0FBA c).Gives _ _)
  | movEwSreg =>
    as_aux_lemma => exact gives_opcode (gives_movEwSreg h _)
  | movSregEw =>
    obtain ⟨he, hsr⟩ := Bool.and_eq_true_iff.1 h
    as_aux_lemma => exact gives_opcode (gives_movSregEw he (bne_iff_ne.1 hsr))
  -- every byte is fixed, but for a byte that is the operand
  | _ =>
    as_aux_lemma => exact fun _ => rfl

/-! ### What the decoder gives is well formed -/

/-- Every instruction a decoder can come to satisfies `P`. -/
def Dec.All (P : Instr → Prop) : Dec → Prop
  | .done i => P i
  | .need k => ∀ b, (k b).All P
  | .bad => True

theorem Dec.All.of_run {P : Instr → Prop} {d : Dec} (h : d.All P) {bs rest : List Byte} {i : Instr}
    (hd : d.run bs = some (i, rest)) : P i := by
  induction d generalizing bs with
  | done j =>
    have hi : j = i := congrArg Prod.fst (Option.some.inj hd)
    exact hi ▸ h
  | need k ih =>
    cases bs with
    | nil => cases hd
    | cons b bs => exact ih b (h b) hd
  | bad => cases hd

section All

variable {P : Instr → Prop} {c : Ctx}

theorem all_imm16 {k : Word16 → Dec} (h : ∀ v, (k v).All P) : (imm16 k).All P := fun _ _ => h _

theorem all_imm32 {k : Word32 → Dec} (h : ∀ v, (k v).All P) : (imm32 k).All P := fun _ _ _ _ => h _

theorem all_modrm {k : BitVec 2 → BitVec 3 → BitVec 3 → Dec} (h : ∀ md reg rm, (k md reg rm).All P) : (modrm k).All P :=
  fun _ => h _ _ _

theorem toNat_setWidth_lt (v : Word16) : (v.setWidth 32).toNat < 0x10000 := by
  rw [BitVec.toNat_setWidth_of_le (by decide)]
  exact v.isLt

theorem all_sized {wide : Bool} {k : Word32 → Dec}
    (h : ∀ v : Word32, (wide || decide (v.toNat < 0x10000)) = true → (k v).All P) :
    (if wide then imm32 k else imm16 fun w => k (w.setWidth 32)).All P := by
  cases wide with
  | true => exact all_imm32 fun v => h v rfl
  | false => exact all_imm16 fun w => h _ (decide_eq_true (toNat_setWidth_lt w))

theorem all_immV {k : Word32 → Dec} (h : ∀ v, wfSized c v = true → (k v).All P) : (immV c k).All P := all_sized h

theorem all_offV {k : Word32 → Dec} (h : ∀ v, wfOffset c v = true → (k v).All P) : (offV c k).All P := all_sized h

theorem Base16.ofCode_eq_bp {x : BitVec 3} : Base16.ofCode x = .bp → x = 6 := by revert x; decide

theorem Reg.ofCode_eq_esp {x : BitVec 3} : Reg.ofCode x = .esp → x = 4 := by revert x; decide

theorem Reg.ofCode_eq_ebp {x : BitVec 3} : Reg.ofCode x = .ebp → x = 5 := by revert x; decide

/-- A base that needs a displacement has one. -/
theorem base_or_displacement {α β : Type} [DecidableEq α] [DecidableEq β] {a a0 : α} {b b0 : β}
    (h : a = a0 → b ≠ b0) : (a != a0 || b != b0) = true :=
  bne_or_bne_iff.2 (Decidable.not_or_of_imp h)

theorem all_ite {p : Prop} [Decidable p] {d e : Dec} (hd : p → d.All P) (he : ¬ p → e.All P) :
    (if p then d else e).All P := by
  split
  · next h => exact hd h
  · next h => exact he h

theorem all_mem16 {k : Mem → Dec} (hc : c.as32 = false) (h : ∀ m, wfMem c m = true → (k m).All P) (md : BitVec 2)
    (rm : BitVec 3) : (mem16 md rm k).All P := by
  have hshort : (!c.as32) = true := by rw [hc]; rfl
  have hbased {b : Base16} {d : Disp16} (hd : b = .bp → d ≠ .none) : (k (.based16 b d)).All P :=
    h _ (Bool.and_eq_true_iff.2 ⟨hshort, base_or_displacement hd⟩)
  unfold mem16
  cases md.toNat with
  | zero =>
    exact all_ite (fun _ => all_imm16 fun d => h _ hshort) fun hrm => hbased fun hb => absurd (Base16.ofCode_eq_bp hb) hrm
  | succ n =>
    cases n with
    | zero => exact fun d => hbased fun _ => Disp16.noConfusion
    | succ n => exact all_imm16 fun d => hbased fun _ => Disp16.noConfusion

theorem all_disp32 {md : BitVec 2} {k : Disp32 → Dec} (h : ∀ d, (d = .none → md = 0) → (k d).All P) :
    (disp32 md k).All P := by
  unfold disp32
  cases hmd : md.toNat with
  | zero => exact h _ fun _ => BitVec.eq_of_toNat_eq hmd
  | succ n =>
    cases n with
    | zero => exact fun d => h _ Disp32.noConfusion
    | succ n => exact all_imm32 fun d => h _ Disp32.noConfusion

theorem all_sibByte {k : Mem → Dec} (hc : c.as32 = true) (h : ∀ m, wfMem c m = true → (k m).All P) (md : BitVec 2) :
    (sibByte md k).All P := by
  rw [sibByte_eq_modrm]
  exact all_modrm fun ss x b => all_ite (fun _ => all_imm32 fun d => h _ hc) fun hb => all_disp32 fun d hd =>
    h _ (Bool.and_eq_true_iff.2 ⟨hc, base_or_displacement fun he hn => hb ⟨hd hn, Reg.ofCode_eq_ebp he⟩⟩)

theorem all_mem32 {k : Mem → Dec} (hc : c.as32 = true) (h : ∀ m, wfMem c m = true → (k m).All P) (md : BitVec 2)
    (rm : BitVec 3) : (mem32 md rm k).All P := by
  refine all_ite (fun _ => all_sibByte hc h md) fun hsp => all_ite (fun _ => all_imm32 fun d => h _ hc) fun hb => ?_
  have hbase : (c.as32 && Reg.ofCode rm != .esp) = true :=
    Bool.and_eq_true_iff.2 ⟨hc, bne_iff_ne.2 (mt Reg.ofCode_eq_esp hsp)⟩
  exact all_disp32 fun d hd =>
    h _ (Bool.and_eq_true_iff.2 ⟨hbase, base_or_displacement fun he hn => hb ⟨hd hn, Reg.ofCode_eq_ebp he⟩⟩)

theorem all_memory {k : Mem → Dec} (h : ∀ m, wfMem c m = true → (k m).All P) (md : BitVec 2) (rm : BitVec 3) :
    (if c.as32 then mem32 md rm k else mem16 md rm k).All P :=
  all_ite (fun hc => all_mem32 hc h md rm) fun hc => all_mem16 (eq_false_of_ne_true hc) h md rm

theorem all_withMem {md : BitVec 2} {rm : BitVec 3} {k : Mem → Dec} (h : ∀ m, wfMem c m = true → (k m).All P) :
    (withMem c md rm k).All P := all_ite (fun _ => trivial) fun _ => all_memory h md rm

theorem all_withRm {α : Type} {ofCode : BitVec 3 → α} {md : BitVec 2} {rm : BitVec 3} {k : Rm α → Dec}
    (h : ∀ e, wfRm c e = true → (k e).All P) : (withRm c ofCode md rm k).All P :=
  all_ite (fun _ => h _ rfl) fun _ => all_memory (fun m hm => h (.mem m) hm) md rm

theorem all_withSreg {reg : BitVec 3} {k : SegReg → Dec} (h : ∀ r, (k r).All P) : (withSreg reg k).All P := by
  unfold withSreg
  cases SegReg.ofCode? reg with
  | some r => exact h r
  | none => trivial

theorem all_withLoadSreg {reg : BitVec 3} {k : SegReg → Dec} (h : ∀ r, r ≠ .cs → (k r).All P) :
    (withLoadSreg reg k).All P := all_withSreg fun r => all_ite (fun _ => trivial) (h r)

end All

/-! ### The forms of an instruction -/

/-- What the decoder gives is well formed at the sizes `c`. -/
def Dec.Wf (c : Ctx) (d : Dec) : Prop := d.All fun i => i.wf c = true

section Forms

variable {c : Ctx} {α : Type} {ofCode : BitVec 3 → α} {md : BitVec 2} {x : BitVec 3}

theorem Dec.Wf.const {i : Instr} (h : true = i.wf c) : (Dec.done i).Wf c := h.symm

theorem Dec.Wf.rm {mk : Rm α → Instr} (h : wfRm c = fun e => (mk e).wf c) :
    (withRm c ofCode md x fun e => .done (mk e)).Wf c := all_withRm fun e he => (congrFun h e).symm.trans he

theorem Dec.Wf.rmByte {mk : Rm α → Byte → Instr} (h : (fun e _ => wfRm c e) = fun e b => (mk e b).wf c) :
    (withRm c ofCode md x fun e => .need fun b => .done (mk e b)).Wf c :=
  all_withRm fun e he b => (congrFun (congrFun h e) b).symm.trans he

theorem Dec.Wf.rmImm {mk : Rm α → Word32 → Instr}
    (h : (fun e v => wfRm c e && wfSized c v) = fun e v => (mk e v).wf c) :
    (withRm c ofCode md x fun e => immV c fun v => .done (mk e v)).Wf c :=
  all_withRm fun e he => all_immV fun v hv => (congrFun (congrFun h e) v).symm.trans (Bool.and_eq_true_iff.2 ⟨he, hv⟩)

theorem Dec.Wf.mem {mk : Mem → Instr} (h : wfMem c = fun m => (mk m).wf c) :
    (withMem c md x fun m => .done (mk m)).Wf c := all_withMem fun m hm => (congrFun h m).symm.trans hm

end Forms

/-- What a decoder of an opcode gives is well formed. -/
def GivesWf (d : Ctx → Dec) : Prop := ∀ c, (d c).Wf c

theorem GivesWf.bad : GivesWf fun _ => .bad := fun _ => trivial

theorem GivesWf.const {i : Instr} (h : (fun _ => true) = fun c => i.wf c) : GivesWf fun _ => .done i :=
  fun c => (congrFun h c).symm

theorem GivesWf.byte {mk : Byte → Instr} (h : (fun _ _ => true) = fun c b => (mk b).wf c) :
    GivesWf fun _ => .need fun b => .done (mk b) := fun c b => (congrFun (congrFun h c) b).symm

theorem GivesWf.imm {mk : Word32 → Instr} (h : wfSized = fun c v => (mk v).wf c) :
    GivesWf fun c => immV c fun v => .done (mk v) := fun c => all_immV fun v hv => (congrFun (congrFun h c) v).symm.trans hv

theorem GivesWf.off {mk : Word32 → Instr} (h : wfOffset = fun c v => (mk v).wf c) :
    GivesWf fun c => offV c fun v => .done (mk v) := fun c => all_offV fun v hv => (congrFun (congrFun h c) v).symm.trans hv

theorem GivesWf.far {mk : Word32 → Word16 → Instr} (h : (fun c v _ => wfSized c v) = fun c v w => (mk v w).wf c) :
    GivesWf fun c => immV c fun v => imm16 fun w => .done (mk v w) :=
  fun c => all_immV fun v hv => all_imm16 fun w => (congrFun (congrFun (congrFun h c) v) w).symm.trans hv

theorem GivesWf.word {mk : Word16 → Instr} (h : (fun _ _ => true) = fun c v => (mk v).wf c) :
    GivesWf fun _ => imm16 fun v => .done (mk v) := fun c => all_imm16 fun v => (congrFun (congrFun h c) v).symm

theorem GivesWf.special {mk : BitVec 2 → BitVec 3 → BitVec 3 → Instr}
    (h : (fun _ _ _ _ => true) = fun c md n r => (mk md n r).wf c) :
    GivesWf fun _ => modrm fun md reg rm => .done (mk md reg rm) :=
  fun c => all_modrm fun md n r => (congrFun (congrFun (congrFun (congrFun h c) md) n) r).symm

theorem GivesWf.ofModrm {k : Ctx → BitVec 2 → BitVec 3 → BitVec 3 → Dec} (h : ∀ c md reg rm, (k c md reg rm).Wf c) :
    GivesWf fun c => modrm (k c) := fun c => all_modrm (h c)

/-- The `reg` field selects an entry of a group. -/
theorem GivesWf.ofGroup {k : Ctx → BitVec 2 → BitVec 3 → BitVec 3 → Dec}
    (h0 : ∀ {c md rm}, (k c md 0 rm).Wf c) (h1 : ∀ {c md rm}, (k c md 1 rm).Wf c) (h2 : ∀ {c md rm}, (k c md 2 rm).Wf c)
    (h3 : ∀ {c md rm}, (k c md 3 rm).Wf c) (h4 : ∀ {c md rm}, (k c md 4 rm).Wf c) (h5 : ∀ {c md rm}, (k c md 5 rm).Wf c)
    (h6 : ∀ {c md rm}, (k c md 6 rm).Wf c) (h7 : ∀ {c md rm}, (k c md 7 rm).Wf c) : GivesWf fun c => modrm (k c) :=
  .ofModrm fun c md reg rm => field_cases (P := fun reg => (k c md reg rm).Wf c) reg h0 h1 h2 h3 h4 h5 h6 h7

section Modrm

variable {α : Type} {ofCode : BitVec 3 → α}

theorem GivesWf.rm {mk : BitVec 3 → Rm α → Instr}
    (h : (fun c _ e => wfRm c e) = fun c g e => (mk g e).wf c) :
    GivesWf fun c => modrm fun md reg rm => withRm c ofCode md rm fun e => .done (mk reg e) :=
  .ofModrm fun c _ g _ => .rm (congrFun (congrFun h c) g)

theorem GivesWf.rmByte {mk : BitVec 3 → Rm α → Byte → Instr}
    (h : (fun c _ e _ => wfRm c e) = fun c g e b => (mk g e b).wf c) :
    GivesWf fun c => modrm fun md reg rm => withRm c ofCode md rm fun e => .need fun b => .done (mk reg e b) :=
  .ofModrm fun c _ g _ => .rmByte (congrFun (congrFun h c) g)

theorem GivesWf.rmImm {mk : BitVec 3 → Rm α → Word32 → Instr}
    (h : (fun c _ e v => wfRm c e && wfSized c v) = fun c g e v => (mk g e v).wf c) :
    GivesWf fun c => modrm fun md reg rm => withRm c ofCode md rm fun e => immV c fun v => .done (mk reg e v) :=
  .ofModrm fun c _ g _ => .rmImm (congrFun (congrFun h c) g)

theorem GivesWf.mem {mk : BitVec 3 → Mem → Instr} (h : (fun c _ m => wfMem c m) = fun c g m => (mk g m).wf c) :
    GivesWf fun c => modrm fun md reg rm => withMem c md rm fun m => .done (mk reg m) :=
  .ofModrm fun c _ g _ => .mem (congrFun (congrFun h c) g)

end Modrm

/-! ### The tables

Each list below follows a group or a row of the opcode tables (30_encoding.md R290, R291) and names the form of each entry. -/

theorem group0F00_givesWf : GivesWf group0F00 := .ofGroup
  (.rm rfl) (.rm rfl) (.rm rfl) (.rm rfl) (.rm rfl) (.rm rfl) (.const rfl) (.const rfl)

theorem group0F01_givesWf : GivesWf group0F01 := .ofGroup
  (.mem rfl) (.mem rfl) (.mem rfl) (.mem rfl) (.rm rfl) (.const rfl) (.rm rfl) (.const rfl)

theorem group0FBA_givesWf : GivesWf group0FBA := .ofGroup
  (.const rfl) (.const rfl) (.const rfl) (.const rfl) (.rmByte rfl) (.rmByte rfl) (.rmByte rfl) (.rmByte rfl)

theorem group80_givesWf : GivesWf group80 := .ofGroup
  (.rmByte rfl) (.rmByte rfl) (.rmByte rfl) (.rmByte rfl) (.rmByte rfl) (.rmByte rfl) (.rmByte rfl) (.rmByte rfl)

theorem group81_givesWf : GivesWf group81 := .ofGroup
  (.rmImm rfl) (.rmImm rfl) (.rmImm rfl) (.rmImm rfl) (.rmImm rfl) (.rmImm rfl) (.rmImm rfl) (.rmImm rfl)

theorem group83_givesWf : GivesWf group83 := .ofGroup
  (.rmByte rfl) (.rmByte rfl) (.rmByte rfl) (.rmByte rfl) (.rmByte rfl) (.rmByte rfl) (.rmByte rfl) (.rmByte rfl)

theorem group8F_givesWf : GivesWf group8F := .ofGroup
  (.rm rfl) (.const rfl) (.const rfl) (.const rfl) (.const rfl) (.const rfl) (.const rfl) (.const rfl)

theorem groupC0_givesWf : GivesWf groupC0 := .ofGroup
  (.rmByte rfl) (.rmByte rfl) (.rmByte rfl) (.rmByte rfl) (.rmByte rfl) (.rmByte rfl) (.const rfl) (.rmByte rfl)

theorem groupC1_givesWf : GivesWf groupC1 := .ofGroup
  (.rmByte rfl) (.rmByte rfl) (.rmByte rfl) (.rmByte rfl) (.rmByte rfl) (.rmByte rfl) (.const rfl) (.rmByte rfl)

theorem groupC6_givesWf : GivesWf groupC6 := .ofGroup
  (.rmByte rfl) (.const rfl) (.const rfl) (.const rfl) (.const rfl) (.const rfl) (.const rfl) (.const rfl)

theorem groupC7_givesWf : GivesWf groupC7 := .ofGroup
  (.rmImm rfl) (.const rfl) (.const rfl) (.const rfl) (.const rfl) (.const rfl) (.const rfl) (.const rfl)

theorem groupD0_givesWf : GivesWf groupD0 := .ofGroup
  (.rm rfl) (.rm rfl) (.rm rfl) (.rm rfl) (.rm rfl) (.rm rfl) (.const rfl) (.rm rfl)

theorem groupD1_givesWf : GivesWf groupD1 := .ofGroup
  (.rm rfl) (.rm rfl) (.rm rfl) (.rm rfl) (.rm rfl) (.rm rfl) (.const rfl) (.rm rfl)

theorem groupD2_givesWf : GivesWf groupD2 := .ofGroup
  (.rm rfl) (.rm rfl) (.rm rfl) (.rm rfl) (.rm rfl) (.rm rfl) (.const rfl) (.rm rfl)

theorem groupD3_givesWf : GivesWf groupD3 := .ofGroup
  (.rm rfl) (.rm rfl) (.rm rfl) (.rm rfl) (.rm rfl) (.rm rfl) (.const rfl) (.rm rfl)

theorem groupF6_givesWf : GivesWf groupF6 := .ofGroup
  (.rmByte rfl) (.const rfl) (.rm rfl) (.rm rfl) (.rm rfl) (.rm rfl) (.rm rfl) (.rm rfl)

theorem groupF7_givesWf : GivesWf groupF7 := .ofGroup
  (.rmImm rfl) (.const rfl) (.rm rfl) (.rm rfl) (.rm rfl) (.rm rfl) (.rm rfl) (.rm rfl)

theorem groupFE_givesWf : GivesWf groupFE := .ofGroup
  (.rm rfl) (.rm rfl) (.const rfl) (.const rfl) (.const rfl) (.const rfl) (.const rfl) (.const rfl)

theorem groupFF_givesWf : GivesWf groupFF := .ofGroup
  (.rm rfl) (.rm rfl) (.rm rfl) (.mem rfl) (.rm rfl) (.mem rfl) (.rm rfl) (.const rfl)

/-- Every entry of a table satisfies `P`. -/
def Each {α : Type} (P : α → Prop) : List α → Prop
  | [] => True
  | a :: l => P a ∧ Each P l

/-- Half a row of an opcode table, before the entries `l`. -/
theorem Each.eight {α : Type} {P : α → Prop} {a0 a1 a2 a3 a4 a5 a6 a7 : α} {l : List α} (h0 : P a0) (h1 : P a1)
    (h2 : P a2) (h3 : P a3) (h4 : P a4) (h5 : P a5) (h6 : P a6) (h7 : P a7) (hl : Each P l) :
    Each P (a0 :: a1 :: a2 :: a3 :: a4 :: a5 :: a6 :: a7 :: l) := ⟨h0, h1, h2, h3, h4, h5, h6, h7, hl⟩

/-- An index leads to an entry of the table or, past its end, to the default. -/
theorem Each.getD {α : Type} {P : α → Prop} {l : List α} (h : Each P l) {d : α} (hd : P d) (n : Nat) :
    P (l.getD n d) := by
  induction l generalizing n with
  | nil => exact hd
  | cons a l ih =>
    obtain ⟨ha, hl⟩ := h
    cases n with
    | zero => exact ha
    | succ n => exact ih hl n

theorem Each.replicate {α : Type} {P : α → Prop} {a : α} (h : P a) (n : Nat) : Each P (List.replicate n a) := by
  induction n with
  | zero => trivial
  | succ n ih => exact ⟨h, ih⟩

/-- Every decoder of a row gives what is well formed. -/
def RowWf (row : List (Ctx → Dec)) : Prop := Each GivesWf row

theorem RowWf.nil : RowWf [] := trivial

theorem RowWf.unassigned : RowWf (List.replicate 16 fun _ => .bad) := Each.replicate .bad 16

theorem GivesWf.entry {rows : List (List (Ctx → Dec))} (h : Each RowWf rows) (b : Byte) : GivesWf (entry rows b) :=
  Each.getD (Each.getD h RowWf.nil _) .bad _

theorem movEwSreg_givesWf : GivesWf fun c =>
    modrm fun md reg rm => withSreg reg fun sr => withRm c Reg.ofCode md rm fun e => .done (.movEwSreg e sr) :=
  .ofModrm fun _ _ _ _ => all_withSreg fun _ => Dec.Wf.rm rfl

/-- The load of CS is not an encoding. -/
theorem movSregEw_givesWf : GivesWf fun c =>
    modrm fun md reg rm => withLoadSreg reg fun sr => withRm c Reg.ofCode md rm fun e => .done (.movSregEw sr e) :=
  .ofModrm fun _ _ _ _ => all_withLoadSreg fun _ hr =>
    all_withRm fun _ he => Bool.and_eq_true_iff.2 ⟨he, bne_iff_ne.2 hr⟩

theorem enter_givesWf : GivesWf fun _ => imm16 fun v => .need fun b => .done (.enterIwIb v b) :=
  fun _ => all_imm16 fun _ _ => rfl

theorem two0_rowWf : RowWf two0 :=
  .eight group0F00_givesWf group0F01_givesWf (.rm rfl) (.rm rfl) .bad .bad (.const rfl) .bad <|
  .eight .bad .bad .bad .bad .bad .bad .bad .bad trivial

theorem two2_rowWf : RowWf two2 :=
  .eight (.special rfl) (.special rfl) (.special rfl) (.special rfl) (.special rfl) .bad (.special rfl) .bad <|
  .eight .bad .bad .bad .bad .bad .bad .bad .bad trivial

theorem two8_rowWf : RowWf two8 :=
  .eight (.imm rfl) (.imm rfl) (.imm rfl) (.imm rfl) (.imm rfl) (.imm rfl) (.imm rfl) (.imm rfl) <|
  .eight (.imm rfl) (.imm rfl) (.imm rfl) (.imm rfl) (.imm rfl) (.imm rfl) (.imm rfl) (.imm rfl) trivial

theorem two9_rowWf : RowWf two9 :=
  .eight (.rm rfl) (.rm rfl) (.rm rfl) (.rm rfl) (.rm rfl) (.rm rfl) (.rm rfl) (.rm rfl) <|
  .eight (.rm rfl) (.rm rfl) (.rm rfl) (.rm rfl) (.rm rfl) (.rm rfl) (.rm rfl) (.rm rfl) trivial

theorem twoA_rowWf : RowWf twoA :=
  .eight (.const rfl) (.const rfl) .bad (.rm rfl) (.rmByte rfl) (.rm rfl) (.const rfl) (.const rfl) <|
  .eight (.const rfl) (.const rfl) .bad (.rm rfl) (.rmByte rfl) (.rm rfl) .bad (.rm rfl) trivial

theorem twoB_rowWf : RowWf twoB :=
  .eight .bad .bad (.mem rfl) (.rm rfl) (.mem rfl) (.mem rfl) (.rm rfl) (.rm rfl) <|
  .eight .bad .bad group0FBA_givesWf (.rm rfl) (.rm rfl) (.rm rfl) (.rm rfl) (.rm rfl) trivial

theorem twoByte_eachRowWf : Each RowWf twoByte :=
  .eight two0_rowWf .unassigned two2_rowWf .unassigned .unassigned .unassigned .unassigned .unassigned <|
  .eight two8_rowWf two9_rowWf twoA_rowWf twoB_rowWf .unassigned .unassigned .unassigned .unassigned trivial

theorem secondByte_givesWf : GivesWf fun c => .need fun b => entry twoByte b c :=
  fun c b => GivesWf.entry twoByte_eachRowWf b c

theorem one0_rowWf : RowWf one0 :=
  .eight (.rm rfl) (.rm rfl) (.rm rfl) (.rm rfl) (.byte rfl) (.imm rfl) (.const rfl) (.const rfl) <|
  .eight (.rm rfl) (.rm rfl) (.rm rfl) (.rm rfl) (.byte rfl) (.imm rfl) (.const rfl) secondByte_givesWf trivial

theorem one1_rowWf : RowWf one1 :=
  .eight (.rm rfl) (.rm rfl) (.rm rfl) (.rm rfl) (.byte rfl) (.imm rfl) (.const rfl) (.const rfl) <|
  .eight (.rm rfl) (.rm rfl) (.rm rfl) (.rm rfl) (.byte rfl) (.imm rfl) (.const rfl) (.const rfl) trivial

theorem one2_rowWf : RowWf one2 :=
  .eight (.rm rfl) (.rm rfl) (.rm rfl) (.rm rfl) (.byte rfl) (.imm rfl) (.const rfl) (.const rfl) <|
  .eight (.rm rfl) (.rm rfl) (.rm rfl) (.rm rfl) (.byte rfl) (.imm rfl) (.const rfl) (.const rfl) trivial

theorem one3_rowWf : RowWf one3 :=
  .eight (.rm rfl) (.rm rfl) (.rm rfl) (.rm rfl) (.byte rfl) (.imm rfl) (.const rfl) (.const rfl) <|
  .eight (.rm rfl) (.rm rfl) (.rm rfl) (.rm rfl) (.byte rfl) (.imm rfl) (.const rfl) (.const rfl) trivial

theorem one4_rowWf : RowWf one4 :=
  .eight (.const rfl) (.const rfl) (.const rfl) (.const rfl) (.const rfl) (.const rfl) (.const rfl) (.const rfl) <|
  .eight (.const rfl) (.const rfl) (.const rfl) (.const rfl) (.const rfl) (.const rfl) (.const rfl) (.const rfl) trivial

theorem one5_rowWf : RowWf one5 :=
  .eight (.const rfl) (.const rfl) (.const rfl) (.const rfl) (.const rfl) (.const rfl) (.const rfl) (.const rfl) <|
  .eight (.const rfl) (.const rfl) (.const rfl) (.const rfl) (.const rfl) (.const rfl) (.const rfl) (.const rfl) trivial

theorem one6_rowWf : RowWf one6 :=
  .eight (.const rfl) (.const rfl) (.mem rfl) (.rm rfl) (.const rfl) (.const rfl) (.const rfl) (.const rfl) <|
  .eight (.imm rfl) (.rmImm rfl) (.byte rfl) (.rmByte rfl) (.const rfl) (.const rfl) (.const rfl) (.const rfl) trivial

theorem one7_rowWf : RowWf one7 :=
  .eight (.byte rfl) (.byte rfl) (.byte rfl) (.byte rfl) (.byte rfl) (.byte rfl) (.byte rfl) (.byte rfl) <|
  .eight (.byte rfl) (.byte rfl) (.byte rfl) (.byte rfl) (.byte rfl) (.byte rfl) (.byte rfl) (.byte rfl) trivial

theorem one8_rowWf : RowWf one8 :=
  .eight group80_givesWf group81_givesWf (.const rfl) group83_givesWf (.rm rfl) (.rm rfl) (.rm rfl) (.rm rfl) <|
  .eight (.rm rfl) (.rm rfl) (.rm rfl) (.rm rfl) movEwSreg_givesWf (.mem rfl) movSregEw_givesWf group8F_givesWf trivial

theorem one9_rowWf : RowWf one9 :=
  .eight (.const rfl) (.const rfl) (.const rfl) (.const rfl) (.const rfl) (.const rfl) (.const rfl) (.const rfl) <|
  .eight (.const rfl) (.const rfl) (.far rfl) (.const rfl) (.const rfl) (.const rfl) (.const rfl) (.const rfl) trivial

theorem oneA_rowWf : RowWf oneA :=
  .eight (.off rfl) (.off rfl) (.off rfl) (.off rfl) (.const rfl) (.const rfl) (.const rfl) (.const rfl) <|
  .eight (.byte rfl) (.imm rfl) (.const rfl) (.const rfl) (.const rfl) (.const rfl) (.const rfl) (.const rfl) trivial

theorem oneB_rowWf : RowWf oneB :=
  .eight (.byte rfl) (.byte rfl) (.byte rfl) (.byte rfl) (.byte rfl) (.byte rfl) (.byte rfl) (.byte rfl) <|
  .eight (.imm rfl) (.imm rfl) (.imm rfl) (.imm rfl) (.imm rfl) (.imm rfl) (.imm rfl) (.imm rfl) trivial

theorem oneC_rowWf : RowWf oneC :=
  .eight groupC0_givesWf groupC1_givesWf (.word rfl) (.const rfl) (.mem rfl) (.mem rfl) groupC6_givesWf groupC7_givesWf <|
  .eight enter_givesWf (.const rfl) (.word rfl) (.const rfl) (.const rfl) (.byte rfl) (.const rfl) (.const rfl) trivial

theorem oneD_rowWf : RowWf oneD :=
  .eight groupD0_givesWf groupD1_givesWf groupD2_givesWf groupD3_givesWf (.byte rfl) (.byte rfl) (.const rfl) (.const rfl) <|
  .eight (.rm rfl) (.rm rfl) (.rm rfl) (.rm rfl) (.rm rfl) (.rm rfl) (.rm rfl) (.rm rfl) trivial

theorem oneE_rowWf : RowWf oneE :=
  .eight (.byte rfl) (.byte rfl) (.byte rfl) (.byte rfl) (.byte rfl) (.byte rfl) (.byte rfl) (.byte rfl) <|
  .eight (.imm rfl) (.imm rfl) (.far rfl) (.byte rfl) (.const rfl) (.const rfl) (.const rfl) (.const rfl) trivial

theorem oneF_rowWf : RowWf oneF :=
  .eight (.const rfl) (.const rfl) (.const rfl) (.const rfl) (.const rfl) (.const rfl) groupF6_givesWf groupF7_givesWf <|
  .eight (.const rfl) (.const rfl) (.const rfl) (.const rfl) (.const rfl) (.const rfl) groupFE_givesWf groupFF_givesWf trivial

theorem oneByte_eachRowWf : Each RowWf oneByte :=
  .eight one0_rowWf one1_rowWf one2_rowWf one3_rowWf one4_rowWf one5_rowWf one6_rowWf one7_rowWf <|
  .eight one8_rowWf one9_rowWf oneA_rowWf oneB_rowWf oneC_rowWf oneD_rowWf oneE_rowWf oneF_rowWf trivial

theorem decode_givesWf : GivesWf decode := fun c b => GivesWf.entry oneByte_eachRowWf b c

theorem decode_of_encode_eq {c : Ctx} {i : Instr} {bs : List Byte} (h : i.wf c = true) (hbs : encode c i = bs) :
    (decode c).run bs = some (i, []) := by
  rw [← hbs, ← List.append_nil (encode c i), decode_gives_encode h]

/-- Settles O53: the encoder's bytes are read back form by form, and the tables hold well-formed instructions only. -/
theorem decodeAndEncodeAgree : Obligations.DecodeAndEncodeAgree :=
  ⟨fun _ _ rest h => decode_gives_encode h rest, fun c _ _ _ h => Dec.All.of_run (decode_givesWf c) h⟩

/-- Settles O54: each word is the encoding of the instruction it decodes to. -/
theorem writtenWordsDecode : Obligations.WrittenWordsDecode :=
  ⟨decode_of_encode_eq rfl rfl, decode_of_encode_eq rfl rfl, decode_of_encode_eq rfl rfl, decode_of_encode_eq rfl rfl,
    decode_of_encode_eq rfl rfl, decode_of_encode_eq rfl rfl, decode_of_encode_eq rfl rfl⟩

end Sys2Proof


/-! Prefixes, the fetch of an instruction from ordinary memory, and its completion (30_encoding.md R262, R265; 60_exceptions.md
R635, R660). -/

namespace Sys2Proof.Machine

/-! ### Prefixes -/

theorem runPrefix_of_ok {m : M Unit} {s t : State} (h : m s = .ok () t) :
    runPrefix m s = .next { t with cur := { t.cur with inPrefix := true } } := by
  simp only [runPrefix, h]

/-- Settles O56: each writes only its field of the latch, and LOCK first passes the test of IOPL. -/
theorem prefixesNoteThemselves : Obligations.PrefixesNoteThemselves := by
  refine fun s => ⟨rfl, rfl, rfl, rfl, rfl, rfl, rfl, rfl, rfl, rfl, fun h => ?_⟩
  have hlock : (do ioSensitive; notePrefix fun c => { c with lock := true } : M Unit) s
      = .ok () { s with cur := { s.cur with lock := true } } := bind_of_ok (ioSensitive_of_allowed h)
  exact runPrefix_of_ok hlock

/-! ### The items of an instruction -/

section Items

variable {fuel : Nat} {u s1 : State} {i : Instr}

/-- The last item ends the instruction: after it the latch is idle. -/
theorem runItems_of_instruction (h : fetchItem u = .ok i s1) (hi : isPrefix i = false) :
    runItems (fuel + 1) u = exec i s1 := by
  have hsettled : NextSatisfies Settled (exec i s1) := by
    obtain ⟨m, hm⟩ := exec_eq_run i s1
    rw [hm, hi]
    exact settled_runInstr m s1
  rw [runItems, h]
  dsimp only
  generalize exec i s1 = outcome at hsettled ⊢
  cases outcome with
  | next t => exact if_neg (ne_true_of_eq_false (congrArg Latch.inPrefix (hsettled t rfl)))
  | fault r => rfl
  | refused r => rfl

theorem runItems_of_prefix {t : State} (h : fetchItem u = .ok i s1) (ht : exec i s1 = .next t)
    (hp : t.cur.inPrefix = true) : runItems (fuel + 1) u = runItems fuel t := by
  rw [runItems, h]
  dsimp only
  rw [ht]
  exact if_pos hp

theorem runItems_of_error {x : Exc} (h : fetchItem u = .error x s1) : runItems (fuel + 1) u = takeExc u s1 x := by
  rw [runItems, h]

end Items

theorem step_of_no_event {s : State} (hrun : s.run = .running) (h : boundaryEvent s = none) :
    step s = runItems 16 s.noteBreaks.begin := by
  rw [step, hrun]
  dsimp only
  rw [runningStep, h]
  rfl

/-! ### Fetching from ordinary memory -/

/-- The state where the instruction has been fetched up to `npc`, `count` bytes of it. -/
def State.fetchedTo (u : State) (npc : Word32) (count : Nat) : State :=
  { u with cur := { u.cur with npc := npc, count := count } }

/-- The state after `n` more bytes of the instruction have been fetched. -/
def State.fetched (u : State) (n : Nat) : State := u.fetchedTo (u.cur.npc + BitVec.ofNat 32 n) (u.cur.count + n)

theorem State.fetched_zero (u : State) : u.fetched 0 = u :=
  congrArg (u.fetchedTo · u.cur.count) (BitVec.add_zero _)

theorem State.fetched_one_fetched (u : State) (n : Nat) : (u.fetched 1).fetched n = u.fetched (n + 1) := by
  have hnpc : u.cur.npc + BitVec.ofNat 32 1 + BitVec.ofNat 32 n = u.cur.npc + BitVec.ofNat 32 (n + 1) := by
    rw [Nat.add_comm n 1, BitVec.ofNat_add, BitVec.add_assoc]
  have hcount : u.cur.count + 1 + n = u.cur.count + (n + 1) := Nat.add_right_comm _ 1 n
  have hsame := congr (congrArg u.fetchedTo hnpc) hcount
  exact hsame

/-- The bytes `bs` lie where the instruction goes on, and the code segment and the longest instruction have room for them. -/
def State.HoldsCode (u : State) (bs : List Byte) : Prop := ∀ (k : Nat) (b : Byte), bs[k]? = some b →
  u.cur.count + k < 15 ∧ u.segFault .cs (u.cur.npc + BitVec.ofNat 32 k) 1 .execute = none
    ∧ Memory.get u.mem (u.segs.cs.base + (u.cur.npc + BitVec.ofNat 32 k)).toNat = b

section HoldsCode

variable {u : State} {b : Byte} {bs : List Byte}

theorem State.HoldsCode.tail (h : u.HoldsCode (b :: bs)) : (u.fetched 1).HoldsCode bs := by
  intro k b hk
  have hnext : (u.fetched 1).cur.npc + BitVec.ofNat 32 k = u.cur.npc + BitVec.ofNat 32 (k + 1) := by
    rw [Nat.add_comm k 1, BitVec.ofNat_add, ← BitVec.add_assoc]
    rfl
  have hcount : (u.fetched 1).cur.count + k = u.cur.count + (k + 1) := Nat.add_right_comm _ 1 k
  rw [hnext, hcount]
  exact h (k + 1) b hk

theorem fetchMemory_of_code (hflat : u.flat = true) (h : u.HoldsCode (b :: bs)) : fetchMemory u = .ok b u := by
  obtain ⟨-, hfault, hbyte⟩ := h 0 b rfl
  have hnpc : u.cur.npc + BitVec.ofNat 32 0 = u.cur.npc := BitVec.add_zero _
  rw [hnpc] at hfault hbyte
  rw [fetchMemory, bind_of_ok (get_apply u), bind_of_ok (linear_of_no_segFault hfault), bind_of_ok (reads_apply _ u),
    bind_of_ok (translate_of_not_pg (u.flat_iff.1 hflat).1 _ _ _), readByte_of_ram (State.kindAt_of_flat hflat _)]
  exact congrArg (EStateM.Result.ok · u) hbyte

/-- None of the bytes is in the prefetch queue. -/
theorem fetchByte_of_code (hflat : u.flat = true) (hfresh : u.stale = []) (h : u.HoldsCode (b :: bs)) :
    fetchByte u = .ok b (u.fetched 1) := by
  have hstream : streamByte u = .ok b u := by
    have hold : (u.staleValues u.queueStart).isEmpty = true := by rw [State.staleValues, hfresh]; rfl
    rw [streamByte, bind_of_ok (get_apply u), ite_apply, if_pos hold, fetchMemory_of_code hflat h]
  have hroom : decide (15 ≤ u.cur.count) = false := decide_eq_false (Nat.not_le.2 (h 0 b rfl).1)
  exact (bind_of_ok (get_apply u)).trans ((raiseIf_bind_of_false hroom).trans (bind_of_ok hstream))

/-- A decoder that takes exactly the bytes that lie there is fed them. -/
theorem feed_of_code {d : Dec} {i : Instr} (hflat : u.flat = true) (hfresh : u.stale = []) (hd : d.run bs = some (i, []))
    (h : u.HoldsCode bs) : feed d u = .ok (some i) (u.fetched bs.length) := by
  induction d generalizing u bs with
  | done j => cases hd; exact congrArg (EStateM.Result.ok (some i)) u.fetched_zero.symm
  | need k ih =>
    cases bs with
    | nil => cases hd
    | cons b bs =>
      exact (bind_of_ok (fetchByte_of_code hflat hfresh h)).trans ((ih b (u := u.fetched 1) hflat hfresh hd h.tail).trans
        (congrArg (EStateM.Result.ok (some i)) (u.fetched_one_fetched bs.length)))
  | bad => cases hd

end HoldsCode

/-! ### The test of ESC at its opcode -/

/-- The instruction is ESC. -/
def IsEsc (i : Instr) : Prop := ∃ hi op e, i = .esc hi op e

theorem eq_opPlus_of_isEscape {b : Byte} (h : isEscape b = true) : b = opPlus 0xD8 (b.extractLsb' 0 3) := by
  have hfields : 0b11011#5 ++ b.extractLsb' 0 3 = b := by
    rw [← beq_iff_eq.1 (show (b.extractLsb' 3 5 == 0b11011#5) = true from h)]
    exact (append_adjacentFields b 0 3 5).trans BitVec.extractLsb'_eq_self
  have hcode : ∀ x : BitVec 3, 0b11011#5 ++ x = opPlus 0xD8 x := by decide
  exact hfields.symm.trans (hcode _)

/-- The opcodes that are tested for NM are those of ESC. -/
theorem isEsc_of_isEscape {c : Ctx} {b : Byte} {bs rest : List Byte} {i : Instr} (hb : isEscape b = true)
    (h : (decode c).run (b :: bs) = some (i, rest)) : IsEsc i := by
  have hall : (entry oneByte b c).All IsEsc := by
    rw [eq_opPlus_of_isEscape hb, entry_escape]
    exact all_modrm fun _ reg _ => all_withRm (c := c) fun e _ => ⟨_, reg, e, rfl⟩
  exact hall.of_run h

theorem exec_of_isEsc {i : Instr} {s : State} (hi : IsEsc i) (h : (s.cr0.em || s.cr0.ts) = true) :
    exec i s = takeExc s s .nm := by
  obtain ⟨hi, op, e, rfl⟩ := hi
  have hnm : escape hi op e s = .error .nm s := by
    rw [escape, bind_of_ok (get_apply s), raiseIf_bind_of_true h]
  exact runInstr_of_error hnm

/-- What was fetched of an instruction makes no difference to the event that ends it. -/
theorem takeExc_fetched {u : State} (h : u.cur.committed = false) (m n : Nat) (x : Exc) :
    takeExc u (u.fetched m) x = takeExc (u.fetched n) (u.fetched n) x := by
  have hm : (u.fetched m).cur.committed = false := h
  have hn : (u.fetched n).cur.committed = false := h
  rw [takeExc_of_not_committed hm, takeExc_of_not_committed hn, unwind_of_not_committed hm, unwind_of_not_committed hn]
  rfl

/-! ### An instruction in ordinary memory -/

theorem isPrefix_or_not_isLock (i : Instr) : (isPrefix i || !isLock i) = true := by
  induction i with
  | _ => exact Eq.refl true

theorem fetchBeforeLockTest_of_not_isPrefix {i : Instr} (h : isPrefix i = false) (s : State) :
    fetchBeforeLockTest i s = .ok () s := by
  have hlock : isLock i = false := by
    have hor := isPrefix_or_not_isLock i
    rw [h] at hor
    exact Bool.not_eq_eq_eq_not.1 hor
  unfold fetchBeforeLockTest
  rw [hlock]
  rfl

section FetchItem

variable {u : State} {i : Instr} {bs : List Byte} (hflat : u.flat = true) (hfresh : u.stale = [])
  (hdec : (decode ⟨u.os32, u.as32⟩).run bs = some (i, [])) (hcode : u.HoldsCode bs)
include hflat hfresh hdec hcode

/-- The instruction is fetched whole, unless it is ESC and its opcode ends it. -/
theorem drive_of_code : drive (decode ⟨u.os32, u.as32⟩) u = .ok i (u.fetched bs.length)
    ∨ IsEsc i ∧ (u.cr0.em || u.cr0.ts) = true ∧ drive (decode ⟨u.os32, u.as32⟩) u = .error .nm (u.fetched 1) := by
  cases bs with
  | nil => cases hdec
  | cons b bs =>
    have hfeed : feed (entry oneByte b ⟨u.os32, u.as32⟩) (u.fetched 1) = .ok (some i) (u.fetched (bs.length + 1)) :=
      (feed_of_code (u := u.fetched 1) (d := entry oneByte b ⟨u.os32, u.as32⟩) hflat hfresh hdec hcode.tail).trans
        (by rw [State.fetched_one_fetched])
    cases htest : isEscape b && !u.cur.lock && (u.cr0.em || u.cr0.ts) with
    | true =>
      have hraise : escapeTest b (u.fetched 1) = .error .nm (u.fetched 1) :=
        (bind_of_ok (get_apply _)).trans (if_pos htest)
      obtain ⟨⟨hb, -⟩, hnm⟩ := (Bool.and_eq_true_iff.1 htest).imp_left Bool.and_eq_true_iff.1
      refine .inr ⟨isEsc_of_isEscape hb hdec, hnm, bind_of_error ?_⟩
      exact (bind_of_ok (fetchByte_of_code hflat hfresh hcode)).trans (bind_of_error hraise)
    | false =>
      have hpass : escapeTest b (u.fetched 1) = .ok () (u.fetched 1) :=
        (bind_of_ok (get_apply _)).trans (raiseIf_eq_ok.2 ⟨htest, rfl⟩)
      have hopcode : feedOpcode (decode ⟨u.os32, u.as32⟩) u = .ok (some i) (u.fetched (bs.length + 1)) :=
        (bind_of_ok (fetchByte_of_code hflat hfresh hcode)).trans ((bind_of_ok hpass).trans hfeed)
      exact .inl (bind_of_ok hopcode)

/-- The bytes at CS:pc that decode to an instruction are that instruction. ESC raises NM at its opcode already, with the
same outcome. -/
theorem runItems_of_code (hlatch : u.cur.lock = false ∧ u.cur.committed = false) (hi : isPrefix i = false) (fuel : Nat) :
    runItems (fuel + 1) u = exec i (u.fetched bs.length) := by
  obtain ⟨hlock, hcommitted⟩ := hlatch
  rcases drive_of_code hflat hfresh hdec hcode with hdrive | ⟨hesc, hnm, hdrive⟩
  · have hud : ((u.cur.lock && !isPrefix i) && !lockable i) = false := by rw [hlock]; rfl
    have hitem : fetchItem u = .ok i (u.fetched bs.length) :=
      (bind_of_ok (get_apply u)).trans ((bind_of_ok hdrive).trans ((raiseIf_bind_of_false hud).trans
        (bind_of_ok (fetchBeforeLockTest_of_not_isPrefix hi _))))
    exact runItems_of_instruction hitem hi
  · have hitem : fetchItem u = .error .nm (u.fetched 1) := (bind_of_ok (get_apply u)).trans (bind_of_error hdrive)
    rw [runItems_of_error hitem, exec_of_isEsc (s := u.fetched bs.length) hesc hnm, takeExc_fetched hcommitted 1 bs.length]

end FetchItem

/-! ### Completion -/

theorem State.complete_flags (s : State) (tf : Bool) :
    (s.complete tf).flags = { s.flags with rf := s.flags.rf && (s.cur.keepRf || s.cur.repeats) } := rfl

theorem State.complete_dbgPending (s : State) (tf : Bool) :
    (s.complete tf).dbgPending = (s.dbgPending || (tf && !s.cur.noTrap)) := rfl

/-- Settles O55: the items of a step are fetched and run one by one, in ordinary memory they are the bytes at CS:pc, and the
last of them completes. -/
theorem stepRunsTheDecodedInstruction : Obligations.StepRunsTheDecodedInstruction := by
  refine ⟨fun s => step_of_no_event, fun fuel u s1 i h => ⟨runItems_of_instruction h, fun t _ => runItems_of_prefix h⟩,
    fun fuel u s1 x => runItems_of_error, ?_, ?_⟩
  · intro s i bs hrun hevent hflat hstale hdec hi hlen hbytes u
    have hos : u.os32 = s.code32 := Bool.bne_false _
    have has : u.as32 = s.code32 := Bool.bne_false _
    have hcode : u.HoldsCode bs := fun k b hk =>
      have hlt : 0 + k < bs.length := (Nat.zero_add k).symm ▸ (List.getElem?_eq_some_iff.1 hk).1
      ⟨Nat.lt_of_lt_of_le hlt hlen, hbytes k b hk⟩
    have hfetched : u.fetched bs.length
        = { u with cur := { u.cur with npc := s.pc + BitVec.ofNat 32 bs.length, count := bs.length } } :=
      congrArg (u.fetchedTo _) (Nat.zero_add _)
    rw [step_of_no_event hrun hevent, ← hfetched]
    exact runItems_of_code (u := u) hflat hstale (by rwa [hos, has]) hcode ⟨rfl, rfl⟩ hi 15
  · intro s tf t traps
    have htrap : (tf && !s.cur.noTrap) = true ↔ traps := by
      rw [Bool.and_eq_true, Bool.not_eq_true']
    refine ⟨fun h => ?_, fun hj hr => ?_, fun h => ?_, fun hk hr => ?_, fun h => ⟨?_, ?_⟩, fun h => ⟨?_, ?_⟩,
      rfl, rfl, rfl⟩
    · exact if_pos (Bool.or_eq_true_iff.2 h)
    · exact if_neg (by rw [hj, hr]; decide)
    · exact (s.complete_flags tf).trans (by rw [Bool.or_eq_true_iff.2 h, Bool.and_true])
    · exact (s.complete_flags tf).trans (by rw [hk, hr, Bool.or_false, Bool.and_false])
    · exact if_pos (htrap.2 h)
    · exact (s.complete_dbgPending tf).trans (by rw [htrap.2 h, Bool.or_true])
    · exact if_neg (mt htrap.1 h)
    · exact (s.complete_dbgPending tf).trans (by rw [eq_false_of_ne_true (mt htrap.1 h), Bool.or_false])

end Sys2Proof.Machine
